-- ==== Sys2Proof/Word.lean ====
section
/-! DEFINITION. The two word types of the CORE (spec/00_scope.md R12): every arithmetic rule of the spec that is not
reduced `mod 2^n` is on unbounded integers, and those quantities are `Nat` (or `Int`) in this model. -/

namespace Sys2Proof

/-- `u8` of R12: a byte of the stream, the window, filter memory or a table. -/
abbrev Byte := BitVec 8

/-- `u32` of R12: a register of the parameter/status port, an operand of a command, a Filter VM register. -/
abbrev Word := BitVec 32

end Sys2Proof
end

