-- ==== Sys2Proof/Config.lean ====
section
/-! DEFINITION. The implementation parameters of spec/00_scope.md R10, each a named constant with the value R10 gives it (but
for `W`, a parameter of the session; `FRAG_BLOCKS`, which is not observable; and `CATALOGUE`, a field of `State`, log entry 2);
the slot tables of spec/30_encoding.md R95 and R96; the static rank code lengths of spec/43_tokens.md R227; the form of the
catalogue of standard filters (R11); and the free values of the model. -/

namespace Sys2Proof

/-- The seven filter kinds of spec/30_encoding.md R109. -/
inductive FilterKind where
  | none | e8 | e8e9 | itanium | delta | rgb | audio
  deriving DecidableEq, Repr

/-- One entry `(body length, CRC-32, kind)` of `CATALOGUE` (R11, spec/47_filtervm.md R315). -/
structure CatalogueEntry where
  bodyLen : Nat
  crc : Word
  kind : FilterKind
  deriving DecidableEq, Repr

namespace Config

/-- Largest width of one `peek` (R124). -/
def peekMax : Nat := 32
/-- `refill` pulls when fewer bytes than this remain buffered (R129). -/
def refillThreshold : Nat := 30
/-- Capacity of the input buffer. -/
def inbufSize : Nat := 32768
/-- Longest Huffman code (R140). -/
def maxCodeLen : Nat := 16
/-- Width of the quick-lookup index (R145). -/
def quickBits : Nat := 10
/-- Smallest window the block latches. -/
def wMin : Nat := 262144
/-- Largest window the block accepts. -/
def wMax : Nat := 2 ^ 30
/-- Size of the literals+lengths alphabet. -/
def nc : Nat := 291
/-- Size of the distance alphabet. -/
def dc : Nat := 48
/-- Size of the repeat-length alphabet. -/
def rc : Nat := 28
/-- Size of an audio alphabet. -/
def mc : Nat := 257
/-- First non-literal symbol. -/
def litLimit : Nat := 256
/-- First symbol that encodes a length, the same in every generation (spec/30_encoding.md R93). -/
def thresh : Nat := 263
/-- Length offset of a `MATCH` token. -/
def minMatch : Nat := 3
/-- Length offset of a `CACHE` token. -/
def minRep : Nat := 2
/-- Most bytes one LZ token writes. -/
def maxToken : Nat := 258
/-- Bounds of the model order. -/
def ppmOrderMin : Nat := 2
/-- Bounds of the model order. -/
def ppmOrderMax : Nat := 16
/-- Bytes of one allocator unit. -/
def unitSize : Nat := 12
/-- Largest block the sub-allocator hands out, in units; the number of its buckets. -/
def saMaxBlock : Nat := 128
/-- `PPM_MIN_UNITS`: the units of the root context and its stats array (spec/45_ppm_model.md R262). -/
def ppmMinUnits : Nat := 129
/-- Largest symbol frequency, of the PPM model (spec/45_ppm_model.md R272) and of the G1 statistics (spec/43_tokens.md
R228). -/
def freqMax : Nat := 255
/-- `NSEE`: the secondary-estimation counters. -/
abbrev nsee : Nat := 16
/-- Range coder thresholds. -/
def rcTop : Word := 0x1000000
/-- Range coder thresholds. -/
def rcBot : Word := 0x10000
/-- PPM escape byte after reset. -/
def escReset : Byte := 2
/-- `VM_NREGS`: the registers of the Filter VM. -/
abbrev vmNregs : Nat := 8
/-- `VM_REGW`: the width of a register of the Filter VM. -/
abbrev vmRegw : Nat := 32
/-- `PROG_SLOTS`: the entries of the program store. -/
abbrev progSlots : Nat := 16
/-- Bytes of scratch memory of the Filter VM. -/
def filterMem : Nat := 262144
/-- Capacity of the filter queue. -/
def fqMax : Nat := 1024
/-- Wrap boundary of the address-relocation filter. -/
def relocSpan : Word := 0x1000000
/-- Size of the staging array `LENBUF` (spec/10_state.md R26). -/
def lenbufSize : Nat := 1028
/-- The hardwired `ID` register (spec/10_state.md R31). -/
def idValue : Word := 0x58410001#32

/-- `CACHE_N[g]`: 3, 3, 4, 4 for G1..G4 (spec/43_tokens.md R180). -/
def cacheN (g : BitVec 3) : Nat := if g = 0 ∨ g = 1 then 3 else 4

/-- `LBITS[s]` of spec/30_encoding.md R95. -/
def lbits (s : Nat) : Nat := if s < 8 then 0 else s / 4 - 1
/-- `LBASE[s]` of R95. -/
def lbase (s : Nat) : Nat := if s < 8 then s else (4 + s % 4) * 2 ^ (s / 4 - 1)
/-- `DBITS[d]` of R96. -/
def dbits (d : Nat) : Nat := if d < 4 then 0 else d / 2 - 1
/-- `DBASE[d]` of R96. -/
def dbase (d : Nat) : Nat := if d < 4 then d else (2 + d % 2) * 2 ^ (d / 2 - 1)

/-- `RANKLEN(n)` of spec/43_tokens.md R227: with `k = ceil(log2 n)` and `short = 2^k - n`, ranks below `short` have
length `k - 1`, the others `k`. -/
def rankLen (n : Nat) : List Byte :=
  let k := Nat.log2 (n - 1) + 1
  let short := 2 ^ k - n
  (List.range n).map fun r => if r < short then BitVec.ofNat 8 (k - 1) else BitVec.ofNat 8 k

/-- `TMASK[0..15]` of spec/47_filtervm.md R331. -/
def tmask : List Nat := [4, 4, 6, 6, 0, 0, 7, 7, 4, 4, 0, 0, 4, 4, 0, 0]

/-- `CATALOGUE_TEST` of spec/95_test_vectors.md section 0. -/
def catalogueTest : List CatalogueEntry :=
  [⟨5, 0x78709A22#32, .e8⟩, ⟨7, 0x24BA65BD#32, .e8e9⟩, ⟨10, 0x0AEDC8C6#32, .itanium⟩,
   ⟨8, 0x1D9A944B#32, .delta⟩, ⟨6, 0x2E062E83#32, .rgb⟩, ⟨8, 0x93A45C07#32, .audio⟩]

/-- FREE VALUE (log entry 1): what a byte of filter memory reads as while the spec calls it unspecified
(spec/10_state.md R49, spec/47_filtervm.md R320 and R345, spec/93_implementation_defined.md section 2: "`FV.READ` of such
a byte returns any value"). The first argument counts the times the spec has made filter memory unspecified, the second
is the offset. It has no body: nothing can be proved about its value. -/
opaque freeFmByte : Nat → Nat → Byte

/-- FREE VALUE (log entry 30): the symbol that `decode` gives from a table with `VALID = 0`, whose arrays spec/41_huffman.md R143
leaves unspecified. The arguments are the size of the table's alphabet and the probe. It has no body. -/
opaque freeSymbol : Nat → Nat → Nat

/-- FREE VALUE (log entry 30): the bits that such a decode consumes, less one, from the same arguments. It has no body. -/
opaque freeCodeLen : Nat → Nat → Nat

/-- FREE VALUE (log entry 30): whether such a decode notes `CLAMP`, from the same arguments. It has no body. -/
opaque freeClamp : Nat → Nat → Bool

/-- FREE VALUE (log entry 28): the count `rc_count(T)` gives when the divided `RC_RANGE` is 0 (spec/44_rangecoder.md R242
divides by it). A session never comes there (R245); a `PPM.DECODE` issued after one that gave `CORRUPT` can. The arguments are
`RC_CODE - RC_LOW` and `T`. It has no body. -/
opaque freeCount : BitVec 32 → Nat → Nat

/-- FREE VALUE (log entry 28): how many passes the normalisation loop of spec/44_rangecoder.md R243 makes when `RC_RANGE` is 0,
where its exit test never holds. The argument is `RC_LOW`. It has no body. -/
opaque freePasses : BitVec 32 → Nat

end Config

/-- The 3-bit tag of a kind (spec/30_encoding.md R109). -/
def FilterKind.tag : FilterKind → Nat
  | .none => 0
  | .e8 => 1
  | .e8e9 => 2
  | .itanium => 3
  | .delta => 4
  | .rgb => 5
  | .audio => 6

end Sys2Proof
end

