-- ==== Sys2Proof/Machine/State.lean ====
section
/-! DEFINITION. The state of the CORE (spec/10_state.md), as plain data; its reset (spec/70_reset_and_hazards.md R430,
R432); the fault and the refusal. Every item of spec/10_state.md is a field here or, where the spec derives it from others,
a function of fields: `BITPOS`, `TOP`, `STATUS.BUSY`. Fields marked "model's own" are not the spec's; INVENTORY.md lists
all with their rules. -/

namespace Sys2Proof.Machine

/-! ### BitCursor (R23) -/

/-- One coming answer of `IN.read` (spec/20_memory.md R52, log entry 3). -/
inductive PortRead where
  /-- bytes; none: the end of the stream -/
  | data (bytes : List Byte)
  | error
  /-- the host issues `RESET` while the CORE is blocked in this call, so that what the call returns is discarded
  (spec/70_reset_and_hazards.md R430, log entry 29) -/
  | reset
  deriving DecidableEq, Repr

/-- The bit cursor. `buf` holds the valid bytes `BUF[0..TOP)`, so `TOP` is its length (log entry 8). -/
structure Cursor where
  buf : List Byte
  rd : Nat
  bit : Fin 8
  bufbase : Nat
  eos : Bool
  streamLen : Nat
  /-- model's own: how many bytes before the place of `BUF` the port has still to deliver; the cursor has passed them unread, and
  they are discarded when they come (log entry 27) -/
  skip : Nat
  /-- model's own: the coming answers of the input port; when none is left every read answers end of stream -/
  port : List PortRead
  deriving DecidableEq, Repr

/-! ### HistoryWindow (R24, R25) -/

/-- The window. `mem` lists the non-zero bytes of `WIN[0..W)`, addresses strictly rising; an unlisted byte is 0, its reset
value (R24). -/
structure Window where
  mem : List Host.Cell
  pos : Nat
  first : Bool
  w : Nat
  tw : Nat
  tf : Nat
  deriving DecidableEq, Repr

/-! ### Huffman tables (R26) -/

/-- One table instance. `qlen`, `qsym` are the quick table; `fake` is `FAKE`, the pair (symbol, length). -/
structure HuffTable where
  count : Nat
  len : List Byte
  cnt : List Nat
  limit : List Nat
  pos : List Nat
  sym : List Nat
  fake : Option (Nat × Nat)
  qlen : List Nat
  qsym : List Nat
  valid : Bool
  deriving DecidableEq, Repr

/-- A table with `VALID = 0`. Its other fields are unspecified (spec/41_huffman.md R143, spec/70_reset_and_hazards.md R432):
empty here, DESIGN CHOICE (log entry 7). R186 says that no decode reads such a table; after a rejected `HUF.BUILD`, which leaves
`TABLES_VALID` (R156), a solid session can: that decode gives free values and does not look at these fields (log entry 30). -/
def HuffTable.invalid : HuffTable := ⟨0, [], [], [], [], [], none, [], [], false⟩

/-- All tables. `lenPos`, `lenTot` are the model's own: the `k` and `n` of a `read_lengths(n)` in progress (log entry 5). -/
structure Tables where
  ld : HuffTable
  dd : HuffTable
  rd : HuffTable
  md : Vector HuffTable 4
  tablesValid : Bool
  audioValid : Bool
  lenbuf : Vector Byte Config.lenbufSize
  lenPos : Nat
  lenTot : Nat
  deriving DecidableEq, Repr

/-! ### Token decoders (R27, R28, R29) -/

/-- The adaptive state of one alphabet under G1: rank to symbol, and a count for each symbol. -/
structure Adaptive where
  order : List Nat
  freq : List Byte
  deriving DecidableEq, Repr

/-- `ORDER_A[r] = r`, `FREQ_A[s] = 0` (R28). -/
def Adaptive.reset (n : Nat) : Adaptive := ⟨List.range n, List.replicate n 0⟩

/-- Distance cache, last match, G1 statistics, audio channel state. -/
structure TokenState where
  cache : Vector Word 4
  lastLen : BitVec 16
  lastDist : Word
  g1Ld : Adaptive
  g1Dd : Adaptive
  g1Rd : Adaptive
  audioCh : Nat
  acur : Fin 4
  alast : Vector Byte 4
  deriving DecidableEq, Repr

/-! ### Parameter and status registers (R31 to R45) -/

/-- The parameter registers 0x01 to 0x08; only the named bits exist (R30). -/
structure Params where
  version : BitVec 3
  winsize : Word
  solid : Bool
  targetLo : Word
  targetHi : Word
  ppmOrder : Byte
  ppmMem : Word
  cancel : Bool
  deriving DecidableEq, Repr

/-- `STATUS.RESULT_KIND` (R39). -/
inductive ResultKind where
  | none | success | partialRun | failure
  deriving DecidableEq, Repr

/-- `REASON` (R40). -/
inductive Reason where
  | none | hdrChecksum | truncated | corrupt | writeFail
  deriving DecidableEq, Repr

/-- `DETAIL` (R41). -/
inductive Detail where
  | none | badHeader | noTables | tableRejected | nomem | readFail | ppmStream
  deriving DecidableEq, Repr

/-- The status registers 0x10 to 0x19; `BUSY` is a function of `FSM` (R39). -/
structure Status where
  kind : ResultKind
  reason : Reason
  detail : Detail
  written : Nat
  consumed : Nat
  events : Word
  cmdErr : Bool
  result : Word
  deriving DecidableEq, Repr

/-! ### PPM model, range coder, sub-allocator (R46, R47, R19) -/

/-- An entry of a stats array (spec/45_ppm_model.md R256); `child` is `none` for `NIL`. -/
structure Entry where
  sym : Byte
  freq : Byte
  child : Option Nat
  deriving DecidableEq, Repr

/-- What a block of the arena holds: a context (R255) or a stats array (R256). -/
inductive Block where
  | ctx (nsyms sumfreq : BitVec 16) (stats suffix : Option Nat)
  | stats (entries : List Entry)
  deriving DecidableEq, Repr

/-- The PPM model. `arena` lists its live blocks by unit index, strictly rising (R256, log entry 9). -/
structure PpmModel where
  alloc : Bool
  order : Nat
  root : Nat
  minctx : Option Nat
  ord : Nat
  see : Vector (BitVec 16) Config.nsee
  esc : Byte
  disabled : Bool
  arena : List (Nat × Block)
  deriving DecidableEq, Repr

/-- `RC_LOW`, `RC_CODE`, `RC_RANGE`. -/
structure RangeCoder where
  low : Word
  code : Word
  range : Word
  deriving DecidableEq, Repr

/-- The sub-allocator; `fl[n - 1]` is the stack `FL[n]`, top first. -/
structure SubAlloc where
  u : Nat
  brk : Nat
  fl : Vector (List Nat) Config.saMaxBlock
  deriving DecidableEq, Repr

/-! ### Filter VM (R48, R49) -/

/-- The register file (R48): `VM_NREGS` registers of `VM_REGW` bits. -/
abbrev VmRegs := Vector (BitVec Config.vmRegw) Config.vmNregs

/-- A filter descriptor (spec/47_filtervm.md R310). -/
structure FilterDesc where
  start : Nat
  len : Nat
  kind : FilterKind
  regs : VmRegs
  deferred : Bool
  deriving DecidableEq, Repr

/-- Registers, filter memory, queue and program store. `fm` lists the bytes of `FM` that hold a known value, addresses
strictly rising; any other reads as the free value `Config.freeFmByte fmGen` (log entry 1). `fmGen` is the model's own: it
counts how often `FM` became unspecified. `store[i]` is `none` while `STORE[i].valid = 0`. -/
structure FilterVm where
  regs : VmRegs
  fm : List Host.Cell
  fmGen : Nat
  fq : List FilterDesc
  store : Vector (Option FilterKind) Config.progSlots
  deriving DecidableEq, Repr

/-! ### Session dispatcher (R22, R25) -/

/-- The dispatcher's state (R22). `FLUSH` occurs only inside one step and is not observed (spec/48_session.md R356, log
entry 5). -/
inductive Fsm where
  | idle | hdr | tables | lz | aud | ppmhdr | ppm | ppmonly | done
  deriving DecidableEq, Repr

/-- The dispatcher's registers. -/
structure Session where
  fsm : Fsm
  blockEnd : Nat
  hTables : Bool
  hAudio : Bool
  hPpm : Bool
  verL : BitVec 3
  targetL : Nat
  fileStart : Nat
  deriving DecidableEq, Repr

/-! ### The environment, held as plain data (model's own; log entries 3 and 4) -/

/-- One coming answer of `OUT.write` (spec/20_memory.md R53, log entry 3). -/
inductive PortWrite where
  | ok
  | error
  /-- the host issues `RESET` while the CORE is blocked in this call, so that its result is discarded
  (spec/70_reset_and_hazards.md R430, log entry 29); `accepted`: whether the port took the bytes -/
  | reset (accepted : Bool)
  deriving DecidableEq, Repr

/-- The output port: the bytes it has accepted, and its coming answers (none left: ok). -/
structure OutPort where
  bytes : List Byte
  answers : List PortWrite
  deriving DecidableEq, Repr

/-- What the host can do (spec/10_state.md R30, spec/30_encoding.md R81, spec/70_reset_and_hazards.md R435). -/
inductive HostAction where
  | cmd (w : BitVec 72)
  | regRead (idx : Byte)
  | regWrite (idx : Byte) (v : Word)
  | positionIn (reads : List PortRead)
  | positionOut (answers : List PortWrite)
  deriving DecidableEq, Repr

/-- A coming action of the host: it is performed once `delay` steps of the running CORE have passed, or at once when the
CORE is idle. -/
structure HostEvent where
  delay : Nat
  act : HostAction
  deriving DecidableEq, Repr

/-! ### The whole state -/

/-- The state of the CORE and of what its ports and its host will do. -/
structure State where
  cur : Cursor
  win : Window
  tabs : Tables
  tok : TokenState
  par : Params
  st : Status
  ppm : PpmModel
  rc : RangeCoder
  sa : SubAlloc
  vm : FilterVm
  ses : Session
  out : OutPort
  host : List HostEvent
  /-- model's own: the value the last `RegRead` gave the host -/
  readData : Word
  /-- `CATALOGUE`, the open parameter of spec/00_scope.md R11 (log entry 2) -/
  catalogue : List CatalogueEntry
  deriving DecidableEq, Repr

/-! ### Faults and refusals -/

/-- Why the model stops. -/
inductive Fault where
  /-- A field read from the stream named a symbol outside its alphabet (`LD` above 290, `DD` above 47, `RD` above 27, `MD`
  above 256). Raised by `step` when fetching a token. No table built by the machine holds such a symbol, so no run reaches
  it; the spec gives it no meaning. Safe: the model stops where no hardware can be (log entry 22). -/
  | outsideAlphabet (sym : Nat)
  deriving DecidableEq, Repr

/-- Why an instruction has no meaning in this model. -/
inductive Refusal where
  /-- The instruction is not modelled. Raised by no arm of `exec`: every instruction has its meaning. Safe. -/
  | notModelled (mnemonic : String)
  deriving DecidableEq, Repr

/-! ### Updates, one for each part of the state -/

namespace State

def setCur (s : State) (x : Cursor) : State := { s with cur := x }
def setWin (s : State) (x : Window) : State := { s with win := x }
def setTabs (s : State) (x : Tables) : State := { s with tabs := x }
def setTok (s : State) (x : TokenState) : State := { s with tok := x }
def setPar (s : State) (x : Params) : State := { s with par := x }
def setSt (s : State) (x : Status) : State := { s with st := x }
def setPpm (s : State) (x : PpmModel) : State := { s with ppm := x }
def setRc (s : State) (x : RangeCoder) : State := { s with rc := x }
def setSa (s : State) (x : SubAlloc) : State := { s with sa := x }
def setVm (s : State) (x : FilterVm) : State := { s with vm := x }
def setSes (s : State) (x : Session) : State := { s with ses := x }
def setOut (s : State) (x : OutPort) : State := { s with out := x }
def setHost (s : State) (x : List HostEvent) : State := { s with host := x }
def setReadData (s : State) (x : Word) : State := { s with readData := x }

/-! ### Reset (R432) -/

/-- The machine right after power-on: every item at the value of spec/70_reset_and_hazards.md R432; what R432 calls
unspecified at the value of log entry 7; `CATALOGUE` at `CATALOGUE_TEST` (log entry 2); the ports and the host with nothing
to come. -/
def reset : State where
  cur := { buf := [], rd := 0, bit := 0, bufbase := 0, eos := false, streamLen := 0, skip := 0, port := [] }
  win := { mem := [], pos := 0, first := false, w := 0, tw := 0, tf := 0 }
  tabs :=
    { ld := .invalid, dd := .invalid, rd := .invalid, md := Vector.replicate 4 .invalid, tablesValid := false,
      audioValid := false, lenbuf := Vector.replicate Config.lenbufSize 0, lenPos := 0, lenTot := 0 }
  tok :=
    { cache := Vector.replicate 4 0, lastLen := 0, lastDist := 0, g1Ld := .reset Config.nc, g1Dd := .reset Config.dc,
      g1Rd := .reset Config.rc, audioCh := 1, acur := 0, alast := Vector.replicate 4 0 }
  par :=
    { version := 3, winsize := 0x00040000#32, solid := false, targetLo := 0, targetHi := 0, ppmOrder := 2,
      ppmMem := 0x00100000#32, cancel := false }
  st :=
    { kind := .none, reason := .none, detail := .none, written := 0, consumed := 0, events := 0, cmdErr := false,
      result := 0 }
  ppm :=
    { alloc := false, order := 0, root := 0, minctx := none, ord := 0, see := Vector.replicate Config.nsee 0,
      esc := Config.escReset, disabled := false, arena := [] }
  rc := { low := 0, code := 0, range := 0xFFFFFFFF#32 }
  sa := { u := 0, brk := 0, fl := Vector.replicate Config.saMaxBlock [] }
  vm :=
    { regs := Vector.replicate Config.vmNregs 0, fm := [], fmGen := 0, fq := [],
      store := Vector.replicate Config.progSlots none }
  ses :=
    { fsm := .idle, blockEnd := 0, hTables := false, hAudio := false, hPpm := false, verL := 7, targetL := 0,
      fileStart := 0 }
  out := { bytes := [], answers := [] }
  host := []
  readData := 0
  catalogue := Config.catalogueTest

end State

end Sys2Proof.Machine
end

