-- ==== Sys2Proof/Machine/Memory.lean ====
section
/-! DEFINITION. Sparse memory in canonical form: a list of (address, value) pairs with addresses strictly rising. The
window, filter memory and the PPM arena (spec/20_memory.md R50) are such lists. -/

namespace Sys2Proof.Machine

/-- The value listed at address `k`. -/
def Sparse.find {β : Type} : List (Nat × β) → Nat → Option β
  | [], _ => none
  | (a, v) :: t, k => if a = k then some v else if k < a then none else Sparse.find t k

/-- Lists `v` at address `k`, in place of what was listed there. -/
def Sparse.put {β : Type} : List (Nat × β) → Nat → β → List (Nat × β)
  | [], k, v => [(k, v)]
  | (a, w) :: t, k, v =>
    if a = k then (k, v) :: t else if k < a then (k, v) :: (a, w) :: t else (a, w) :: Sparse.put t k v

/-- Lists nothing at address `k`. -/
def Sparse.erase {β : Type} : List (Nat × β) → Nat → List (Nat × β)
  | [], _ => []
  | (a, w) :: t, k => if a = k then t else if k < a then (a, w) :: t else (a, w) :: Sparse.erase t k

/-- Addresses strictly rising. -/
def Sparse.rising {β : Type} : List (Nat × β) → Bool
  | [] => true
  | [_] => true
  | (a, _) :: (b, w) :: t => decide (a < b) && Sparse.rising ((b, w) :: t)

/-- The byte of a memory whose unlisted bytes are 0 (the reset content of the window, spec/10_state.md R24). -/
def Memory.read (m : List Host.Cell) (a : Nat) : Byte := (Sparse.find m a).getD 0

/-- Writes a byte of such a memory; a zero is not listed. -/
def Memory.write (m : List Host.Cell) (a : Nat) (b : Byte) : List Host.Cell :=
  if b = 0 then Sparse.erase m a else Sparse.put m a b

/-- The canonical form: addresses strictly rising, no byte listed that an unlisted address reads as. -/
def Memory.wf (m : List Host.Cell) : Bool := Sparse.rising m && m.all fun c => c.2 != 0

/-- Puts `bytes` at the addresses `a`, `a + 1`, and so on, each listed whatever its value. -/
def Sparse.putBytes : List Host.Cell → Nat → List Byte → List Host.Cell
  | m, _, [] => m
  | m, a, b :: t => Sparse.putBytes (Sparse.put m a b) (a + 1) t

end Sys2Proof.Machine
end

