-- ==== Sys2Proof/Machine/HistoryWindow.lean ====
section
/-! DEFINITION. The HistoryWindow (spec/42_window.md): `put`, `copyMatch`, reading a range. One flat array (R170). -/

namespace Sys2Proof.Machine

/-- `WIN[i]` for a non-negative index, reduced mod `W` (R160). -/
def Window.byteAt (x : Window) (i : Nat) : Byte := Memory.read x.mem (i % x.w)

/-- `put(b)` (R163). -/
def Window.put (x : Window) (b : Byte) : Window :=
  let pos := (x.pos + 1) % x.w
  { x with mem := Memory.write x.mem x.pos b, pos := pos, tw := x.tw + 1, first := x.first || pos == 0 }

/-- `zero_fill(d)` (R166). -/
def Window.zeroFill (x : Window) (d : Nat) : Bool :=
  (decide (x.pos < d) && (decide (x.w < d) || !x.first)) || (d == 0 && !x.first)

/-- The index `(POS - d) mod W`, the non-negative remainder (R160). -/
def Window.back (x : Window) (d : Nat) : Nat := (x.pos + x.w - d % x.w) % x.w

/-- The copying loop of R165: each step reads the window as the previous step left it. -/
def Window.copySteps (zero : Bool) (d : Nat) : Nat → Window → Window
  | 0, x => x
  | n + 1, x => Window.copySteps zero d n (x.put (if zero then 0 else x.byteAt (x.back d)))

/-- `copyMatch(d, n)` (R165): the window after it; `note(ZEROFILL)` is due iff `zeroFill` held before it. -/
def Window.copyMatch (x : Window) (d n : Nat) : Window := Window.copySteps (x.zeroFill d) d n x

/-- `win(a, n)` (spec/48_session.md R367): `n` bytes from absolute offset `a`. -/
def Window.range (x : Window) (a : Nat) : Nat → List Byte
  | 0 => []
  | n + 1 => x.byteAt a :: Window.range x (a + 1) n

/-- The validation of `WINSIZE` (spec/48_session.md R352): none if it is 0, no power of two or above `W_MAX`; else the
size to latch, at least `W_MIN`. -/
def latchSize (winsize : Word) : Option Nat :=
  let n := winsize.toNat
  if n = 0 ∨ n &&& (n - 1) ≠ 0 ∨ Config.wMax < n then none else some (max n Config.wMin)

/-- A fresh window of `w` bytes (R172): all zero, nothing written. -/
def Window.fresh (w : Nat) : Window := { mem := [], pos := 0, first := false, w := w, tw := 0, tf := 0 }

end Sys2Proof.Machine
end

