-- ==== Sys2Proof/Machine/Flags.lean ====
section
/-! DEFINITION. The flags of the CORE (spec/10_state.md R460): the sticky bits of `EVENTS` (R44, spec/60_exceptions.md R393)
and `STATUS.BUSY`. There are no arithmetic condition codes. The other flags are written by the operations they belong to:
`FIRST` by `Window.put`, `EOS` by the cursor, `VALID` and `FAKE` by `HuffTable.build`. -/

namespace Sys2Proof.Machine

/-- The kinds of recoverable corruption (R44). -/
inductive Event where
  | zerofill | clamp | ppmRestart | ppmFallback | filterDropped | reservedToken | badProgram
  deriving DecidableEq, Repr

/-- The bit of `EVENTS` of a kind (R44, R393). -/
def Event.bit : Event → Nat
  | .zerofill => 0
  | .clamp => 1
  | .ppmRestart => 2
  | .ppmFallback => 3
  | .filterDropped => 4
  | .reservedToken => 5
  | .badProgram => 6

/-- `note(e)`: sets the event's sticky bit and nothing else (R390). -/
def State.note (s : State) (e : Event) : State := s.setSt { s.st with events := s.st.events ||| (1#32 <<< e.bit) }

/-- `note(e)` if `b`. -/
def State.noteIf (s : State) (b : Bool) (e : Event) : State := if b then s.note e else s

/-- Whether `FSM` is `IDLE` or `DONE` (spec/30_encoding.md R82). -/
def State.isIdle (s : State) : Bool := s.ses.fsm == .idle || s.ses.fsm == .done

/-- `STATUS.BUSY` (R39). -/
def State.busy (s : State) : Bool := !s.isIdle

/-- `copyMatch(d, n)` on the machine, with the event of a zero-filled copy (spec/42_window.md R165, R166); a copy of no
byte does nothing (R165, log entry 23). -/
def State.copyMatch (s : State) (d n : Nat) : State :=
  (s.setWin (s.win.copyMatch d n)).noteIf (s.win.zeroFill d && n != 0) .zerofill

/-- `put(b)` on the machine. -/
def State.put (s : State) (b : Byte) : State := s.setWin (s.win.put b)

end Sys2Proof.Machine
end

