-- ==== Sys2Proof/Machine/Cursor.lean ====
section
/-! DEFINITION. The BitCursor (spec/40_bitcursor.md): refill, peek, consume, getbits, getbyte, align, the two exhaustion
predicates, and the count of consumed bytes. -/

namespace Sys2Proof.Machine

/-- A fatal condition (spec/60_exceptions.md R392): it abandons the operation that meets it. -/
structure Fatal where
  reason : Reason
  detail : Detail
  deriving DecidableEq, Repr

/-- Why an operation is abandoned: a fatal condition, or a `RESET` that came while the CORE was blocked in a port call, at the
return of that call (spec/70_reset_and_hazards.md R430). -/
inductive Halt where
  | fatal (f : Fatal)
  | reset
  deriving DecidableEq, Repr

/-- Operations on the cursor alone. An abandoned operation keeps what it has done (R400). -/
abbrev CurM := EStateM Halt Cursor

/-- `TOP` (spec/10_state.md R23). -/
def Cursor.top (c : Cursor) : Nat := c.buf.length

/-- `BITPOS = 8·(BUFBASE + RD) + BIT` (spec/10_state.md R21). -/
def Cursor.bitpos (c : Cursor) : Nat := 8 * (c.bufbase + c.rd) + c.bit.val

/-- The cursor at the first bit the input port will deliver (R133). `STREAM_LEN`, which R133 does not list and which is
undefined while `EOS = 0` (spec/10_state.md R23), is set to 0: DESIGN CHOICE (log entry 7). -/
def Cursor.attach (c : Cursor) : Cursor :=
  { c with buf := [], rd := 0, bit := 0, bufbase := 0, eos := false, streamLen := 0, skip := 0 }

/-- Compaction (R129): `BUF[RD..TOP)` moves to the front, `BUFBASE` moves by `RD`, `RD` is 0. What `RD` has beyond `TOP` counts as
bytes still to be skipped. -/
def Cursor.compact (c : Cursor) : Cursor :=
  { c with buf := c.buf.drop c.rd, bufbase := c.bufbase + c.rd, rd := 0, skip := c.skip + (c.rd - c.top) }

/-- `RD ≤ TOP` while `EOS = 0` (R121, spec/10_state.md R23). A cursor that moves past `TOP` without a `peek` before it
(`BC.CONSUME`, a fake table, `align`) does not read the port (R126): the buffer is empty from then on and stands at the new
`BITPOS`, and the bytes passed are skipped when the port delivers them (log entry 27). -/
def Cursor.settle (c : Cursor) : Cursor := if c.eos || decide (c.rd ≤ c.top) then c else c.compact

/-- Appends bytes of the port at `TOP`, after those to be skipped, as many as the buffer has room for. -/
def Cursor.append (c : Cursor) (bytes : List Byte) : Cursor :=
  { c with buf := c.buf ++ (bytes.drop c.skip).take (Config.inbufSize - c.top), skip := c.skip - bytes.length }

/-- What of the bytes of one answer `append` leaves for the next read (spec/20_memory.md R52: a read gives at most what it
was asked for). -/
def Cursor.leftOver (c : Cursor) (bytes : List Byte) : List Byte := (bytes.drop c.skip).drop (Config.inbufSize - c.top)

/-- The end of the stream (R129): `EOS <- 1; STREAM_LEN <- BUFBASE + TOP`. Where bytes were still to be skipped (`BUF` is then
empty) the stream ends that many before `BUFBASE`, which goes back to its end, and `RD` is past it (R121, R125). -/
def Cursor.ended (c : Cursor) : Cursor :=
  let back := if c.buf.isEmpty then min c.skip c.bufbase else 0
  { c with
    bufbase := c.bufbase - back, rd := c.rd + back, skip := 0, eos := true, streamLen := c.bufbase - back + c.top }

/-- At least 30 unconsumed bytes are buffered (R129). -/
def Cursor.full (c : Cursor) : Bool := decide (Config.refillThreshold ≤ c.top - c.rd)

/-- The pulling loop of `refill` (R129), over the coming answers of the port: read until 30 unconsumed bytes are buffered,
the stream ends, or the port fails (R397). End of stream is the answer of every later read too. -/
def Cursor.pull (c : Cursor) : List PortRead → EStateM.Result Halt Cursor Unit
  | [] => .ok () { c.ended with port := [] }
  | .error :: rest => .error (.fatal ⟨.truncated, .readFail⟩) { c with port := rest }
  | .reset :: rest => .error .reset { c with port := rest }
  | .data [] :: rest => .ok () { c.ended with port := .data [] :: rest }
  | .data bytes :: rest =>
    let c1 := c.append bytes
    match c.leftOver bytes with
    | [] => if c1.full then .ok () { c1 with port := rest } else Cursor.pull c1 rest
    | more => .ok () { c1 with port := .data more :: rest }

/-- `refill()` (R129): nothing at the end of the stream or with 30 unconsumed bytes; else compact the buffer and pull. -/
def refill : CurM Unit := fun c => if c.eos || c.full then .ok () c else Cursor.pull c.compact c.port

/-- Bit `p` of the buffered bytes, `p` counted from `BUF[0]`, the most significant bit of a byte first; 0 beyond them (R124,
R125). -/
def Cursor.bitAt (c : Cursor) (p : Nat) : Bool := (c.buf.getD (p / 8) 0).getLsbD (7 - p % 8)

/-- `n` bits from `p` on, the first the most significant, below the bits `acc`. -/
def Cursor.bitsFrom (c : Cursor) : Nat → Nat → Nat → Nat
  | _, 0, acc => acc
  | p, n + 1, acc => Cursor.bitsFrom c (p + 1) n (2 * acc + (c.bitAt p).toNat)

/-- The next `n` bits of the buffer as it stands, zero-filled (R124, R125). -/
def Cursor.look (c : Cursor) (n : Nat) : Nat := c.bitsFrom (8 * c.rd + c.bit.val) n 0

/-- `peek(n)` (R124): the next `n` bits, the first the most significant. -/
def peek (n : Nat) : CurM Nat := do
  refill
  let c ← get
  return c.look n

/-- `consume(n)` (R126): `t <- BIT + n; RD <- RD + (t div 8); BIT <- t mod 8`, within the bound of R121. -/
def Cursor.consume (c : Cursor) (n : Nat) : Cursor :=
  Cursor.settle
    { c with rd := c.rd + (c.bit.val + n) / 8, bit := ⟨(c.bit.val + n) % 8, Nat.mod_lt _ (by decide)⟩ }

/-- `getbits(n)` (R126). -/
def getbits (n : Nat) : CurM Nat := do
  let v ← peek n
  modify (·.consume n)
  return v

/-- `getbyte()` (R127). -/
def getbyte : CurM Nat := getbits 8

/-- `align()` (R128), within the bound of R121. -/
def Cursor.align (c : Cursor) : Cursor := if c.bit.val = 0 then c else Cursor.settle { c with rd := c.rd + 1, bit := 0 }

/-- No unread bit remains, on the buffer as it stands (R130). -/
def Cursor.atEnd (c : Cursor) : Bool := c.eos && decide (8 * c.streamLen ≤ c.bitpos)

/-- A zero-filled bit has been consumed, on the buffer as it stands (R130). -/
def Cursor.pastEnd (c : Cursor) : Bool := c.eos && decide (8 * c.streamLen < c.bitpos)

/-- `exhausted()` (R130). -/
def exhausted : CurM Bool := do
  refill
  let c ← get
  return c.atEnd

/-- `overrun()` (R130). -/
def overrun : CurM Bool := do
  refill
  let c ← get
  return c.pastEnd

/-- `CONSUMED` (spec/10_state.md R43, R132): stream bytes of which at least one bit has been consumed. -/
def Cursor.consumedBytes (c : Cursor) : Nat :=
  ((if c.eos then min c.bitpos (8 * c.streamLen) else c.bitpos) + 7) / 8

end Sys2Proof.Machine
end

