-- ==== Sys2Proof/Machine/Huffman.lean ====
section
/-! DEFINITION. The HuffmanTable (spec/41_huffman.md): `build`, `decode`; and the adaptive rank coding of G1
(spec/43_tokens.md R225 to R230). -/

namespace Sys2Proof.Machine

/-! ### build -/

/-- `CNT[0..16]`: how many of the lengths are exactly `l`; `CNT[0] = 0` by definition (R142). -/
def cntOf (lens : List Byte) : List Nat :=
  (List.range 17).map fun l => if l = 0 then 0 else lens.countP fun x => x.toNat = l

/-- Running sums: `acc`, `acc + x0`, `acc + x0 + x1`, and so on. -/
def sumsFrom : Nat → List Nat → List Nat
  | acc, [] => [acc]
  | acc, x :: t => acc :: sumsFrom (acc + x) t

/-- `LIMIT[0..16]` (R142): `LIMIT[l] = LIMIT[l-1] + CNT[l]·2^(16-l)`, unbounded integers. -/
def limitOf (cnt : List Nat) : List Nat :=
  sumsFrom 0 ((List.range 16).map fun j => cnt.getD (j + 1) 0 * 2 ^ (15 - j))

/-- `POS_[0..16]` (R142): `POS_[l] = POS_[l-1] + CNT[l-1]`. -/
def posOf (cnt : List Nat) : List Nat := sumsFrom 0 (cnt.take 16)

/-- The symbols of length exactly `l`, ascending. -/
def symsOfLen (lens : List Byte) (count l : Nat) : List Nat :=
  (List.range count).filter fun i => (lens.getD i 0).toNat = l

/-- `SYM[0..count)` (R144): the coded symbols by (length, symbol number), then zeros. -/
def symOf (lens : List Byte) (count : Nat) : List Nat :=
  let coded := (List.range' 1 16).flatMap (symsOfLen lens count)
  coded ++ List.replicate (count - coded.length) 0

/-- `FAKE` (R146): the lone coded symbol and its length, if exactly one symbol has a length in 1..16. -/
def fakeOf (lens : List Byte) (count : Nat) : Option (Nat × Nat) :=
  match (List.range count).filter fun i => 1 ≤ (lens.getD i 0).toNat ∧ (lens.getD i 0).toNat ≤ Config.maxCodeLen with
  | [s] => some (s, (lens.getD s 0).toNat)
  | _ => none

/-- The linear scan (R147): the least `k` in 1..16 with `v < LIMIT[k]`. -/
def scanLen (limit : List Nat) (v : Nat) : Option Nat := (List.range' 1 16).find? fun k => v < limit.getD k 0

/-- What a scan found: the symbol, its length, and whether the position was clamped (R148). -/
structure Found where
  sym : Nat
  len : Nat
  clamp : Bool
  deriving DecidableEq, Repr

/-- The scan path of R147 on probe `v`, with the clamp of R148. -/
def scanFound (limit pos sym : List Nat) (count v : Nat) : Found :=
  let l := (scanLen limit v).getD 16
  let p := pos.getD l 0 + (v - limit.getD (l - 1) 0) / 2 ^ (16 - l)
  ⟨if p < count then sym.getD p 0 else 0, l, (scanLen limit v).isNone⟩

/-- The quick table (R145): for each of the `2^QUICK_BITS` indices, symbol and length if the scan on its probe found a
length of at most `QUICK_BITS`, else length 0. -/
def quickOf (limit pos sym : List Nat) (count : Nat) : List (Nat × Nat) :=
  (List.range (2 ^ Config.quickBits)).map fun q =>
    let v := q * 2 ^ (16 - Config.quickBits)
    let f := scanFound limit pos sym count v
    if !f.clamp && decide (f.len ≤ Config.quickBits) then (f.sym, f.len) else (0, 0)

/-- `build(T, lengths, count)` (R142 to R146): `none` iff rejected (R143), that is iff the code space does not close at
length 16 and some length exceeds 16. -/
def HuffTable.build (lengths : List Byte) (count : Nat) : Option HuffTable :=
  let lens := lengths.take count
  let cnt := cntOf lens
  let limit := limitOf cnt
  if limit.getD 16 0 ≠ 65536 ∧ lens.any (fun x => decide (Config.maxCodeLen < x.toNat)) then none
  else
    let pos := posOf cnt
    let sym := symOf lens count
    let quick := quickOf limit pos sym count
    some { count := count, len := lens, cnt := cnt, limit := limit, pos := pos, sym := sym, fake := fakeOf lens count,
           qlen := quick.map (·.2), qsym := quick.map (·.1), valid := true }

/-- The table after `build`: a rejected build leaves `VALID = 0` and the other fields unspecified (R143, log entry 7). -/
def HuffTable.built (lengths : List Byte) (count : Nat) : HuffTable := (HuffTable.build lengths count).getD .invalid

/-! ### decode -/

/-- What the scan alone finds for probe `v`. -/
def HuffTable.scan (t : HuffTable) (v : Nat) : Found := scanFound t.limit t.pos t.sym t.count v

/-- What `decode` finds for probe `v` (R147): the quick table's answer on a hit, else the scan's. -/
def HuffTable.lookup (t : HuffTable) (v : Nat) : Found :=
  let q := v / 2 ^ (16 - Config.quickBits)
  if t.qlen.getD q 0 ≠ 0 then ⟨t.qsym.getD q 0, t.qlen.getD q 0, false⟩ else t.scan v

/-- What `decode` finds for probe `v` in a table of an alphabet of `n` symbols whose `VALID` is 0: outside the precondition of
R147, from arrays that R143 leaves unspecified, so a free symbol of the alphabet, a free length and a free `CLAMP`. That such a
decode goes on and stays in these ranges is a DESIGN CHOICE (log entry 30, which says how a session comes there). -/
def invalidFound (n v : Nat) : Found :=
  ⟨Config.freeSymbol n v % n, Config.freeCodeLen n v % Config.maxCodeLen + 1, Config.freeClamp n v⟩

/-- `decode(T)` (R147) of a table of an alphabet of `n` symbols: the symbol, and whether `note(CLAMP)` is due. A fake table
consumes its length without looking at the bits (R149). -/
def HuffTable.decode (t : HuffTable) (n : Nat) : CurM (Nat × Bool) :=
  match t.fake with
  | some (s, l) => do
    modify (·.consume l)
    return (s, false)
  | none => do
    let v ← peek 16
    let f := if t.valid then t.lookup v else invalidFound n v
    modify (·.consume f.len)
    return (f.sym, f.clamp)

/-! ### The tables by id (spec/30_encoding.md R83) -/

/-- Table `id`: 0 `LD`, 1 `DD`, 2 `RD`, 3..6 `MD[0..3]`. -/
def Tables.byId (t : Tables) (id : Nat) : HuffTable :=
  match id with
  | 0 => t.ld
  | 1 => t.dd
  | 2 => t.rd
  | n + 3 => if h : n < 4 then t.md[n] else .invalid

/-- Puts table `id`. -/
def Tables.setById (t : Tables) (id : Nat) (x : HuffTable) : Tables :=
  match id with
  | 0 => { t with ld := x }
  | 1 => { t with dd := x }
  | 2 => { t with rd := x }
  | n + 3 => { t with md := t.md.setIfInBounds n x }

/-- Capacity of table `id` (R156). -/
def tableCapacity (id : Nat) : Nat :=
  match id with
  | 0 => Config.nc
  | 1 => Config.dc
  | 2 => Config.rc
  | _ => Config.mc

/-! ### G1: adaptive ranks -/

/-- `RK_LD` (spec/43_tokens.md R227). -/
def rkLd : HuffTable := .built (Config.rankLen Config.nc) Config.nc
/-- `RK_DD`. -/
def rkDd : HuffTable := .built (Config.rankLen Config.dc) Config.dc
/-- `RK_RD`. -/
def rkRd : HuffTable := .built (Config.rankLen Config.rc) Config.rc

/-- The count of symbol `s`. -/
def Adaptive.count (freq : List Byte) (s : Nat) : Nat := (freq.getD s 0).toNat

/-- The bubble loop of R228: move the symbol at rank `r` in front of every symbol of strictly lower count. -/
def Adaptive.bubble (freq : List Byte) : Nat → List Nat → List Nat
  | 0, order => order
  | r + 1, order =>
    let above := order.getD r 0
    let here := order.getD (r + 1) 0
    if Adaptive.count freq above < Adaptive.count freq here then
      Adaptive.bubble freq r ((order.set r here).set (r + 1) above)
    else order

/-- The adaptation of R228 after rank `r` was read: the symbol, and the new statistics. -/
def Adaptive.adapt (a : Adaptive) (r : Nat) : Nat × Adaptive :=
  let s := a.order.getD r 0
  let halved : List Byte := if (a.freq.getD s 0).toNat = Config.freqMax then a.freq.map (fun (x : Byte) => x >>> 1) else a.freq
  let freq := halved.set s (halved.getD s 0 + 1)
  (s, ⟨Adaptive.bubble freq r a.order, freq⟩)

end Sys2Proof.Machine
end

