-- ==== Sys2Proof/Machine/SubAllocator.lean ====
section
/-! DEFINITION. The sub-allocator (spec/46_suballocator.md): buckets of free blocks, splitting, coalescing. -/

namespace Sys2Proof.Machine

/-- The stack `FL[n]`, 1 ≤ n ≤ 128, top first. -/
def SubAlloc.bucket (a : SubAlloc) (n : Nat) : List Nat := (a.fl[n - 1]?).getD []

/-- Puts the stack `FL[n]`. -/
def SubAlloc.setBucket (a : SubAlloc) (n : Nat) (l : List Nat) : SubAlloc := { a with fl := a.fl.setIfInBounds (n - 1) l }

/-- `push(FL[n], i)`, which is `sa_free(i, n)` (R293). -/
def SubAlloc.free (a : SubAlloc) (i n : Nat) : SubAlloc := a.setBucket n (i :: a.bucket n)

/-- `sa_reset()` (R291): `U` unchanged. -/
def SubAlloc.reset (a : SubAlloc) : SubAlloc := { a with brk := 0, fl := Vector.replicate Config.saMaxBlock [] }

/-- Step 3 of `sa_try` (R292): split the first larger bucket that holds a block; `m` is the size tried, `fuel` the sizes
left to try. -/
def SubAlloc.split (a : SubAlloc) (n : Nat) : (fuel m : Nat) → Option (Nat × SubAlloc)
  | 0, _ => none
  | fuel + 1, m =>
    match a.bucket m with
    | b :: rest => some (b, (a.setBucket m rest).free (b + n) (m - n))
    | [] => SubAlloc.split a n fuel (m + 1)

/-- `sa_try(n)` (R292): the exact bucket, never-used space, block-splitting. -/
def SubAlloc.try (a : SubAlloc) (n : Nat) : Option (Nat × SubAlloc) :=
  match a.bucket n with
  | i :: rest => some (i, a.setBucket n rest)
  | [] =>
    if a.brk + n ≤ a.u then some (a.brk, { a with brk := a.brk + n })
    else SubAlloc.split a n (Config.saMaxBlock - n) (n + 1)

/-- Inserts a block into a list sorted by index, ties by size. -/
def insertBlock (b : Nat × Nat) : List (Nat × Nat) → List (Nat × Nat)
  | [] => [b]
  | c :: t => if b.1 < c.1 ∨ (b.1 = c.1 ∧ b.2 ≤ c.2) then b :: c :: t else c :: insertBlock b t

/-- All free blocks `(i, n)`, sorted by `i` ascending, ties by `n` ascending (R294). -/
def SubAlloc.freeBlocks (a : SubAlloc) : List (Nat × Nat) :=
  ((List.range' 1 Config.saMaxBlock).flatMap fun n => (a.bucket n).map fun i => (i, n)).foldr insertBlock []

/-- The merge of R294: `(i, n)` is the current run; a block whose index equals the run's end extends it. -/
def mergeRuns : Nat × Nat → List (Nat × Nat) → List (Nat × Nat)
  | run, [] => [run]
  | run, b :: t => if b.1 = run.1 + run.2 then mergeRuns (run.1, run.2 + b.2) t else run :: mergeRuns b t

/-- Pushes a run: blocks of 128 units from its start, then the rest. `fuel` is at least the number of blocks. -/
def SubAlloc.pushRun (a : SubAlloc) : (fuel i n : Nat) → SubAlloc
  | 0, _, _ => a
  | fuel + 1, i, n =>
    if Config.saMaxBlock < n then SubAlloc.pushRun (a.free i Config.saMaxBlock) fuel (i + Config.saMaxBlock) (n - Config.saMaxBlock)
    else if 0 < n then a.free i n
    else a

/-- The last loop of R294 for one run: a run that touches the never-used space rejoins it. -/
def SubAlloc.placeRun (a : SubAlloc) (run : Nat × Nat) : SubAlloc :=
  if run.1 + run.2 = a.brk then { a with brk := run.1 } else a.pushRun (run.2 + 1) run.1 run.2

/-- `sa_coalesce()` (R294). -/
def SubAlloc.coalesce (a : SubAlloc) : SubAlloc :=
  let runs := match a.freeBlocks with
    | [] => []
    | b :: t => mergeRuns b t
  runs.foldl SubAlloc.placeRun { a with fl := Vector.replicate Config.saMaxBlock [] }

/-- `sa_alloc(n)` (R296): the block, none for `NIL`; the allocator after it, coalesced if the first attempt failed. -/
def SubAlloc.alloc (a : SubAlloc) (n : Nat) : Option Nat × SubAlloc :=
  match a.try n with
  | some (i, a1) => (some i, a1)
  | none =>
    match a.coalesce.try n with
    | some (i, a1) => (some i, a1)
    | none => (none, a.coalesce)

end Sys2Proof.Machine
end

