-- ==== Sys2Proof/Machine/PpmModel.lean ====
section
/-! DEFINITION. The range coder (spec/44_rangecoder.md) and the PPM model (spec/45_ppm_model.md), over the part of the state
they use. -/

namespace Sys2Proof.Machine

/-- The state the PPM decoder works on; `restarted` says that `note(PPM_RESTART)` is due (R279). -/
structure PpmWorld where
  cur : Cursor
  rc : RangeCoder
  ppm : PpmModel
  sa : SubAlloc
  restarted : Bool
  deriving DecidableEq, Repr

/-- Operations on that part. -/
abbrev PpmM := EStateM Halt PpmWorld

/-- A cursor operation as an operation on the PPM part. -/
def PpmM.ofCur {α : Type} (x : CurM α) : PpmM α := fun s =>
  match x s.cur with
  | .ok a c => .ok a { s with cur := c }
  | .error e c => .error e { s with cur := c }

/-! ### Range coder -/

/-- `RC_CODE <- ((RC_CODE << 8) + getbyte()) mod 2^32`. -/
def rcShiftIn : PpmM Unit := do
  let b ← PpmM.ofCur getbyte
  modify fun s => { s with rc := { s.rc with code := (s.rc.code <<< 8) + BitVec.ofNat 32 b } }

/-- `rc_init()` (R241). -/
def rcInit : PpmM Unit := do
  modify fun s => { s with rc := ⟨0, 0, 0xFFFFFFFF#32⟩ }
  rcShiftIn
  rcShiftIn
  rcShiftIn
  rcShiftIn

/-- `rc_count(T)` (R242): the count, and the range after the division. Where the divided range is 0 the count is a free
value (log entry 28). -/
def RangeCoder.count (r : RangeCoder) (t : Nat) : Nat × RangeCoder :=
  let range := r.range / BitVec.ofNat 32 t
  (if range = 0 then Config.freeCount (r.code - r.low) t else ((r.code - r.low) / range).toNat, { r with range := range })

/-- The first two lines of `rc_update` (R243). -/
def RangeCoder.narrow (r : RangeCoder) (cum f : Nat) : RangeCoder :=
  { r with low := r.low + BitVec.ofNat 32 cum * r.range, range := r.range * BitVec.ofNat 32 f }

/-- The test of the loop of R243: the range to go on with if another byte is to be read. -/
def RangeCoder.unsettled (r : RangeCoder) : Option Word :=
  if (r.low ^^^ (r.low + r.range)).toNat < Config.rcTop.toNat then some r.range
  else if r.range.toNat < Config.rcBot.toNat then some ((-r.low) &&& 0xFFFF#32)
  else none

/-- The normalisation loop of R243; each pass reads one byte. `fuel` bounds the passes (log entry 11). -/
def rcNormalise : Nat → PpmM Unit
  | 0 => pure ()
  | fuel + 1 => do
    let s ← get
    match s.rc.unsettled with
    | none => pure ()
    | some range => do
      modify fun s => { s with rc := { s.rc with range := range } }
      rcShiftIn
      modify fun s => { s with rc := { s.rc with range := s.rc.range <<< 8, low := s.rc.low <<< 8 } }
      rcNormalise fuel

/-- How many passes the loop of R243 may make: 8 are more than it ever needs (log entry 11); with `RC_RANGE = 0`, where the
rule's loop does not end, a free number (log entry 28). -/
def RangeCoder.passes (r : RangeCoder) : Nat := if r.range = 0 then Config.freePasses r.low else 8

/-- `rc_update(cum, f)` (R243). -/
def rcUpdate (cum f : Nat) : PpmM Unit := do
  modify fun s => { s with rc := s.rc.narrow cum f }
  let s ← get
  rcNormalise s.rc.passes

/-! ### Contexts and entries -/

/-- The context at a unit index; a broken index gives none (R281, log entry 10). -/
def PpmModel.context (m : PpmModel) (i : Nat) : Option (BitVec 16 × BitVec 16 × Option Nat × Option Nat) :=
  match Sparse.find m.arena i with
  | some (.ctx n f st su) => some (n, f, st, su)
  | _ => none

/-- The entries of the stats array at a unit index; a context with no symbol has none (R256). -/
def PpmModel.entries (m : PpmModel) : Option Nat → Option (List Entry)
  | none => some []
  | some i =>
    match Sparse.find m.arena i with
    | some (.stats es) => some es
    | _ => none

/-- Stores a block. -/
def PpmModel.putBlock (m : PpmModel) (i : Nat) (b : Block) : PpmModel := { m with arena := Sparse.put m.arena i b }

/-- The sum of the counts. -/
def freqSum (es : List Entry) : Nat := (es.map (·.freq.toNat)).sum

/-! ### Creation and restart -/

/-- The initial `SEE` (R261). -/
def seeInit : Vector (BitVec 16) Config.nsee := Vector.ofFn fun i => BitVec.ofNat 16 ((i.val / 2 + 1) * 16)

/-- `ppm_restart()` (R261): model, allocator, and whether it succeeded. -/
def ppmRestart (m : PpmModel) (a : SubAlloc) : Bool × PpmModel × SubAlloc :=
  let m0 := { m with see := seeInit, arena := [] }
  match a.reset.alloc 1 with
  | (none, a1) => (false, m0, a1)
  | (some r, a1) =>
    match a1.alloc (Config.ppmMinUnits - 1) with
    | (none, a2) => (false, m0, a2)
    | (some st, a2) =>
      let entries := (List.range 256).map fun i => (⟨BitVec.ofNat 8 i, 1, none⟩ : Entry)
      let m1 := (m0.putBlock r (.ctx 256 256 (some st) none)).putBlock st (.stats entries)
      (true, { m1 with root := r, minctx := some r, ord := 0 }, a2)

/-- `ppm_create(order, units)` (R260). -/
def ppmCreate (m : PpmModel) (a : SubAlloc) (order units : Nat) : PpmModel × SubAlloc :=
  let (ok, m1, a1) := ppmRestart { m with order := order } { a with u := units }
  ({ m1 with alloc := ok }, a1)

/-- A model order clamped to 2..16 (R257, R285). -/
def clampOrder (n : Nat) : Nat := min (max n Config.ppmOrderMin) Config.ppmOrderMax

/-! ### Decoding one byte -/

/-- What `ppm_decode` returns (R264). -/
inductive PpmResult where
  | byte (b : Byte)
  | endSegment
  | corrupt
  | nomem
  deriving DecidableEq, Repr

/-- The index of the escape counter (R267). -/
def seeIndex (n : Nat) (masked : Bool) : Nat := 2 * min (Nat.log2 n) 7 + masked.toNat

/-- The counter at an index. -/
def PpmModel.seeAt (m : PpmModel) (i : Nat) : Nat := ((m.see[i]?).getD 0).toNat

/-- Sets the counter at an index. -/
def PpmModel.setSee (m : PpmModel) (i v : Nat) : PpmModel := { m with see := m.see.setIfInBounds i (BitVec.ofNat 16 v) }

/-- The live entry whose interval holds `k`, with its `cum` (R265). -/
def findLive : List Entry → (cum k : Nat) → Option (Entry × Nat)
  | [], _, _ => none
  | e :: t, cum, k => if k < cum + e.freq.toNat then some (e, cum) else findLive t (cum + e.freq.toNat) k

/-- How the walk of R265 ended: the context and the symbol found, with the contexts escaped from, longest first; or a
result that is no byte. -/
inductive Walk where
  | found (c : Nat) (s : Byte) (escaped : List Nat)
  | stop (r : PpmResult)
  deriving DecidableEq, Repr

/-- The decoding loop of R265. `mask` holds the masked symbols, `escaped` the contexts passed, longest first; `fuel` bounds
the suffix chain, which has at most `ORD + 1` contexts (R259; log entry 10). -/
def ppmWalk : (fuel : Nat) → Option Nat → List Byte → List Nat → PpmM Walk
  | 0, _, _, _ => pure (.stop .corrupt)
  | _ + 1, none, _, _ => pure (.stop .endSegment)
  | fuel + 1, some c, mask, escaped => do
    let s ← get
    match s.ppm.context c with
    | none => pure (.stop .corrupt)
    | some (_, _, st, suffix) =>
      match s.ppm.entries st with
      | none => pure (.stop .corrupt)
      | some es => do
        let live := es.filter fun e => !mask.contains e.sym
        if live.isEmpty then ppmWalk fuel suffix mask (escaped ++ [c])
        else do
          let sum := freqSum live
          let i := seeIndex live.length (!mask.isEmpty)
          let esc := max 1 (s.ppm.seeAt i / 16)
          let (k, rc) := s.rc.count (sum + esc)
          set { s with rc := rc }
          if sum + esc ≤ k then pure (.stop .corrupt)
          else if k < sum then
            match findLive live 0 k with
            | none => pure (.stop .corrupt)
            | some (e, cum) => do
              rcUpdate cum e.freq.toNat
              modify fun s => { s with ppm := s.ppm.setSee i (s.ppm.seeAt i - s.ppm.seeAt i / 32) }
              pure (.found c e.sym escaped)
          else do
            rcUpdate sum esc
            modify fun s => { s with ppm := s.ppm.setSee i (min (s.ppm.seeAt i + 16) 4080) }
            ppmWalk fuel suffix (mask ++ live.map (·.sym)) (escaped ++ [c])

/-- The entry of `s` is at `FREQ_MAX` (R272). -/
def saturated (es : List Entry) (s : Byte) : Bool := es.any fun e => e.sym == s && e.freq.toNat == Config.freqMax

/-- The frequency update of R272 on the entries of the context where `s` was found. -/
def bumpEntries (es : List Entry) (s : Byte) : List Entry :=
  let es1 := if saturated es s then es.map fun e => { e with freq := BitVec.ofNat 8 ((e.freq.toNat + 1) / 2) } else es
  es1.map fun e => if e.sym = s then { e with freq := e.freq + 1 } else e

/-- The frequency update of R272 in context `c`; a broken index gives none. -/
def PpmModel.bump (m : PpmModel) (c : Nat) (s : Byte) : Option PpmModel :=
  match m.context c with
  | some (n, f, some st, su) =>
    match m.entries (some st) with
    | some es =>
      let sum := if saturated es s then BitVec.ofNat 16 (freqSum (bumpEntries es s)) else f + 1
      some ((m.putBlock c (.ctx n sum (some st) su)).putBlock st (.stats (bumpEntries es s)))
    | none => none
  | _ => none

/-- How a model update went: done; an allocation failed; a broken index (log entry 10). -/
inductive Update where
  | done (m : PpmModel) (a : SubAlloc)
  | nomem
  | broken
  deriving DecidableEq, Repr

/-- `append_symbol(x, s)` (R273). -/
def appendSymbol (m : PpmModel) (a : SubAlloc) (x : Nat) (s : Byte) : Update :=
  match m.context x with
  | none => .broken
  | some (n, f, st, su) =>
    match m.entries st with
    | none => .broken
    | some es =>
      let es1 := es ++ [⟨s, 1, none⟩]
      if n.toNat % 2 = 0 then
        match a.alloc (n.toNat / 2 + 1) with
        | (none, _) => .nomem
        | (some new, a1) =>
          let (m1, a2) := match st with
            | some old => ({ m with arena := Sparse.erase m.arena old }, a1.free old (n.toNat / 2))
            | none => (m, a1)
          .done ((m1.putBlock new (.stats es1)).putBlock x (.ctx (n + 1) (f + 1) (some new) su)) a2
      else
        match st with
        | some old => .done ((m.putBlock old (.stats es1)).putBlock x (.ctx (n + 1) (f + 1) (some old) su)) a
        | none => .broken

/-- The appends of R265, longest context first. -/
def appendAll (m : PpmModel) (a : SubAlloc) (s : Byte) : List Nat → Update
  | [] => .done m a
  | x :: t =>
    match appendSymbol m a x s with
    | .done m1 a1 => appendAll m1 a1 s t
    | u => u

/-- The suffix chain from a context down to the root, longest first. -/
def PpmModel.chain (m : PpmModel) : (fuel : Nat) → Option Nat → List Nat
  | 0, _ => []
  | _ + 1, none => []
  | fuel + 1, some c =>
    match m.context c with
    | some (_, _, _, su) => c :: PpmModel.chain m fuel su
    | none => [c]

/-- The entry of context `x` for symbol `s`. -/
def PpmModel.entryOf (m : PpmModel) (x : Nat) (s : Byte) : Option Entry :=
  match m.context x with
  | some (_, _, st, _) =>
    match m.entries st with
    | some es => es.find? fun e => e.sym == s
    | none => none
  | none => none

/-- Links child `c` into the entry of context `x` for symbol `s`. -/
def PpmModel.setChild (m : PpmModel) (x : Nat) (s : Byte) (c : Nat) : PpmModel :=
  match m.context x with
  | some (_, _, some st, _) =>
    match m.entries (some st) with
    | some es => m.putBlock st (.stats (es.map fun e => if e.sym = s then { e with child := some c } else e))
    | none => m
  | _ => m

/-- Successor contexts (R275): over the contexts of orders 0, 1, ... below `N`; `lower` is the child of the order below,
none at the root. -/
def linkChildren (m : PpmModel) (a : SubAlloc) (s : Byte) : (lower : Option Nat) → List Nat → Update × Option Nat
  | lower, [] => (.done m a, lower)
  | lower, x :: t =>
    match m.entryOf x s with
    | none => (.broken, lower)
    | some e =>
      match e.child with
      | some c => linkChildren m a s (some c) t
      | none =>
        match a.alloc 1 with
        | (none, _) => (.nomem, lower)
        | (some nc, a1) =>
          let m1 := m.putBlock nc (.ctx 0 0 none (some (lower.getD m.root)))
          linkChildren (m1.setChild x s nc) a1 s (some nc) t

/-- The model update of R265 after symbol `s` was found in context `c`. -/
def ppmUpdate (m : PpmModel) (a : SubAlloc) (c : Nat) (s : Byte) (escaped : List Nat) : Update :=
  match m.bump c s with
  | none => .broken
  | some m1 =>
    match appendAll m1 a s escaped with
    | .done m2 a2 =>
      match linkChildren m2 a2 s none ((m2.chain (m2.ord + 1) m2.minctx).reverse.take m2.order) with
      | (.done m3 a3, newmin) => .done { m3 with minctx := newmin, ord := min (m3.ord + 1) m3.order } a3
      | (u, _) => u
    | u => u

/-- `ppm_decode()` (R265), with the recovery of R279. -/
def ppmDecode : PpmM PpmResult := do
  let s ← get
  let w ← ppmWalk (s.ppm.ord + 2) s.ppm.minctx [] []
  match w with
  | .stop r => pure r
  | .found c b escaped => do
    let s ← get
    match ppmUpdate s.ppm s.sa c b escaped with
    | .done m a => do
      set { s with ppm := m, sa := a }
      pure (.byte b)
    | .broken => pure .corrupt
    | .nomem =>
      let (ok, m, a) := ppmRestart s.ppm s.sa
      set { s with ppm := { m with alloc := ok && m.alloc }, sa := a, restarted := true }
      if ok then pure (.byte b) else pure .nomem

end Sys2Proof.Machine
end

