-- ==== Sys2Proof/Machine/Programs.lean ====
section
/-! DEFINITION. The identification of Filter VM programs (spec/47_filtervm.md R314, R315): the XOR checksum, the CRC-32 and
the match against the catalogue. -/

namespace Sys2Proof.Machine

/-- Eight shift steps of the reflected CRC-32 (R315). -/
def crcBits : Nat → Word → Word
  | 0, c => c
  | n + 1, c => crcBits n (if c.getLsbD 0 then (c >>> 1) ^^^ 0xEDB88320#32 else c >>> 1)

/-- `CRC32` of IEEE 802.3 (R315). -/
def crc32 (l : List Byte) : Word :=
  ~~~(l.foldl (fun c b => crcBits 8 (c ^^^ b.setWidth 32)) 0xFFFFFFFF#32)

/-- The XOR of a byte sequence, 0 for none. -/
def xorBytes (l : List Byte) : Byte := l.foldl (· ^^^ ·) 0

/-- `identify(PROG, PLEN)`: the kind, and whether `note(BAD_PROGRAM)` is due (R314: an empty program, or one whose first
byte is not the XOR of its body). A well-formed program that matches no entry has kind `NONE` and no event (R315, log entry
16). -/
def identify (catalogue : List CatalogueEntry) (prog : List Byte) : FilterKind × Bool :=
  match prog with
  | [] => (.none, true)
  | x :: body =>
    if x ≠ xorBytes body then (.none, true)
    else
      match catalogue.find? fun e => e.bodyLen == body.length && e.crc == crc32 body with
      | some e => (e.kind, false)
      | none => (.none, false)

end Sys2Proof.Machine
end

