-- ==== Sys2Proof/Machine/Transforms.lean ====
section
/-! DEFINITION. The transforms of the Filter VM (spec/47_filtervm.md R320 to R338): pure functions from a byte sequence and
the registers to a byte sequence of the same length. None can fault (R320). -/

namespace Sys2Proof.Machine

/-- Register `Ri`. -/
def regAt (r : VmRegs) (i : Nat) : Word := (r[i]?).getD 0

/-! ### Bytes and words of a sequence -/

/-- Byte `i`. -/
def byteOf (d : List Byte) (i : Nat) : Byte := d.getD i 0

/-- `LE32(d, a)` (spec/20_memory.md R58). -/
def le32 (d : List Byte) (a : Nat) : Word :=
  byteOf d (a + 3) ++ byteOf d (a + 2) ++ byteOf d (a + 1) ++ byteOf d a

/-- `store LE32 v at d[a..a+4)`: four single-byte writes (R58). -/
def storeLe32 (d : List Byte) (a : Nat) (v : Word) : List Byte :=
  (((d.set a (v.extractLsb' 0 8)).set (a + 1) (v.extractLsb' 8 8)).set (a + 2) (v.extractLsb' 16 8)).set (a + 3)
    (v.extractLsb' 24 8)

/-- The sequence `c, c + step, c + 2·step, ...` below `n`. -/
def everyNth (c step n : Nat) : List Nat :=
  (List.range ((n - c + step - 1) / step)).map fun k => c + step * k

/-! ### Address relocation (R326, R327) -/

/-- What the relocation stores for address `addr` at file offset `off`; none where the field is left as it is (R326). -/
def relocated (addr off : Word) : Option Word :=
  if 2 ^ 31 ≤ addr.toNat then
    if (addr + off).toNat < 2 ^ 31 then some (addr + Config.relocSpan) else none
  else if addr.toNat < Config.relocSpan.toNat then some (addr - off)
  else none

/-- The scan of R326 from position `p`; `fuel` is at least the number of positions left. -/
def relocScan (opcodes : List Byte) (fo : Word) (n : Nat) : (fuel p : Nat) → List Byte → List Byte
  | 0, _, d => d
  | fuel + 1, p, d =>
    if p + 4 < n then
      if opcodes.contains (byteOf d p) then
        let q := p + 1
        let d1 := match relocated (le32 d q) (BitVec.ofNat 32 q + fo) with
          | some v => storeLe32 d q v
          | none => d
        relocScan opcodes fo n fuel (q + 4) d1
      else relocScan opcodes fo n fuel (p + 1) d
    else d

/-- Address relocation of a block at file offset `fo`. -/
def relocate (opcodes : List Byte) (fo : Word) (src : List Byte) : List Byte :=
  relocScan opcodes fo src.length src.length 0 src

/-! ### Itanium (R330, R331) -/

/-- `get(bit, cnt)` (R330). -/
def bitGet (d : List Byte) (q bit cnt : Nat) : Nat := ((le32 d (q + bit / 8)).toNat / 2 ^ (bit % 8)) % 2 ^ cnt

/-- `set(bit, cnt, v)` (R330). -/
def bitSet (d : List Byte) (q bit cnt v : Nat) : List Byte :=
  let a := q + bit / 8
  let m : Word := BitVec.ofNat 32 (2 ^ cnt - 1) <<< (bit % 8)
  storeLe32 d a ((le32 d a &&& ~~~m) ||| (BitVec.ofNat 32 v <<< (bit % 8)))

/-- One slot of a bundle (R331): a branch has its 20-bit offset relocated by the bundle number. -/
def itaniumSlot (q : Nat) (fo : Word) (mask : Nat) (d : List Byte) (i : Nat) : List Byte :=
  let sp := 41 * i + 5
  if mask.testBit i ∧ bitGet d q (sp + 37) 4 = 5 then
    bitSet d q (sp + 13) 20 ((bitGet d q (sp + 13) 20 + 2 ^ 20 - fo.toNat % 2 ^ 20) % 2 ^ 20)
  else d

/-- The bundle loop of R331; `fuel` is at least the number of bundles left. -/
def itaniumScan (n : Nat) : (fuel q : Nat) → Word → List Byte → List Byte
  | 0, _, _, d => d
  | fuel + 1, q, fo, d =>
    if q + 21 < n then
      let t := (byteOf d q).toNat % 32
      let d1 := if 16 ≤ t then [0, 1, 2].foldl (itaniumSlot q fo (Config.tmask.getD (t - 16) 0)) d else d
      itaniumScan n fuel (q + 16) (fo + 1) d1
    else d

/-- `ITANIUM` at file offset `fo`. -/
def itanium (fo : Word) (src : List Byte) : List Byte := itaniumScan src.length src.length 0 (fo >>> 4) src

/-! ### Delta (R333) -/

/-- One channel: the running previous byte, the source position, the output. -/
def deltaStep (src : List Byte) (st : Byte × Nat × List Byte) (i : Nat) : Byte × Nat × List Byte :=
  let prev := st.1 - byteOf src st.2.1
  (prev, st.2.1 + 1, st.2.2.set i prev)

/-- All channels, from source position `j` on. -/
def deltaChannels (ch : Nat) (src : List Byte) : List Nat → Nat → List Byte → List Byte
  | [], _, d => d
  | c :: cs, j, d =>
    let r := (everyNth c ch src.length).foldl (deltaStep src) (0, j, d)
    deltaChannels ch src cs r.2.1 r.2.2

/-- `DELTA` with `ch` channels. -/
def delta (ch : Nat) (src : List Byte) : List Byte :=
  if ch = 0 ∨ 1024 < ch ∨ Config.filterMem / 2 < src.length then src
  else deltaChannels ch src (List.range ch) 0 (List.replicate src.length 0)

/-! ### RGB (R335) -/

/-- The predictor: of left, up and up-left the one nearest to `left + up - upleft`; ties prefer left, then up. -/
def median (prev up ul : Byte) : Byte :=
  let p : Int := (prev.toNat : Int) + up.toNat - ul.toNat
  let pa := (p - prev.toNat).natAbs
  let pb := (p - up.toNat).natAbs
  let pc := (p - ul.toNat).natAbs
  if pa ≤ pb ∧ pa ≤ pc then prev else if pb ≤ pc then up else ul

/-- One byte of a colour component. -/
def rgbStep (stride : Nat) (src : List Byte) (st : Byte × Nat × List Byte) (i : Nat) : Byte × Nat × List Byte :=
  let pred :=
    if stride + 3 ≤ i then median st.1 (byteOf st.2.2 (i - stride)) (byteOf st.2.2 (i - stride - 3)) else st.1
  let prev := pred - byteOf src st.2.1
  (prev, st.2.1 + 1, st.2.2.set i prev)

/-- The three components, from source position `j` on. -/
def rgbPlanes (stride : Nat) (src : List Byte) : List Nat → Nat → List Byte → List Byte
  | [], _, d => d
  | c :: cs, j, d =>
    let r := (everyNth c 3 src.length).foldl (rgbStep stride src) (0, j, d)
    rgbPlanes stride src cs r.2.1 r.2.2

/-- The second loop: the middle component added back to its neighbours. -/
def greenAdd (n : Nat) (d : List Byte) (i : Nat) : List Byte :=
  if i + 2 < n then
    let g := byteOf d (i + 1)
    let d1 := d.set i (byteOf d i + g)
    d1.set (i + 2) (byteOf d1 (i + 2) + g)
  else d

/-- `RGB` with registers `R0`, `R1`. -/
def rgb (r0 r1 : Word) (src : List Byte) : List Byte :=
  let n := src.length
  let stride := (r0 - 3).toNat
  if n < 3 ∨ Config.filterMem / 2 < n ∨ n < stride ∨ 2 < r1.toNat then src
  else (everyNth r1.toNat 3 n).foldl (greenAdd n) (rgbPlanes stride src [0, 1, 2] 0 (List.replicate n 0))

/-! ### Audio (R337) -/

/-- The variables of one channel, unbounded integers. -/
structure AudioVars where
  prev : Int
  pd : Int
  d1 : Int
  d2 : Int
  d3 : Int
  k1 : Int
  k2 : Int
  k3 : Int
  dif : List Nat
  cnt : Nat
  j : Nat
  out : List Byte
  deriving DecidableEq, Repr

/-- `sext_8` of a value below 256 (spec/00_scope.md R13). -/
def sext8 (x : Int) : Int := if x < 128 then x else x - 256

/-- The least index at which a list has its least element. -/
def argMin (l : List Nat) : Nat := l.findIdx fun x => l.all fun y => decide (x ≤ y)

/-- A coefficient lowered or raised within its bounds. -/
def coefDown (k : Int) : Int := if -16 ≤ k then k - 1 else k
/-- A coefficient lowered or raised within its bounds. -/
def coefUp (k : Int) : Int := if k < 16 then k + 1 else k

/-- One sample. -/
def audioStep (src : List Byte) (v : AudioVars) (i : Nat) : AudioVars :=
  let d3 := v.d2
  let d2 := v.pd - v.d1
  let d1 := v.pd
  let pred : Int := ((8 * v.prev + v.k1 * d1 + v.k2 * d2 + v.k3 * d3) / 8) % 256
  let cur : Int := (byteOf src v.j).toNat
  let out : Int := (pred - cur) % 256
  let pd := sext8 ((out - v.prev) % 256)
  let d := sext8 cur * 8
  let errs := [d, d - d1, d + d1, d - d2, d + d2, d - d3, d + d3]
  let dif := List.zipWith (fun a (e : Int) => a + e.natAbs) v.dif errs
  let m := argMin dif
  let tune := v.cnt % 32 = 0
  { prev := out, pd := pd, d1 := d1, d2 := d2, d3 := d3,
    k1 := if tune ∧ m = 1 then coefDown v.k1 else if tune ∧ m = 2 then coefUp v.k1 else v.k1,
    k2 := if tune ∧ m = 3 then coefDown v.k2 else if tune ∧ m = 4 then coefUp v.k2 else v.k2,
    k3 := if tune ∧ m = 5 then coefDown v.k3 else if tune ∧ m = 6 then coefUp v.k3 else v.k3,
    dif := if tune then List.replicate 7 0 else dif, cnt := v.cnt + 1, j := v.j + 1,
    out := v.out.set i (BitVec.ofInt 8 out) }

/-- All channels, from source position `j` on. -/
def audioChannels (ch : Nat) (src : List Byte) : List Nat → Nat → List Byte → List Byte
  | [], _, d => d
  | c :: cs, j, d =>
    let r := (everyNth c ch src.length).foldl (audioStep src) ⟨0, 0, 0, 0, 0, 0, 0, 0, List.replicate 7 0, 0, j, d⟩
    audioChannels ch src cs r.j r.out

/-- `AUDIO` with `ch` channels. -/
def audio (ch : Nat) (src : List Byte) : List Byte :=
  if ch = 0 ∨ 128 < ch ∨ Config.filterMem / 2 < src.length then src
  else audioChannels ch src (List.range ch) 0 (List.replicate src.length 0)

/-! ### Each kind's transform -/

/-- `NONE` (R324). -/
def transformNone (_ : VmRegs) (src : List Byte) : List Byte := src
/-- `E8` (R326). -/
def transformE8 (r : VmRegs) (src : List Byte) : List Byte := relocate [0xE8] (regAt r 6) src
/-- `E8E9` (R327). -/
def transformE8E9 (r : VmRegs) (src : List Byte) : List Byte := relocate [0xE8, 0xE9] (regAt r 6) src
/-- `ITANIUM` (R331). -/
def transformItanium (r : VmRegs) (src : List Byte) : List Byte := itanium (regAt r 6) src
/-- `DELTA` (R333). -/
def transformDelta (r : VmRegs) (src : List Byte) : List Byte := delta (regAt r 0).toNat src
/-- `RGB` (R335). -/
def transformRgb (r : VmRegs) (src : List Byte) : List Byte := rgb (regAt r 0) (regAt r 1) src
/-- `AUDIO` (R337). -/
def transformAudio (r : VmRegs) (src : List Byte) : List Byte := audio (regAt r 0).toNat src

/-- `transform(kind, src, R)` (R320). -/
def transform (k : FilterKind) (r : VmRegs) (src : List Byte) : List Byte :=
  match k with
  | .none => transformNone r src
  | .e8 => transformE8 r src
  | .e8e9 => transformE8E9 r src
  | .itanium => transformItanium r src
  | .delta => transformDelta r src
  | .rgb => transformRgb r src
  | .audio => transformAudio r src

end Sys2Proof.Machine
end

