-- ==== Sys2Proof/Machine/Ops.lean ====
section
/-! DEFINITION. The named operations over the whole state that the meanings share: how an operation is run and abandoned,
accepting and refusing a command, the end of a session, `raise Fatal` (the one exception entry of this hardware, R400; there
is no return from it, R402), the output port, the resets, and the parameter/status port. -/

namespace Sys2Proof.Machine

/-! ### Running operations -/

/-- Operations on the machine; an abandoned one keeps the state reached (spec/60_exceptions.md R400). -/
abbrev M := EStateM Halt State

/-- The outcome type of every meaning. -/
abbrev Out := Host.Outcome State Fault Refusal

/-- A cursor operation on the machine. -/
def onCur {α : Type} (x : CurM α) : M α := fun s =>
  match x s.cur with
  | .ok a c => .ok a (s.setCur c)
  | .error e c => .error e (s.setCur c)

/-- The part of the machine the PPM decoder works on. -/
def State.world (s : State) : PpmWorld := ⟨s.cur, s.rc, s.ppm, s.sa, false⟩

/-- The machine with that part replaced. -/
def State.setWorld (s : State) (w : PpmWorld) : State := (((s.setCur w.cur).setRc w.rc).setPpm w.ppm).setSa w.sa

/-- A PPM operation on the machine, with the event of a restarted model (spec/45_ppm_model.md R279). -/
def onPpm {α : Type} (x : PpmM α) : M α := fun s =>
  match x s.world with
  | .ok a w => .ok a ((s.setWorld w).noteIf w.restarted .ppmRestart)
  | .error e w => .error e ((s.setWorld w).noteIf w.restarted .ppmRestart)

/-! ### Accepting and refusing (R82, R405) -/

/-- Sets `CMDSTAT.CMD_ERR`. -/
def State.setCmdErr (s : State) (b : Bool) : State := s.setSt { s.st with cmdErr := b }

/-- A refused command or register access: `CMD_ERR <- 1` and nothing else (R82, R405). -/
def State.refuse (s : State) : State := s.setCmdErr true

/-- An accepted command: `CMD_ERR <- 0` (R82). -/
def State.accept (s : State) : State := s.setCmdErr false

/-- `RESULT <- v`. -/
def State.setResult (s : State) (v : Word) : State := s.setSt { s.st with result := v }

/-- A command accepted only when idle (R82) and under its own condition: `f` is its effect. -/
def idleCommand (cond : Bool) (f : State → State) (s : State) : Out :=
  if s.isIdle && cond then .next (f s.accept) else .next s.refuse

/-! ### The end of a session -/

/-- `finish(kind)` (spec/48_session.md R358), with the `REASON` and `DETAIL` of a failure. -/
def State.finish (s : State) (k : ResultKind) (r : Reason) (d : Detail) : State :=
  ((s.setSt { s.st with kind := k, reason := r, detail := d, consumed := s.cur.consumedBytes }).setVm
    { s.vm with fq := [] }).setSes { s.ses with fsm := .done }

/-- TAKING AN EXCEPTION: `raise Fatal(reason, detail)` (spec/60_exceptions.md R400). It saves nothing and goes to no address;
what the abandoned operation has changed stands. -/
def State.raiseFatal (s : State) (r : Reason) (d : Detail) : State := s.finish .failure r d

/-- `finish(SUCCESS)`. -/
def State.succeed (s : State) : State := s.finish .success .none .none

/-- `finish(PARTIAL)` (spec/48_session.md R357). -/
def State.cancelled (s : State) : State := s.finish .partialRun .none .none

/-- Sets `FSM`. -/
def State.setFsm (s : State) (f : Fsm) : State := s.setSes { s.ses with fsm := f }

/-! ### Resets (spec/70_reset_and_hazards.md R430) -/

/-- `FM` becomes unspecified (log entry 1). -/
def FilterVm.forgetFm (v : FilterVm) : FilterVm := { v with fm := [], fmGen := v.fmGen + 1 }

/-- Everything at its reset value but the environment: the ports, the host, the catalogue (log entry 24). -/
def State.hardReset (s : State) : State :=
  { State.reset with
    cur := { State.reset.cur with port := s.cur.port }, vm := { State.reset.vm with fmGen := s.vm.fmGen + 1 },
    out := s.out, host := s.host, readData := s.readData, catalogue := s.catalogue }

/-- `decoder_state_reset()` (R430): as a hard reset, keeping the parameter registers 0x01 to 0x07, `VER_L`, `CMDSTAT` and
`RESULT`. -/
def State.decoderReset (s : State) : State :=
  let r := s.hardReset
  ((r.setPar { s.par with cancel := false }).setSes { r.ses with verL := s.ses.verL }).setSt
    { r.st with cmdErr := s.st.cmdErr, result := s.st.result }

/-! ### Abandoned operations -/

/-- What an abandoned operation leads to: the fatal condition is raised (R400); or the port call it was blocked in has
returned and the `RESET` that came meanwhile takes effect, whatever the call gave (R430). -/
def State.halted (s : State) (h : Halt) : State :=
  match h with
  | .fatal f => s.raiseFatal f.reason f.detail
  | .reset => s.hardReset

/-- An operation as the effect of an instruction. -/
def runOp (x : M Unit) (s : State) : Out :=
  match x s with
  | .ok _ s1 => .next s1
  | .error h s1 => .next (s1.halted h)

/-- An idle command that may meet a port error: then it is refused, with no other change than the cursor's (R82, R134). -/
def portCommand (cond : Bool) (x : M (Option Word)) (s : State) : Out :=
  if s.isIdle && cond then
    match x s.accept with
    | .ok (some v) s1 => .next (s1.setResult v)
    | .ok none s1 => .next s1
    | .error (.fatal _) s1 => .next (s.setCur s1.cur).refuse
    | .error .reset s1 => .next s1.hardReset
  else .next s.refuse

/-! ### Output -/

/-- What of `bytes` `TARGET_L` leaves room for (spec/48_session.md R366). -/
def State.fitting (s : State) (bytes : List Byte) : List Byte := bytes.take (s.ses.targetL - s.st.written)

/-- The state after the output port has accepted `chunk`. -/
def State.accepted (s : State) (chunk : List Byte) : State :=
  (s.setOut { bytes := s.out.bytes ++ chunk, answers := s.out.answers.drop 1 }).setSt
    { s.st with written := s.st.written + chunk.length }

/-- The output port after a call that did not succeed: its answer is used up, and `chunk` has gone out all the same if
`accepted`. -/
def OutPort.broken (o : OutPort) (accepted : Bool) (chunk : List Byte) : OutPort :=
  { bytes := o.bytes ++ if accepted then chunk else [], answers := o.answers.drop 1 }

/-- `emit(bytes)` (spec/48_session.md R366): as much as `TARGET_L` leaves room for, in one `OUT.write`. -/
def emit (bytes : List Byte) : M Unit := fun s =>
  if (s.fitting bytes).isEmpty then .ok () s
  else
    match s.out.answers.head? with
    | some .error => .error (.fatal ⟨.writeFail, .none⟩) (s.setOut (s.out.broken false (s.fitting bytes)))
    | some (.reset accepted) => .error .reset (s.setOut (s.out.broken accepted (s.fitting bytes)))
    | _ => .ok () (s.accepted (s.fitting bytes))

/-! ### The parameter/status port (spec/10_state.md R30 to R45) -/

/-- `RESULT_KIND` as a field (R39). -/
def ResultKind.code : ResultKind → Word
  | .none => 0
  | .success => 1
  | .partialRun => 2
  | .failure => 3

/-- `REASON` as a field (R40). -/
def Reason.code : Reason → Word
  | .none => 0
  | .hdrChecksum => 1
  | .truncated => 2
  | .corrupt => 3
  | .writeFail => 4

/-- `DETAIL` as a field (R41). -/
def Detail.code : Detail → Word
  | .none => 0
  | .badHeader => 1
  | .noTables => 2
  | .tableRejected => 3
  | .nomem => 4
  | .readFail => 5
  | .ppmStream => 6

/-- A bit as a word. -/
def bitWord (b : Bool) : Word := if b then 1 else 0

/-- The value of register `idx`; none for an index R30 does not list. -/
def State.register (s : State) (idx : Byte) : Option Word :=
  match idx.toNat with
  | 0x00 => some Config.idValue
  | 0x01 => some (s.par.version.setWidth 32)
  | 0x02 => some s.par.winsize
  | 0x03 => some (bitWord s.par.solid)
  | 0x04 => some s.par.targetLo
  | 0x05 => some s.par.targetHi
  | 0x06 => some (s.par.ppmOrder.setWidth 32)
  | 0x07 => some s.par.ppmMem
  | 0x08 => some (bitWord s.par.cancel)
  | 0x10 => some (s.st.kind.code ||| (bitWord s.busy <<< 4))
  | 0x11 => some s.st.reason.code
  | 0x12 => some s.st.detail.code
  | 0x13 => some (BitVec.ofNat 32 s.st.written)
  | 0x14 => some (BitVec.ofNat 32 (s.st.written / 2 ^ 32))
  | 0x15 => some (BitVec.ofNat 32 s.cur.consumedBytes)
  | 0x16 => some (BitVec.ofNat 32 (s.cur.consumedBytes / 2 ^ 32))
  | 0x17 => some s.st.events
  | 0x18 => some (bitWord s.st.cmdErr)
  | 0x19 => some s.st.result
  | _ => none

/-- `RegRead(idx)` (R30): the value is given to the host; an unlisted index gives 0 and sets `CMD_ERR`. `CONSUMED` is
brought up to date when it is read (R43). -/
def State.regRead (s : State) (idx : Byte) : State :=
  match s.register idx with
  | some v =>
    let s1 := if idx = 0x15 ∨ idx = 0x16 then s.setSt { s.st with consumed := s.cur.consumedBytes } else s
    s1.accept.setReadData v
  | none => s.refuse.setReadData 0

/-- The parameter registers after a write of `v`; none for an index that is no writable register (R30, R32 to R38). A write
of 0 to `CTRL` leaves `CANCEL` set: only `START` and reset clear it (R38, log entry 13). -/
def Params.write (p : Params) (idx : Byte) (v : Word) : Option Params :=
  match idx.toNat with
  | 0x01 => some { p with version := v.setWidth 3 }
  | 0x02 => some { p with winsize := v }
  | 0x03 => some { p with solid := v.getLsbD 0 }
  | 0x04 => some { p with targetLo := v }
  | 0x05 => some { p with targetHi := v }
  | 0x06 => some { p with ppmOrder := v.setWidth 8 }
  | 0x07 => some { p with ppmMem := v }
  | 0x08 => some { p with cancel := p.cancel || v.getLsbD 0 }
  | _ => none

/-- `RegWrite(idx, v)` (R30): while busy only `CTRL` is writable. -/
def State.regWrite (s : State) (idx : Byte) (v : Word) : State :=
  if s.isIdle || idx == 0x08 then
    match s.par.write idx v with
    | some p => (s.setPar p).accept
    | none => s.refuse
  else s.refuse

end Sys2Proof.Machine
end

