-- ==== Sys2Proof/Machine/Flush.lean ====
section
/-! DEFINITION. The flush (spec/48_session.md R360, R366 to R372): window bytes leave through the ready filters of `FQ`. -/

namespace Sys2Proof.Machine

/-- Sets `TF`. -/
def State.setTf (s : State) (a : Nat) : State := s.setWin { s.win with tf := a }

/-- Sets `FQ`. -/
def State.setFq (s : State) (q : List FilterDesc) : State := s.setVm { s.vm with fq := q }

/-- The register file a transform runs with (spec/47_filtervm.md R322): the descriptor's, with `R4`, `R6`, `R7` forced. -/
def FilterDesc.loadRegs (f : FilterDesc) (written : Nat) : VmRegs :=
  ((f.regs.setIfInBounds 4 (BitVec.ofNat 32 f.len)).setIfInBounds 6 (BitVec.ofNat 32 written)).setIfInBounds 7
    (BitVec.ofNat 32 Config.filterMem)

/-- The stacked filters at the head of the queue (R321, R367): each descriptor with this start and length, in queue order,
applied to the previous one's output. Gives the queue left, the bytes, the register file last loaded. -/
def runStack (start len written : Nat) :
    List FilterDesc → List Byte → VmRegs → List FilterDesc × List Byte × VmRegs
  | [], buf, regs => ([], buf, regs)
  | g :: t, buf, regs =>
    if g.start = start ∧ g.len = len then
      runStack start len written t (transform g.kind (g.loadRegs written) buf) (g.loadRegs written)
    else (g :: t, buf, regs)

/-- `emit(win(TF, a - TF)); TF <- a`. -/
def emitUpTo (a : Nat) : M Unit := do
  let s ← get
  emit (s.win.range s.win.tf (a - s.win.tf))
  modify (·.setTf a)

/-- The loop of `do_flush` (R367) with boundary `b`. It answers whether the raw bytes up to the boundary are still to go out:
not after it stopped at a block that is not complete (R368). `fuel` is more than the length of the queue. -/
def flushLoop (final : Bool) (b : Nat) : Nat → M Bool
  | 0 => pure true
  | fuel + 1 => do
    let s ← get
    match s.vm.fq with
    | [] => pure true
    | f :: rest =>
      if f.start < s.win.tf then do
        set ((s.setFq rest).note .filterDropped)                       -- R369
        flushLoop final b fuel
      else if b ≤ f.start then pure true
      else do
        emitUpTo f.start
        let s ← get
        if b < f.start + f.len then
          if final then do
            set ((s.setFq rest).note .filterDropped)                   -- R371
            flushLoop final b fuel
          else do
            set (s.setFq ({ f with deferred := true } :: rest))        -- R368
            pure false
        else do
          let (q, buf, regs) := runStack f.start f.len s.st.written s.vm.fq (s.win.range f.start f.len) s.vm.regs
          set (s.setVm { s.vm.forgetFm with fq := q, regs := regs })
          emit buf
          modify (·.setTf (f.start + f.len))
          flushLoop final b fuel

/-- `do_flush(final)` (R367). -/
def doFlush (final : Bool) : M Unit := do
  let s ← get
  let b := s.win.tw
  if ← flushLoop final b (s.vm.fq.length + 1) then
    emitUpTo b
    let s ← get
    if final && !s.vm.fq.isEmpty then set ((s.setFq []).note .filterDropped)      -- R371

/-- `flush()`. -/
def flush : M Unit := doFlush false

/-- `final_flush(); finish(SUCCESS)`. -/
def endFile : M Unit := do
  doFlush true
  modify (·.succeed)

/-- More than `W - MAXTOKEN` bytes are pending (R360). -/
def State.windowFull (s : State) : Bool := decide (s.win.w - Config.maxToken < s.win.tw - s.win.tf)

/-- The dropping loop of `maybe_flush` (R360, R372). -/
def dropUntilFits : Nat → M Unit
  | 0 => pure ()
  | fuel + 1 => do
    let s ← get
    if s.windowFull && !s.vm.fq.isEmpty then
      set ((s.setFq s.vm.fq.tail).note .filterDropped)
      flush
      dropUntilFits fuel

/-- `maybe_flush()` (R360). -/
def maybeFlush : M Unit := do
  let s ← get
  if s.windowFull then
    flush
    let s ← get
    dropUntilFits s.vm.fq.length

end Sys2Proof.Machine
end

