-- ==== Sys2Proof/Syntax.lean ====
section
/-! DEFINITION. The instructions of the CORE, one constructor per row of spec/opcode_table.json, each with the operand
fields its encoding carries (spec/30_encoding.md); and the places an instruction can be fetched from. -/

namespace Sys2Proof

/-- A filter token (spec/30_encoding.md R107). `regs` holds the transmitted register values in ascending register order,
one per set bit 0..6 of `mask`; `prog` is the program with its XOR byte, `PLEN` its length. A field the flags of `f0`
leave out is 0 or empty. -/
structure FilterTok where
  f0 : Byte
  start : BitVec 32
  len : BitVec 24
  mask : Byte
  regs : List (BitVec 32)
  prog : List Byte
  deriving DecidableEq, Repr

/-- The filter token all of whose fields are 0; it stands in for the absent operand of a reserved symbol 257
(spec/43_tokens.md R209). -/
def FilterTok.zero : FilterTok := ⟨0, 0, 0, 0, [], []⟩

/-- The instructions. Host commands carry the operands `a`, `b` they use (R83). `e1`, `e2`, `e` are extra raw bits, `d` a
distance symbol, `s` a repeat-length symbol (R97). In a generation in which a symbol is reserved it has no operand fields
(R209), and its operands are 0. -/
inductive Instr where
  -- host commands (R83)
  | nop
  | reset
  | start
  | cancel
  | bcAttach
  | bcPeek (n : Word)
  | bcConsume (n : Word)
  | bcRefill
  | bcAlign
  | bcExhausted
  | hufSetlen (index length : Word)
  | hufBuild (id count : Word)
  | hufDecode (id : Word)
  | winPut (byte : Word)
  | winCopy (distance length : Word)
  | winRead (index : Word)
  | winFlush
  | winStat
  | winInit
  | ppmInit (order bytes : Word)
  | ppmDecode
  | saAlloc (n : Word)
  | saFree (index n : Word)
  | rcInit
  | saInit (units : Word)
  | fvLoad (off byte : Word)
  | fvSetreg (reg value : Word)
  | fvExec (kind len : Word)
  | fvRead (off : Word)
  | fvIdent (plen : Word)
  -- LZ tokens (R90)
  | lit (b : Byte)
  | end00
  | end01
  | end10
  | end11
  | filter (t : FilterTok)
  | repeatLast
  | cache0 (s e : Nat)
  | cache1 (s e : Nat)
  | cache2 (s e : Nat)
  | cache3 (s e : Nat)
  | match0 (e1 d e2 : Nat)
  | match1 (e1 d e2 : Nat)
  | match2 (e1 d e2 : Nat)
  | match3 (e1 d e2 : Nat)
  | match4 (e1 d e2 : Nat)
  | match5 (e1 d e2 : Nat)
  | match6 (e1 d e2 : Nat)
  | match7 (e1 d e2 : Nat)
  | match8 (e1 d e2 : Nat)
  | match9 (e1 d e2 : Nat)
  | match10 (e1 d e2 : Nat)
  | match11 (e1 d e2 : Nat)
  | match12 (e1 d e2 : Nat)
  | match13 (e1 d e2 : Nat)
  | match14 (e1 d e2 : Nat)
  | match15 (e1 d e2 : Nat)
  | match16 (e1 d e2 : Nat)
  | match17 (e1 d e2 : Nat)
  | match18 (e1 d e2 : Nat)
  | match19 (e1 d e2 : Nat)
  | match20 (e1 d e2 : Nat)
  | match21 (e1 d e2 : Nat)
  | match22 (e1 d e2 : Nat)
  | match23 (e1 d e2 : Nat)
  | match24 (e1 d e2 : Nat)
  | match25 (e1 d e2 : Nat)
  | match26 (e1 d e2 : Nat)
  | match27 (e1 d e2 : Nat)
  -- audio tokens (R100)
  | audDelta (d : Byte)
  | audEnd00
  | audEnd01
  | audEnd10
  | audEnd11
  -- PPM tokens (R102, R106, R114)
  | ppmLit (s : Byte)
  | ppmLitesc
  | ppmNewfile
  | ppmFilter (t : FilterTok)
  | ppmMatch (d2 d1 d0 l : Byte)
  | ppmReserved (c : Byte)
  | ppmonlyByte (s : Byte)
  -- stream structures (R84, R88, R89, R101, R107)
  | hdr (flags chk : Byte) (size : List Byte)
  | lenV (v : BitVec 4)
  | len15
  | lenZrun (z : BitVec 4)
  | audioTables (ch1 : BitVec 2) (lens : List (BitVec 4))
  | lzTables (lens : List (BitVec 4))
  | ppmHdr (p : Byte) (mem esc : Option Byte)
  | filterTok (t : FilterTok)
  -- filter kinds (R109)
  | fkNone
  | fkE8
  | fkE8E9
  | fkItanium
  | fkDelta
  | fkRgb
  | fkAudio
  deriving DecidableEq, Repr

/-- The `MATCH` of length slot `s` (R90: symbol `263 + s`). -/
def Instr.matchSlot (s e1 d e2 : Nat) : Option Instr :=
  match s with
  | 0 => some (.match0 e1 d e2)
  | 1 => some (.match1 e1 d e2)
  | 2 => some (.match2 e1 d e2)
  | 3 => some (.match3 e1 d e2)
  | 4 => some (.match4 e1 d e2)
  | 5 => some (.match5 e1 d e2)
  | 6 => some (.match6 e1 d e2)
  | 7 => some (.match7 e1 d e2)
  | 8 => some (.match8 e1 d e2)
  | 9 => some (.match9 e1 d e2)
  | 10 => some (.match10 e1 d e2)
  | 11 => some (.match11 e1 d e2)
  | 12 => some (.match12 e1 d e2)
  | 13 => some (.match13 e1 d e2)
  | 14 => some (.match14 e1 d e2)
  | 15 => some (.match15 e1 d e2)
  | 16 => some (.match16 e1 d e2)
  | 17 => some (.match17 e1 d e2)
  | 18 => some (.match18 e1 d e2)
  | 19 => some (.match19 e1 d e2)
  | 20 => some (.match20 e1 d e2)
  | 21 => some (.match21 e1 d e2)
  | 22 => some (.match22 e1 d e2)
  | 23 => some (.match23 e1 d e2)
  | 24 => some (.match24 e1 d e2)
  | 25 => some (.match25 e1 d e2)
  | 26 => some (.match26 e1 d e2)
  | 27 => some (.match27 e1 d e2)
  | _ => none

/-- The `CACHE` of entry `k` (R90: symbol `259 + k`). -/
def Instr.cacheSlot (k s e : Nat) : Option Instr :=
  match k with
  | 0 => some (.cache0 s e)
  | 1 => some (.cache1 s e)
  | 2 => some (.cache2 s e)
  | 3 => some (.cache3 s e)
  | _ => none

/-- The filter kind instruction of a kind. -/
def FilterKind.instr : FilterKind → Instr
  | .none => .fkNone
  | .e8 => .fkE8
  | .e8e9 => .fkE8E9
  | .itanium => .fkItanium
  | .delta => .fkDelta
  | .rgb => .fkRgb
  | .audio => .fkAudio

/-- What, beside its bits, the reading of an instruction depends on: the generation `VER_L` (R90, R180) and the escape
byte of PPM blocks (R102). -/
structure Ctx where
  gen : BitVec 3
  esc : Byte
  deriving DecidableEq, Repr

/-- Where an instruction is fetched from: the three classes of R80 with the formats of the opcode table, the stream
structures each with its own layout. -/
inductive Slot where
  | cmd
  | lz (gen : BitVec 3)
  | aud
  | ppm (esc : Byte)
  | ppmOnly
  | hdr
  | len
  | audioTables
  | lzTables
  | ppmHdr
  | filterTok
  | fkind
  deriving DecidableEq, Repr

/-- `LD` symbol 257 is `FILTER` and 258 is `REPEAT` under G4 only (R90). -/
def isG4 (g : BitVec 3) : Bool := g == 3

/-- `CACHE k` is live iff `k < CACHE_N[g]` (R90). -/
def cacheLive (g : BitVec 3) (k : Nat) : Bool := decide (k < Config.cacheN g)

end Sys2Proof
end

