-- ==== Sys2Proof/WellFormed.lean ====
section
/-! DEFINITION. Which instructions a stream, a command word or a filter tag can hold: every operand field within the
range its encoding gives it (spec/30_encoding.md). -/

namespace Sys2Proof

/-- The register numbers a filter token's `MASK` names, ascending (R107; bit 7 is ignored). -/
def maskRegs (mask : Byte) : List Nat := (List.range 7).filter fun i => mask.getLsbD i

/-- R107: `MASK` and register values are there iff `HASREGS` (bit 6 of `F0`), one value per set bit 0..6; a program is
there only with `NEWPROG` (bit 7), its length a 16-bit field. -/
def FilterTok.wf (t : FilterTok) : Bool :=
  (t.f0.getLsbD 6 || t.mask == 0) && t.regs.length == (maskRegs t.mask).length &&
  (t.f0.getLsbD 7 || t.prog.isEmpty) && decide (t.prog.length < 65536)

/-- R97: a `MATCH` of slot `s` has `LBITS[s]` extra length bits, a distance symbol below 48 and its `DBITS` extra bits. -/
def matchWf (s e1 d e2 : Nat) : Bool :=
  decide (e1 < 2 ^ Config.lbits s) && decide (d < Config.dc) && decide (e2 < 2 ^ Config.dbits d)

/-- R97: a `CACHE` has a repeat-length symbol below 28 and its `LBITS` extra bits. -/
def cacheWf (s e : Nat) : Bool := decide (s < Config.rc) && decide (e < 2 ^ Config.lbits s)

/-- R84: one to three `SIZE` bytes as `SIZEBYTES1` says; none with the reserved value 3 (R85: none is read). -/
def hdrWf (flags : Byte) (size : List Byte) : Bool :=
  if flags.extractLsb' 3 2 = 3 then size.isEmpty else size.length == (flags.extractLsb' 3 2).toNat + 1

/-- Well-formedness of an instruction read in context `c`. -/
def Instr.wf (c : Ctx) : Instr → Bool
  | .filter t => if isG4 c.gen then t.wf else t == FilterTok.zero
  | .cache0 s e | .cache1 s e | .cache2 s e => cacheWf s e
  | .cache3 s e => if cacheLive c.gen 3 then cacheWf s e else s == 0 && e == 0
  | .match0 e1 d e2 => matchWf 0 e1 d e2
  | .match1 e1 d e2 => matchWf 1 e1 d e2
  | .match2 e1 d e2 => matchWf 2 e1 d e2
  | .match3 e1 d e2 => matchWf 3 e1 d e2
  | .match4 e1 d e2 => matchWf 4 e1 d e2
  | .match5 e1 d e2 => matchWf 5 e1 d e2
  | .match6 e1 d e2 => matchWf 6 e1 d e2
  | .match7 e1 d e2 => matchWf 7 e1 d e2
  | .match8 e1 d e2 => matchWf 8 e1 d e2
  | .match9 e1 d e2 => matchWf 9 e1 d e2
  | .match10 e1 d e2 => matchWf 10 e1 d e2
  | .match11 e1 d e2 => matchWf 11 e1 d e2
  | .match12 e1 d e2 => matchWf 12 e1 d e2
  | .match13 e1 d e2 => matchWf 13 e1 d e2
  | .match14 e1 d e2 => matchWf 14 e1 d e2
  | .match15 e1 d e2 => matchWf 15 e1 d e2
  | .match16 e1 d e2 => matchWf 16 e1 d e2
  | .match17 e1 d e2 => matchWf 17 e1 d e2
  | .match18 e1 d e2 => matchWf 18 e1 d e2
  | .match19 e1 d e2 => matchWf 19 e1 d e2
  | .match20 e1 d e2 => matchWf 20 e1 d e2
  | .match21 e1 d e2 => matchWf 21 e1 d e2
  | .match22 e1 d e2 => matchWf 22 e1 d e2
  | .match23 e1 d e2 => matchWf 23 e1 d e2
  | .match24 e1 d e2 => matchWf 24 e1 d e2
  | .match25 e1 d e2 => matchWf 25 e1 d e2
  | .match26 e1 d e2 => matchWf 26 e1 d e2
  | .match27 e1 d e2 => matchWf 27 e1 d e2
  | .ppmLit s => s != c.esc                                         -- R102: ESC introduces a command
  | .ppmFilter t => t.wf
  | .ppmReserved b => b == 0 || decide (5 ≤ b.toNat)                -- R102
  | .hdr flags _ size => hdrWf flags size
  | .lenV v => v != 15                                              -- R88
  | .lenZrun z => z != 0                                            -- R88
  | .audioTables ch1 lens => lens.length == Config.mc * (ch1.toNat + 1)          -- R89
  | .lzTables lens => lens.length == Config.nc + Config.dc + Config.rc           -- R89
  | .ppmHdr p mem esc => mem.isSome == p.getLsbD 7 && esc.isSome == p.getLsbD 6  -- R101
  | .filterTok t => t.wf
  | .nop | .reset | .start | .cancel | .bcAttach | .bcPeek _ | .bcConsume _ | .bcRefill | .bcAlign | .bcExhausted
  | .hufSetlen _ _ | .hufBuild _ _ | .hufDecode _ | .winPut _ | .winCopy _ _ | .winRead _ | .winFlush | .winStat
  | .winInit | .ppmInit _ _ | .ppmDecode | .saAlloc _ | .saFree _ _ | .rcInit | .saInit _ | .fvLoad _ _
  | .fvSetreg _ _ | .fvExec _ _ | .fvRead _ | .fvIdent _ => true
  | .lit _ | .end00 | .end01 | .end10 | .end11 | .repeatLast => true
  | .audDelta _ | .audEnd00 | .audEnd01 | .audEnd10 | .audEnd11 => true
  | .ppmLitesc | .ppmNewfile | .ppmMatch _ _ _ _ | .ppmonlyByte _ | .len15 => true
  | .fkNone | .fkE8 | .fkE8E9 | .fkItanium | .fkDelta | .fkRgb | .fkAudio => true

end Sys2Proof
end

