-- ==== Sys2Proof/Decode.lean ====
section
/-! DEFINITION. Decoding and encoding (spec/30_encoding.md). An instruction of this hardware is a sequence of FIELDS: raw
bits, code words that stand for a symbol, bytes that come out of the PPM model (R80). A grammar (`Parse`) says which
fields an instruction has and which instruction their values make. `decode` runs a grammar over the fields' values written
out as bits, first bit most significant (spec/00_scope.md R14, spec/20_memory.md R54), a symbol by its value as the keys of
spec/opcode_table.json write it; Machine/Fetch.lean runs the same grammar over the machine's stream. -/

namespace Sys2Proof

/-! ### Bits and numbers -/

/-- The low `n` bits of `v`, the most significant first (R54). -/
def natToBits : Nat → Nat → List Bool
  | 0, _ => []
  | n + 1, v => v.testBit n :: natToBits n v

/-- The number a bit list stands for, the most significant first. -/
def bitsToNat (l : List Bool) : Nat := l.foldl (fun a b => 2 * a + b.toNat) 0

/-- A byte from a number below 256. -/
def toByte (n : Nat) : Byte := BitVec.ofNat 8 n

/-- A 32-bit word from a number below `2^32`. -/
def toWord (n : Nat) : Word := BitVec.ofNat 32 n

/-! ### Fields and grammars -/

/-- One field of an instruction: `n` raw bits (`getbits(n)`), a symbol of an alphabet, or a PPM-decoded byte. -/
inductive Field where
  | raw (n : Nat)
  | ld | dd | rd
  | md
  | ppm
  deriving DecidableEq, Repr

/-- Width of the field written out as a number: a symbol by its value in as many bits as its alphabet needs. -/
def Field.width : Field → Nat
  | .raw n => n
  | .ld | .md => 9
  | .dd => 6
  | .rd => 5
  | .ppm => 8

/-- A byte of the stream: `getbyte()` is `getbits(8)` (spec/40_bitcursor.md R127). -/
def Field.byte : Field := .raw 8

/-- Why no instruction was read. -/
inductive Reject where
  /-- fewer bits than the instruction has -/
  | short
  /-- a command `op` that R83 does not list -/
  | unknownOp (op : Nat)
  /-- a symbol outside the alphabet `LD`, 0..290 -/
  | ldRange (sym : Nat)
  /-- a symbol outside the alphabet `DD`, 0..47 -/
  | ddRange (sym : Nat)
  /-- a symbol outside the alphabet `RD`, 0..27 -/
  | rdRange (sym : Nat)
  /-- a symbol outside an audio alphabet, 0..256 -/
  | mdRange (sym : Nat)
  /-- filter kind tag 7, "never produced" (R109) -/
  | kindRange (tag : Nat)
  deriving DecidableEq, Repr

/-- A grammar: the fields to read and what they make. -/
inductive Parse (α : Type) where
  | ret (a : α)
  | fail (r : Reject)
  | field (f : Field) (k : Nat → Parse α)

/-- A number of `n` bytes, little-endian (R98), each byte one field `f`. -/
def Parse.le {α : Type} (f : Field) : Nat → (Nat → Parse α) → Parse α
  | 0, k => k 0
  | n + 1, k => .field f fun b => Parse.le f n fun v => k (b + 256 * v)

/-- `n` bytes, each one field `f`. -/
def Parse.bytes {α : Type} (f : Field) : Nat → (List Byte → Parse α) → Parse α
  | 0, k => k []
  | n + 1, k => .field f fun b => Parse.bytes f n fun l => k (toByte b :: l)

/-- `n` 32-bit little-endian values of bytes `f`. -/
def Parse.words {α : Type} (f : Field) : Nat → (List Word → Parse α) → Parse α
  | 0, k => k []
  | n + 1, k => Parse.le f 4 fun w => Parse.words f n fun l => k (toWord w :: l)

/-! ### Host commands (R81, R83) -/

/-- The command of an `op`, with the operands it uses (R83). -/
def commandOf (op : Nat) (a b : Word) : Option Instr :=
  match op with
  | 0x00 => some .nop
  | 0x01 => some .reset
  | 0x02 => some .start
  | 0x03 => some .cancel
  | 0x10 => some .bcAttach
  | 0x11 => some (.bcPeek a)
  | 0x12 => some (.bcConsume a)
  | 0x13 => some .bcRefill
  | 0x14 => some .bcAlign
  | 0x15 => some .bcExhausted
  | 0x20 => some (.hufSetlen a b)
  | 0x21 => some (.hufBuild a b)
  | 0x22 => some (.hufDecode a)
  | 0x30 => some (.winPut a)
  | 0x31 => some (.winCopy a b)
  | 0x32 => some (.winRead a)
  | 0x33 => some .winFlush
  | 0x34 => some .winStat
  | 0x35 => some .winInit
  | 0x40 => some (.ppmInit a b)
  | 0x41 => some .ppmDecode
  | 0x42 => some (.saAlloc a)
  | 0x43 => some (.saFree a b)
  | 0x44 => some .rcInit
  | 0x45 => some (.saInit a)
  | 0x50 => some (.fvLoad a b)
  | 0x51 => some (.fvSetreg a b)
  | 0x52 => some (.fvExec a b)
  | 0x53 => some (.fvRead a)
  | 0x54 => some (.fvIdent a)
  | _ => none

/-- A command word: `op` in bits 71..64, `a` in 63..32, `b` in 31..0 (R81). -/
def parseCmd : Parse Instr :=
  .field (.raw 8) fun op => .field (.raw 32) fun a => .field (.raw 32) fun b =>
    match commandOf op (toWord a) (toWord b) with
    | some i => .ret i
    | none => .fail (.unknownOp op)

/-! ### Filter tokens (R107) -/

/-- A filter token whose bytes are fields `f`: `getbyte()` in an LZ block, a PPM-decoded byte in a PPM block. -/
def parseFilter {α : Type} (f : Field) (k : FilterTok → Parse α) : Parse α :=
  .field f fun f0 =>
  Parse.le f 4 fun start =>
  Parse.le f 3 fun len =>
  let rest (mask : Byte) (regs : List Word) : Parse α :=
    if (toByte f0).getLsbD 7 then
      Parse.le f 2 fun plen => Parse.bytes f plen fun prog =>
        k ⟨toByte f0, toWord start, BitVec.ofNat 24 len, mask, regs, prog⟩
    else k ⟨toByte f0, toWord start, BitVec.ofNat 24 len, mask, regs, []⟩
  if (toByte f0).getLsbD 6 then
    .field f fun mask =>
      Parse.words f (maskRegs (toByte mask)).length fun regs => rest (toByte mask) regs
  else rest 0 []

/-! ### LZ, audio and PPM tokens -/

/-- `END` after symbol 256: the first flag bit is `NEWFILE`, the second `NEWTABLE` (R92). -/
def parseEnd (e00 e01 e10 e11 : Instr) : Parse Instr :=
  .field (.raw 2) fun f =>
    .ret (if f = 0 then e00 else if f = 1 then e01 else if f = 2 then e10 else e11)

/-- `CACHE k` (R97): `s = decode(RD)`, `e = getbits(LBITS[s])`. -/
def parseCache (k : Nat) : Parse Instr :=
  .field .rd fun s =>
    if s < Config.rc then
      .field (.raw (Config.lbits s)) fun e =>
        match Instr.cacheSlot k s e with
        | some i => .ret i
        | none => .fail (.ldRange (259 + k))
    else .fail (.rdRange s)

/-- `MATCH s` (R97): `e1 = getbits(LBITS[s])`, `d = decode(DD)`, `e2 = getbits(DBITS[d])`. -/
def parseMatch (s : Nat) : Parse Instr :=
  .field (.raw (Config.lbits s)) fun e1 =>
  .field .dd fun d =>
    if d < Config.dc then
      .field (.raw (Config.dbits d)) fun e2 =>
        match Instr.matchSlot s e1 d e2 with
        | some i => .ret i
        | none => .fail (.ldRange (263 + s))
    else .fail (.ddRange d)

/-- The rest of an LZ token after its symbol (R90); a symbol the generation reserves has no further field (R209). -/
def parseLzRest (g : BitVec 3) (sym : Nat) : Parse Instr :=
  if sym < Config.litLimit then .ret (.lit (toByte sym))
  else if sym = 256 then parseEnd .end00 .end01 .end10 .end11
  else if sym = 257 then
    if isG4 g then parseFilter .byte fun t => .ret (.filter t) else .ret (.filter .zero)
  else if sym = 258 then .ret .repeatLast
  else if sym < Config.thresh then
    if cacheLive g (sym - 259) then parseCache (sym - 259)
    else match Instr.cacheSlot (sym - 259) 0 0 with
      | some i => .ret i
      | none => .fail (.ldRange sym)
  else if sym < Config.nc then parseMatch (sym - Config.thresh)
  else .fail (.ldRange sym)

/-- One LZ token (R90, spec/43_tokens.md R199). -/
def parseLz (g : BitVec 3) : Parse Instr := .field .ld (parseLzRest g)

/-- One audio token (R100). -/
def parseAud : Parse Instr :=
  .field .md fun sym =>
    if sym < 256 then .ret (.audDelta (toByte sym))
    else if sym = 256 then parseEnd .audEnd00 .audEnd01 .audEnd10 .audEnd11
    else .fail (.mdRange sym)

/-- One token of a PPM block (R102, R106). -/
def parsePpm (esc : Byte) : Parse Instr :=
  .field .ppm fun s =>
    if toByte s ≠ esc then .ret (.ppmLit (toByte s))
    else .field .ppm fun c =>
      if c = 1 then .ret .ppmLitesc
      else if c = 2 then .ret .ppmNewfile
      else if c = 3 then parseFilter .ppm fun t => .ret (.ppmFilter t)
      else if c = 4 then
        .field .ppm fun d2 => .field .ppm fun d1 => .field .ppm fun d0 => .field .ppm fun l =>
          .ret (.ppmMatch (toByte d2) (toByte d1) (toByte d0) (toByte l))
      else .ret (.ppmReserved (toByte c))

/-- One token of a PPM_ONLY stream (R114). -/
def parsePpmOnly : Parse Instr := .field .ppm fun s => .ret (.ppmonlyByte (toByte s))

/-! ### Stream structures -/

/-- A block header (R84); with `SIZEBYTES1 = 3` no `SIZE` byte is read (R85). -/
def parseHdr : Parse Instr :=
  .field .byte fun flags => .field .byte fun chk =>
    let n := ((toByte flags).extractLsb' 3 2).toNat
    if n = 3 then .ret (.hdr (toByte flags) (toByte chk) [])
    else Parse.bytes .byte (n + 1) fun size => .ret (.hdr (toByte flags) (toByte chk) size)

/-- One entry of a length sequence (R88). -/
def parseLen : Parse Instr :=
  .field (.raw 4) fun v =>
    if v < 15 then .ret (.lenV (BitVec.ofNat 4 v))
    else .field (.raw 4) fun z =>
      if z = 0 then .ret .len15 else .ret (.lenZrun (BitVec.ofNat 4 z))

/-- `read_lengths` (R88): `n` lengths are still to come; every round of the loop makes at least one, so `fuel = n`
rounds are enough. -/
def parseLens {α : Type} : (fuel n : Nat) → (List (BitVec 4) → Parse α) → Parse α
  | 0, _, k => k []
  | fuel + 1, n, k =>
    if n = 0 then k []
    else .field (.raw 4) fun v =>
      if v < 15 then parseLens fuel (n - 1) fun l => k (BitVec.ofNat 4 v :: l)
      else .field (.raw 4) fun z =>
        if z = 0 then parseLens fuel (n - 1) fun l => k (15 :: l)
        else parseLens fuel (n - min (z + 2) n) fun l => k (List.replicate (min (z + 2) n) 0 ++ l)

/-- An LZ table set: 367 lengths (R89). -/
def parseLzTables : Parse Instr :=
  parseLens (Config.nc + Config.dc + Config.rc) (Config.nc + Config.dc + Config.rc) fun l => .ret (.lzTables l)

/-- An audio table set: the channel count minus 1, then 257 lengths for each channel (R89). -/
def parseAudioTables : Parse Instr :=
  .field (.raw 2) fun ch1 =>
    parseLens (Config.mc * (ch1 + 1)) (Config.mc * (ch1 + 1)) fun l => .ret (.audioTables (BitVec.ofNat 2 ch1) l)

/-- A PPM sub-header (R101). -/
def parsePpmHdr : Parse Instr :=
  .field .byte fun p =>
    let rest (mem : Option Byte) : Parse Instr :=
      if (toByte p).getLsbD 6 then .field .byte fun e => .ret (.ppmHdr (toByte p) mem (some (toByte e)))
      else .ret (.ppmHdr (toByte p) mem none)
    if (toByte p).getLsbD 7 then .field .byte fun m => rest (some (toByte m)) else rest none

/-- The filter kind of a tag (R109); 7 is none. -/
def FilterKind.ofTag (n : Nat) : Option FilterKind :=
  match n with
  | 0 => some .none
  | 1 => some .e8
  | 2 => some .e8e9
  | 3 => some .itanium
  | 4 => some .delta
  | 5 => some .rgb
  | 6 => some .audio
  | _ => Option.none

/-- A filter kind tag (R109). -/
def parseKind : Parse Instr :=
  .field (.raw 3) fun n =>
    match FilterKind.ofTag n with
    | some kd => .ret kd.instr
    | Option.none => .fail (.kindRange n)

/-- The grammar of each place instructions come from. -/
def Slot.grammar : Slot → Parse Instr
  | .cmd => parseCmd
  | .lz g => parseLz g
  | .aud => parseAud
  | .ppm esc => parsePpm esc
  | .ppmOnly => parsePpmOnly
  | .hdr => parseHdr
  | .len => parseLen
  | .audioTables => parseAudioTables
  | .lzTables => parseLzTables
  | .ppmHdr => parsePpmHdr
  | .filterTok => parseFilter .byte fun t => .ret (.filterTok t)
  | .fkind => parseKind

/-! ### The decoder -/

/-- Runs a grammar over bits: what it makes and the bits left over. -/
def Parse.runBits {α : Type} : Parse α → List Bool → Except Reject (α × List Bool)
  | .ret a, l => .ok (a, l)
  | .fail r, _ => .error r
  | .field f k, l =>
    if l.length < f.width then .error .short
    else (k (bitsToNat (l.take f.width))).runBits (l.drop f.width)

/-- The instruction at the head of a bit list, and the bits after it; total, rejecting by name. -/
def decode (sl : Slot) (l : List Bool) : Except Reject (Instr × List Bool) := sl.grammar.runBits l

/-- The command a 72-bit command word holds (R81). -/
def decodeCmd (w : BitVec 72) : Except Reject Instr := (decode .cmd (natToBits 72 w.toNat)).map (·.1)

/-! ### The encoder, written from the same tables -/

/-- A command word (R81): `op`, `a`, `b`. -/
def encCmd (op : Nat) (a b : Word) : List Bool :=
  natToBits 8 op ++ natToBits 32 a.toNat ++ natToBits 32 b.toNat

/-- A byte. -/
def encByte (b : Byte) : List Bool := natToBits 8 b.toNat

/-- `n` bytes of a number, the least significant first (R98). -/
def encLe : Nat → Nat → List Bool
  | 0, _ => []
  | n + 1, v => natToBits 8 (v % 256) ++ encLe n (v / 256)

/-- Bytes one after the other. -/
def encBytes (l : List Byte) : List Bool := l.flatMap encByte

/-- A filter token (R107). -/
def encFilter (t : FilterTok) : List Bool :=
  encByte t.f0 ++ encLe 4 t.start.toNat ++ encLe 3 t.len.toNat ++
  (if t.f0.getLsbD 6 then encByte t.mask ++ t.regs.flatMap (fun r => encLe 4 r.toNat) else []) ++
  (if t.f0.getLsbD 7 then encLe 2 t.prog.length ++ encBytes t.prog else [])

/-- An `LD` symbol by its value. -/
def encLd (sym : Nat) : List Bool := natToBits 9 sym

/-- `CACHE k` (R97), or its symbol alone where the generation reserves it (R209). -/
def encCache (c : Ctx) (k s e : Nat) : List Bool :=
  encLd (259 + k) ++ (if cacheLive c.gen k then natToBits 5 s ++ natToBits (Config.lbits s) e else [])

/-- `MATCH s` (R97). -/
def encMatch (s e1 d e2 : Nat) : List Bool :=
  encLd (263 + s) ++ natToBits (Config.lbits s) e1 ++ natToBits 6 d ++ natToBits (Config.dbits d) e2

/-- A sequence of lengths (R88), each length its own entry: `v < 15` in 4 bits, 15 as `15, 0`. -/
def encLens (l : List (BitVec 4)) : List Bool :=
  l.flatMap fun v => if v = 15 then natToBits 4 15 ++ natToBits 4 0 else natToBits 4 v.toNat

/-- The bits of a well-formed instruction read in context `c`. -/
def encode (c : Ctx) : Instr → List Bool
  | .nop => encCmd 0x00 0 0
  | .reset => encCmd 0x01 0 0
  | .start => encCmd 0x02 0 0
  | .cancel => encCmd 0x03 0 0
  | .bcAttach => encCmd 0x10 0 0
  | .bcPeek n => encCmd 0x11 n 0
  | .bcConsume n => encCmd 0x12 n 0
  | .bcRefill => encCmd 0x13 0 0
  | .bcAlign => encCmd 0x14 0 0
  | .bcExhausted => encCmd 0x15 0 0
  | .hufSetlen i l => encCmd 0x20 i l
  | .hufBuild t n => encCmd 0x21 t n
  | .hufDecode t => encCmd 0x22 t 0
  | .winPut b => encCmd 0x30 b 0
  | .winCopy d l => encCmd 0x31 d l
  | .winRead i => encCmd 0x32 i 0
  | .winFlush => encCmd 0x33 0 0
  | .winStat => encCmd 0x34 0 0
  | .winInit => encCmd 0x35 0 0
  | .ppmInit o n => encCmd 0x40 o n
  | .ppmDecode => encCmd 0x41 0 0
  | .saAlloc n => encCmd 0x42 n 0
  | .saFree i n => encCmd 0x43 i n
  | .rcInit => encCmd 0x44 0 0
  | .saInit u => encCmd 0x45 u 0
  | .fvLoad o b => encCmd 0x50 o b
  | .fvSetreg r v => encCmd 0x51 r v
  | .fvExec k n => encCmd 0x52 k n
  | .fvRead o => encCmd 0x53 o 0
  | .fvIdent n => encCmd 0x54 n 0
  | .lit b => encLd b.toNat
  | .end00 => encLd 256 ++ natToBits 2 0
  | .end01 => encLd 256 ++ natToBits 2 1
  | .end10 => encLd 256 ++ natToBits 2 2
  | .end11 => encLd 256 ++ natToBits 2 3
  | .filter t => encLd 257 ++ (if isG4 c.gen then encFilter t else [])
  | .repeatLast => encLd 258
  | .cache0 s e => encCache c 0 s e
  | .cache1 s e => encCache c 1 s e
  | .cache2 s e => encCache c 2 s e
  | .cache3 s e => encCache c 3 s e
  | .match0 e1 d e2 => encMatch 0 e1 d e2
  | .match1 e1 d e2 => encMatch 1 e1 d e2
  | .match2 e1 d e2 => encMatch 2 e1 d e2
  | .match3 e1 d e2 => encMatch 3 e1 d e2
  | .match4 e1 d e2 => encMatch 4 e1 d e2
  | .match5 e1 d e2 => encMatch 5 e1 d e2
  | .match6 e1 d e2 => encMatch 6 e1 d e2
  | .match7 e1 d e2 => encMatch 7 e1 d e2
  | .match8 e1 d e2 => encMatch 8 e1 d e2
  | .match9 e1 d e2 => encMatch 9 e1 d e2
  | .match10 e1 d e2 => encMatch 10 e1 d e2
  | .match11 e1 d e2 => encMatch 11 e1 d e2
  | .match12 e1 d e2 => encMatch 12 e1 d e2
  | .match13 e1 d e2 => encMatch 13 e1 d e2
  | .match14 e1 d e2 => encMatch 14 e1 d e2
  | .match15 e1 d e2 => encMatch 15 e1 d e2
  | .match16 e1 d e2 => encMatch 16 e1 d e2
  | .match17 e1 d e2 => encMatch 17 e1 d e2
  | .match18 e1 d e2 => encMatch 18 e1 d e2
  | .match19 e1 d e2 => encMatch 19 e1 d e2
  | .match20 e1 d e2 => encMatch 20 e1 d e2
  | .match21 e1 d e2 => encMatch 21 e1 d e2
  | .match22 e1 d e2 => encMatch 22 e1 d e2
  | .match23 e1 d e2 => encMatch 23 e1 d e2
  | .match24 e1 d e2 => encMatch 24 e1 d e2
  | .match25 e1 d e2 => encMatch 25 e1 d e2
  | .match26 e1 d e2 => encMatch 26 e1 d e2
  | .match27 e1 d e2 => encMatch 27 e1 d e2
  | .audDelta d => natToBits 9 d.toNat
  | .audEnd00 => natToBits 9 256 ++ natToBits 2 0
  | .audEnd01 => natToBits 9 256 ++ natToBits 2 1
  | .audEnd10 => natToBits 9 256 ++ natToBits 2 2
  | .audEnd11 => natToBits 9 256 ++ natToBits 2 3
  | .ppmLit s => encByte s
  | .ppmLitesc => encByte c.esc ++ encByte 1
  | .ppmNewfile => encByte c.esc ++ encByte 2
  | .ppmFilter t => encByte c.esc ++ encByte 3 ++ encFilter t
  | .ppmMatch d2 d1 d0 l => encByte c.esc ++ encByte 4 ++ encByte d2 ++ encByte d1 ++ encByte d0 ++ encByte l
  | .ppmReserved b => encByte c.esc ++ encByte b
  | .ppmonlyByte s => encByte s
  | .hdr flags chk size => encByte flags ++ encByte chk ++ encBytes size
  | .lenV v => natToBits 4 v.toNat
  | .len15 => natToBits 4 15 ++ natToBits 4 0
  | .lenZrun z => natToBits 4 15 ++ natToBits 4 z.toNat
  | .audioTables ch1 lens => natToBits 2 ch1.toNat ++ encLens lens
  | .lzTables lens => encLens lens
  | .ppmHdr p mem esc => encByte p ++ encBytes mem.toList ++ encBytes esc.toList
  | .filterTok t => encFilter t
  | .fkNone => natToBits 3 0
  | .fkE8 => natToBits 3 1
  | .fkE8E9 => natToBits 3 2
  | .fkItanium => natToBits 3 3
  | .fkDelta => natToBits 3 4
  | .fkRgb => natToBits 3 5
  | .fkAudio => natToBits 3 6

/-- Where an instruction is read from, in context `c`. -/
def slotOf (c : Ctx) : Instr → Slot
  | .nop | .reset | .start | .cancel | .bcAttach | .bcPeek _ | .bcConsume _ | .bcRefill | .bcAlign | .bcExhausted
  | .hufSetlen _ _ | .hufBuild _ _ | .hufDecode _ | .winPut _ | .winCopy _ _ | .winRead _ | .winFlush | .winStat
  | .winInit | .ppmInit _ _ | .ppmDecode | .saAlloc _ | .saFree _ _ | .rcInit | .saInit _ | .fvLoad _ _
  | .fvSetreg _ _ | .fvExec _ _ | .fvRead _ | .fvIdent _ => .cmd
  | .lit _ | .end00 | .end01 | .end10 | .end11 | .filter _ | .repeatLast => .lz c.gen
  | .cache0 _ _ | .cache1 _ _ | .cache2 _ _ | .cache3 _ _ => .lz c.gen
  | .match0 _ _ _ | .match1 _ _ _ | .match2 _ _ _ | .match3 _ _ _ | .match4 _ _ _ | .match5 _ _ _ | .match6 _ _ _
  | .match7 _ _ _ | .match8 _ _ _ | .match9 _ _ _ | .match10 _ _ _ | .match11 _ _ _ | .match12 _ _ _
  | .match13 _ _ _ | .match14 _ _ _ | .match15 _ _ _ | .match16 _ _ _ | .match17 _ _ _ | .match18 _ _ _
  | .match19 _ _ _ | .match20 _ _ _ | .match21 _ _ _ | .match22 _ _ _ | .match23 _ _ _ | .match24 _ _ _
  | .match25 _ _ _ | .match26 _ _ _ | .match27 _ _ _ => .lz c.gen
  | .audDelta _ | .audEnd00 | .audEnd01 | .audEnd10 | .audEnd11 => .aud
  | .ppmLit _ | .ppmLitesc | .ppmNewfile | .ppmFilter _ | .ppmMatch _ _ _ _ | .ppmReserved _ => .ppm c.esc
  | .ppmonlyByte _ => .ppmOnly
  | .hdr _ _ _ => .hdr
  | .lenV _ | .len15 | .lenZrun _ => .len
  | .audioTables _ _ => .audioTables
  | .lzTables _ => .lzTables
  | .ppmHdr _ _ _ => .ppmHdr
  | .filterTok _ => .filterTok
  | .fkNone | .fkE8 | .fkE8E9 | .fkItanium | .fkDelta | .fkRgb | .fkAudio => .fkind

/-! ### The words of the opcode table -/

/-- The instruction of `nbits` bits of the opcode table holding `w` (log entry 20). 72 bits are a command word. 16 bits
hold the key of an LZ row: the 9-bit `LD` symbol, or for `END` the symbol and its two flag bits; its operand fields are
zeros. 8 bits hold a filter kind tag, a length entry or a length entry of two nibbles. -/
def decodeTableWord (nbits w : Nat) : Option Instr :=
  let read (sl : Slot) (l : List Bool) : Option Instr :=
    match decode sl l with
    | .ok (i, _) => some i
    | .error _ => none
  if nbits = 72 then read .cmd (natToBits 72 w)
  else if nbits = 16 then
    if w / 4 = 256 then read (.lz 3) (natToBits 11 w)
    else if w < Config.nc ∧ w ≠ 256 then read (.lz 3) (natToBits 9 w ++ List.replicate 64 false)
    else none
  else if nbits = 8 then
    if w < 7 then read .fkind (natToBits 3 w)
    else if w < 15 then read .len (natToBits 4 w)
    else if 240 ≤ w ∧ w < 256 then read .len (natToBits 8 w)
    else none
  else none

end Sys2Proof
end

