-- ==== Sys2Proof/Machine/Operands.lean ====
section
/-! DEFINITION. The operand forms of stream tokens (spec/30_encoding.md R95 to R98, R106, R107): how fields make lengths,
distances, filter registers and header values; the distance cache (spec/43_tokens.md R207, R208); and how one field is read
from the machine's stream. -/

namespace Sys2Proof.Machine

/-! ### Lengths and distances -/

/-- `MATCH s`: `length = LBASE[s] + e1 + MIN_MATCH` (R97). -/
def matchLength (s e1 : Nat) : Nat := Config.lbase s + e1 + Config.minMatch

/-- `CACHE k`: `length = LBASE[s] + e + MIN_REP` (R97). -/
def cacheLength (s e : Nat) : Nat := Config.lbase s + e + Config.minRep

/-- `distance = DBASE[d] + e2 + 1` (R97). -/
def matchDistance (d e2 : Nat) : Nat := Config.dbase d + e2 + 1

/-- `PPM.MATCH`: the big-endian distance minus 1 (R106). -/
def ppmDistance (d2 d1 d0 : Byte) : Nat := 65536 * d2.toNat + 256 * d1.toNat + d0.toNat + 1

/-! ### The distance cache -/

/-- Entry `k` of `CACHE`. -/
def TokenState.cacheAt (t : TokenState) (k : Nat) : Word := (t.cache[k]?).getD 0

/-- `CACHE` with `d` at the front and entries `0..n-2` moved back by one; the entries from `n` on stay. -/
def TokenState.pushFront (t : TokenState) (n : Nat) (d : Word) : TokenState :=
  { t with cache := Vector.ofFn fun j => if j.val = 0 then d else if j.val < n then t.cacheAt (j.val - 1) else t.cacheAt j.val }

/-- Entry `k` moved to the front (R207). -/
def TokenState.moveToFront (t : TokenState) (k : Nat) : TokenState := t.pushFront (k + 1) (t.cacheAt k)

/-- `LAST_LEN` and `LAST_DIST`. -/
def TokenState.setLast (t : TokenState) (n : Nat) (d : Word) : TokenState :=
  { t with lastLen := BitVec.ofNat 16 n, lastDist := d }

/-! ### Filter tokens -/

/-- The register values a filter token gives: 0 where it gives none; `R7` cannot be given (R107,
spec/47_filtervm.md R317). -/
def tokenRegs (t : FilterTok) : VmRegs :=
  ((maskRegs t.mask).zip t.regs).foldl (fun r p => r.setIfInBounds p.1 p.2) (Vector.replicate Config.vmNregs 0)

/-- `SLOT` (R107). -/
def tokenSlot (t : FilterTok) : Nat := (t.f0.extractLsb' 0 4).toNat

/-- Whether `NEWPROG` is set (R107). -/
def tokenNewProg (t : FilterTok) : Bool := t.f0.getLsbD 7

/-- The program part of `read_filter` (spec/47_filtervm.md R312): `STORE[slot]` and the event of a bad program. -/
def State.storeProgram (s : State) (t : FilterTok) : State :=
  if tokenNewProg t then
    let r := identify s.catalogue t.prog
    (s.setVm { s.vm with store := s.vm.store.setIfInBounds (tokenSlot t) (some r.1) }).noteIf r.2 .badProgram
  else s

/-- The kind of `STORE[i]`, `NONE` while it is not valid (spec/47_filtervm.md R316). -/
def FilterVm.kindAt (v : FilterVm) (i : Nat) : FilterKind := ((v.store[i]?).getD none).getD .none

/-- The effect of `read_filter` (spec/47_filtervm.md R312) once the token's bytes are read. -/
def State.registerFilter (s : State) (t : FilterTok) : State :=
  let s1 := s.storeProgram t
  if t.len = 0 ∨ Config.filterMem < t.len.toNat ∨ Config.fqMax ≤ s1.vm.fq.length then s1.note .filterDropped
  else
    s1.setVm { s1.vm with
      fq := s1.vm.fq ++ [⟨s1.win.tw + t.start.toNat, t.len.toNat, s1.vm.kindAt (tokenSlot t), tokenRegs t, true⟩] }

/-! ### Block headers -/

/-- `SIZE`, little-endian (R84). -/
def sizeValue : List Byte → Nat
  | [] => 0
  | b :: t => b.toNat + 256 * sizeValue t

/-- The check byte a header must have (R85). -/
def hdrCheck (flags : Byte) (size : List Byte) : Byte := size.foldl (· ^^^ ·) (0x5A ^^^ flags)

/-- The payload length in bits (R86). -/
def payloadBits (flags : Byte) (size : Nat) : Nat :=
  if size = 0 then 0 else 8 * (size - 1) + (flags.extractLsb' 0 3).toNat + 1

/-! ### Reading one field -/

/-- `decode(T)` on the machine, `T` of an alphabet of `n` symbols, with the event of a clamped position (spec/41_huffman.md R147,
R148). -/
def decodeTable (t : HuffTable) (n : Nat) : M Nat := do
  let r ← onCur (t.decode n)
  modify (·.noteIf r.2 .clamp)
  return r.1

/-- Whether the latched generation is G1, whose symbols are adaptive ranks (R99). -/
def State.isG1 (s : State) : Bool := s.ses.verL == 0

/-- One `LD` symbol (R99). -/
def decodeLd : M Nat := do
  let s ← get
  if s.isG1 then
    let r ← decodeTable rkLd Config.nc
    let (sym, a) := s.tok.g1Ld.adapt r
    modify fun s => s.setTok { s.tok with g1Ld := a }
    return sym
  else decodeTable s.tabs.ld Config.nc

/-- One `DD` symbol (R99). -/
def decodeDd : M Nat := do
  let s ← get
  if s.isG1 then
    let r ← decodeTable rkDd Config.dc
    let (sym, a) := s.tok.g1Dd.adapt r
    modify fun s => s.setTok { s.tok with g1Dd := a }
    return sym
  else decodeTable s.tabs.dd Config.dc

/-- One `RD` symbol (R99). -/
def decodeRd : M Nat := do
  let s ← get
  if s.isG1 then
    let r ← decodeTable rkRd Config.rc
    let (sym, a) := s.tok.g1Rd.adapt r
    modify fun s => s.setTok { s.tok with g1Rd := a }
    return sym
  else decodeTable s.tabs.rd Config.rc

/-- One audio symbol, from the current channel's table (spec/43_tokens.md R232). -/
def decodeMd : M Nat := do
  let s ← get
  decodeTable s.tabs.md[s.tok.acur] Config.mc

/-- Why the reading of a token is abandoned: what abandons any operation, one of the three results of `ppm_decode` that are no byte
(spec/45_ppm_model.md R264), or a field outside its alphabet. -/
inductive Abort where
  | halt (h : Halt)
  | endSegment
  | corrupt
  | nomem
  | reject (sym : Nat)
  deriving DecidableEq, Repr

/-- The reading of a token. -/
abbrev FetchM := EStateM Abort State

/-- An operation as part of the reading of a token. -/
def reading {α : Type} (x : M α) : FetchM α := fun s =>
  match x s with
  | .ok a s1 => .ok a s1
  | .error h s1 => .error (.halt h) s1

/-- One PPM-decoded byte `B()` (spec/48_session.md R362): a result that is no byte abandons the token. -/
def decodePpmByte : FetchM Nat := do
  match ← reading (onPpm ppmDecode) with
  | .byte b => return b.toNat
  | .endSegment => throw .endSegment
  | .corrupt => throw .corrupt
  | .nomem => throw .nomem

/-- The value of one field of the stream. -/
def readField : Field → FetchM Nat
  | .raw n => reading (onCur (getbits n))
  | .ld => reading decodeLd
  | .dd => reading decodeDd
  | .rd => reading decodeRd
  | .md => reading decodeMd
  | .ppm => decodePpmByte

/-- The symbol a rejection names. -/
def rejectSymbol : Reject → Nat
  | .short => 0
  | .unknownOp n | .ldRange n | .ddRange n | .rdRange n | .mdRange n | .kindRange n => n

/-- Runs a grammar over the machine's stream. Where reading is abandoned at a field, `fix` does, from the values of the
fields before it, what the instruction's rule has done by then (log entry 21). -/
def fetchParse {α : Type} (fix : List Nat → State → State) : Parse α → List Nat → FetchM α
  | .ret a, _ => pure a
  | .fail r, _ => throw (.reject (rejectSymbol r))
  | .field f k, vals => fun s =>
    match readField f s with
    | .ok v s1 => fetchParse fix (k v) (vals ++ [v]) s1
    | .error e s1 => .error e (fix vals s1)

end Sys2Proof.Machine
end

