-- ==== Sys2Proof/Machine/Fetch.lean ====
section
/-! DEFINITION. Fetching the next instruction: a command from the host, or what the loop of spec/48_session.md R356 does
before it executes a header, a table entry or a token: the cancel poll, the boundary checks, the flushes they cause, and the
reading of the instruction's fields. -/

namespace Sys2Proof.Machine

/-- What the fetch gives: an instruction to execute, an iteration that ended without one, or a fault. -/
inductive Fetched where
  | instr (i : Instr) (s : State)
  | done (s : State)
  | fault (f : Fault)
  deriving DecidableEq, Repr

/-! ### Abandoned tokens -/

/-- The corruption fallback (spec/48_session.md R363): the model is discarded, PPM is disabled for the rest of the stream,
and the next header is sought. -/
def fallback : M Unit := do
  modify fun s => (s.setPpm { s.ppm with alloc := false, arena := [], disabled := true }).note .ppmFallback
  flush
  modify (·.setFsm .hdr)

/-- The end of a PPM segment (spec/48_session.md R362). -/
def segmentEnd : M Unit := do
  flush
  modify (·.setFsm .hdr)

/-- The state after an operation, abandoned or not. -/
def settle (x : M Unit) (s : State) : State :=
  match x s with
  | .ok _ s1 => s1
  | .error h s1 => s1.halted h

/-- What an abandoned token leads to (spec/48_session.md R362 to R364, spec/45_ppm_model.md R277). -/
def abandon (e : Abort) (s : State) : Fetched :=
  match e with
  | .halt h => .done (s.halted h)
  | .endSegment => .done (if s.ses.fsm = .ppmonly then s.succeed else settle segmentEnd s)
  | .corrupt => .done (if s.ses.fsm = .ppmonly then s.raiseFatal .corrupt .ppmStream else settle fallback s)
  | .nomem => .done (s.raiseFatal .corrupt .nomem)
  | .reject sym => .fault (.outsideAlphabet sym)

/-! ### The boundary checks -/

/-- `TW - FILE_START ≥ TARGET_L` (R359). -/
def State.targetReached (s : State) : Bool := decide (s.ses.targetL ≤ s.win.tw - s.ses.fileStart)

/-- `raise Fatal(TRUNCATED, 0)`. -/
def truncatedInput {α : Type} : FetchM α := throw (.halt (.fatal ⟨.truncated, .none⟩))

/-- The boundary checks before a token of a Huffman-coded block (R359); false when the iteration ends with them. -/
def blockBoundary : FetchM Bool := do
  let s ← get
  if s.targetReached then
    reading endFile
    return false
  else if ← reading (onCur exhausted) then truncatedInput
  else
    let s ← get
    if s.ses.blockEnd ≤ s.cur.bitpos then
      reading segmentEnd
      return false
    else return true

/-- The boundary checks before a token of a PPM block (R359). -/
def ppmBoundary : FetchM Bool := do
  let s ← get
  if s.targetReached then
    reading endFile
    return false
  else if ← reading (onCur overrun) then truncatedInput
  else return true

/-! ### The fetch in each state of the dispatcher -/

/-- Nothing of the instruction's own effects has happened while it is read. -/
def noEffectYet (_ : List Nat) (s : State) : State := s

/-- A block header (spec/43_tokens.md R182), after the target check (R356). -/
def fetchHdr : FetchM (Option Instr) := do
  let s ← get
  if s.targetReached then
    reading endFile
    return none
  else
    reading (onCur (modify (·.align)))
    if ← reading (onCur exhausted) then truncatedInput
    else some <$> fetchParse noEffectYet Slot.hdr.grammar []

/-- A `CACHE` token moves its entry to the front before it reads its length (spec/43_tokens.md R207). -/
def lzEffectYet (g : BitVec 3) (vals : List Nat) (s : State) : State :=
  match vals with
  | [] => s
  | sym :: _ =>
    if 259 ≤ sym ∧ sym < Config.thresh ∧ cacheLive g (sym - 259) then s.setTok (s.tok.moveToFront (sym - 259)) else s

/-- An LZ token. -/
def fetchLz : FetchM (Option Instr) := do
  if ← blockBoundary then
    reading maybeFlush
    let s ← get
    some <$> fetchParse (lzEffectYet s.ses.verL) (Slot.lz s.ses.verL).grammar []
  else return none

/-- An audio token. -/
def fetchAud : FetchM (Option Instr) := do
  if ← blockBoundary then
    reading maybeFlush
    some <$> fetchParse noEffectYet Slot.aud.grammar []
  else return none

/-- A token of a PPM block. -/
def fetchPpm : FetchM (Option Instr) := do
  if ← ppmBoundary then
    reading maybeFlush
    let s ← get
    some <$> fetchParse noEffectYet (Slot.ppm s.ppm.esc).grammar []
  else return none

/-- One byte of a PPM_ONLY stream (R364). -/
def fetchPpmOnly : FetchM (Option Instr) := do
  let s ← get
  if s.ses.targetL ≤ s.st.written then
    modify (·.succeed)
    return none
  else if ← reading (onCur overrun) then truncatedInput
  else some <$> fetchParse noEffectYet Slot.ppmOnly.grammar []

/-- The arena of a PPM sub-header's `MEM` byte, in units (R361). -/
def ppmUnits (mem : Byte) : Nat := (mem.toNat + 1) * 2 ^ 20 / Config.unitSize

/-- `ppm_create` on the machine. -/
def State.createModel (s : State) (order units : Nat) : State :=
  let r := ppmCreate s.ppm s.sa order units
  (s.setPpm r.1).setSa r.2

/-- The `RESET` part of a sub-header `p` with `MEM = mem` (R361). -/
def State.resetModel (s : State) (p mem : Byte) : State :=
  s.createModel (clampOrder ((p.extractLsb' 0 5).toNat + 1)) (ppmUnits mem)

/-- A sub-header with `RESET` creates the model before it reads the escape byte (R361). -/
def ppmHdrEffectYet (vals : List Nat) (s : State) : State :=
  match vals with
  | [p, mem] => if (toByte p).getLsbD 7 then s.resetModel (toByte p) (toByte mem) else s
  | _ => s

/-- A PPM sub-header. -/
def fetchPpmHdr : FetchM (Option Instr) := some <$> fetchParse ppmHdrEffectYet Slot.ppmHdr.grammar []

/-- The number of lengths of the table set the block calls for (R89). -/
def State.setLens (s : State) (n : Nat) : State := s.setTabs { s.tabs with lenPos := 0, lenTot := n }

/-- `LENBUF[0..n)` as lengths. -/
def Tables.lens (t : Tables) (n : Nat) : List (BitVec 4) := (t.lenbuf.toList.take n).map (·.setWidth 4)

/-- A table set (spec/43_tokens.md R188, R231): opening it, then its length entries one by one (R88), then the set as a
whole, whose lengths `LENBUF` holds. -/
def fetchTables : FetchM (Option Instr) := do
  let s ← get
  if s.tabs.lenTot = 0 then
    if s.ses.hAudio then
      let ch1 ← reading (onCur (getbits 2))
      modify fun s => (s.setTok { s.tok with audioCh := ch1 + 1 }).setLens (Config.mc * (ch1 + 1))
      return none
    else
      set (s.setLens (Config.nc + Config.dc + Config.rc))
      return none
  else if s.tabs.lenPos < s.tabs.lenTot then some <$> fetchParse noEffectYet Slot.len.grammar []
  else if s.ses.hAudio then
    return some (.audioTables (BitVec.ofNat 2 (s.tok.audioCh - 1)) (s.tabs.lens s.tabs.lenTot))
  else return some (.lzTables (s.tabs.lens s.tabs.lenTot))

/-- The fetch of the running CORE. The cancel flag is polled before each header and token (R357), not within a table read
or a sub-header, which are part of their header's iteration (R356). -/
def fetchCore (s : State) : FetchM (Option Instr) :=
  match s.ses.fsm with
  | .idle | .done => pure none
  | .tables => fetchTables
  | .ppmhdr => fetchPpmHdr
  | .hdr | .lz | .aud | .ppm | .ppmonly =>
    if s.par.cancel then do
      modify (·.cancelled)
      return none
    else
      match s.ses.fsm with
      | .lz => fetchLz
      | .aud => fetchAud
      | .ppm => fetchPpm
      | .ppmonly => fetchPpmOnly
      | _ => fetchHdr

/-- One iteration's fetch, with what an abandoned token leads to. -/
def coreFetch (s : State) : Fetched :=
  match fetchCore s s with
  | .ok (some i) s1 => .instr i s1
  | .ok none s1 => .done s1
  | .error e s1 => abandon e s1

/-- An action of the host. A command word that is no command is refused (R82). A port is positioned only while the CORE is
idle (spec/70_reset_and_hazards.md R435, log entry 4). -/
def hostFetch (a : HostAction) (s : State) : Fetched :=
  match a with
  | .cmd w =>
    match decodeCmd w with
    | .ok i => .instr i s
    | .error _ => .done s.refuse
  | .regRead idx => .done (s.regRead idx)
  | .regWrite idx v => .done (s.regWrite idx v)
  | .positionIn reads => .done (if s.isIdle then s.setCur { s.cur with port := reads } else s)
  | .positionOut answers => .done (if s.isIdle then s.setOut { bytes := [], answers := answers } else s)

/-- The next instruction: the host's next action if it is due, else the CORE's (log entry 4). -/
def fetchNext (s : State) : Fetched :=
  match s.host with
  | [] => coreFetch s
  | e :: rest =>
    if e.delay = 0 ∨ s.isIdle then hostFetch e.act (s.setHost rest)
    else coreFetch (s.setHost ({ e with delay := e.delay - 1 } :: rest))

end Sys2Proof.Machine
end

