-- ==== Sys2Proof/Machine/LzTokens.lean ====
section
/-! DEFINITION. The LZ tokens (spec/43_tokens.md R199 to R209). A token's fields have been read when its meaning runs; under
G1 the reading has adapted the statistics (R228). -/

namespace Sys2Proof.Machine

/-- `LIT b` (R200). -/
def execLit (b : Byte) (s : State) : Out := .next (s.put b)

/-- A symbol the generation reserves (R209). -/
def State.reserved (s : State) : State := s.note .reservedToken

/-- `END 00` (R202): flush, then the next header. -/
def execEnd00 (s : State) : Out := runOp segmentEnd s

/-- The statistics of G1 at their reset values (R229). -/
def TokenState.resetStats (t : TokenState) : TokenState :=
  { t with g1Ld := .reset Config.nc, g1Dd := .reset Config.dc, g1Rd := .reset Config.rc }

/-- The beginning of `read_tables()` (R187): under G1 it resets the statistics and is done (R229), else a table set is
read. `next` is the dispatcher's state under G1. -/
def State.readTables (s : State) (next : Fsm) : State :=
  if s.isG1 then (s.setTok s.tok.resetStats).setFsm next else (s.setLens 0).setFsm .tables

/-- `END` with `NEWTABLE` alone (R204). -/
def newTables : M Unit := do
  flush
  modify fun s => s.readTables s.ses.fsm

/-- `END 01` (R204). -/
def execEnd01 (s : State) : Out := runOp newTables s

/-- `END 10` (R203): final flush, the session ends with `SUCCESS`. -/
def execEnd10 (s : State) : Out := runOp endFile s

/-- All tables of the session invalidated (R203). -/
def State.dropTables (s : State) : State := s.setTabs { s.tabs with tablesValid := false, audioValid := false }

/-- `END 11` (R203). -/
def execEnd11 (s : State) : Out := runOp endFile s.dropTables

/-- `FILTER` (R205), reserved outside G4. -/
def execFilter (t : FilterTok) (s : State) : Out :=
  .next (if isG4 s.ses.verL then s.registerFilter t else s.reserved)

/-- `REPEAT` (R206), reserved outside G4; no match yet: nothing. -/
def execRepeat (s : State) : Out :=
  .next (if isG4 s.ses.verL then
      if s.tok.lastLen = 0 then s else s.copyMatch s.tok.lastDist.toNat s.tok.lastLen.toNat
    else s.reserved)

/-- `CACHE k` (R207), reserved where `k ≥ CACHE_N[g]`. -/
def State.cacheToken (s : State) (k l e : Nat) : State :=
  if cacheLive s.ses.verL k then
    let d := s.tok.cacheAt k
    let n := cacheLength l e
    (s.setTok ((s.tok.moveToFront k).setLast n d)).copyMatch d.toNat n
  else s.reserved

/-- `MATCH l` (R208). -/
def State.matchToken (s : State) (l e1 d e2 : Nat) : State :=
  let dist := matchDistance d e2
  let n := matchLength l e1
  (s.setTok ((s.tok.pushFront (Config.cacheN s.ses.verL) (toWord dist)).setLast n (toWord dist))).copyMatch dist n

/-- `CACHE 0` (R207). -/
def execCache0 (l e : Nat) (s : State) : Out := .next (s.cacheToken 0 l e)
/-- `CACHE 1` (R207). -/
def execCache1 (l e : Nat) (s : State) : Out := .next (s.cacheToken 1 l e)
/-- `CACHE 2` (R207). -/
def execCache2 (l e : Nat) (s : State) : Out := .next (s.cacheToken 2 l e)
/-- `CACHE 3` (R207). -/
def execCache3 (l e : Nat) (s : State) : Out := .next (s.cacheToken 3 l e)

/-- `MATCH 0` (R208). -/
def execMatch0 (e1 d e2 : Nat) (s : State) : Out := .next (s.matchToken 0 e1 d e2)
/-- `MATCH 1` (R208). -/
def execMatch1 (e1 d e2 : Nat) (s : State) : Out := .next (s.matchToken 1 e1 d e2)
/-- `MATCH 2` (R208). -/
def execMatch2 (e1 d e2 : Nat) (s : State) : Out := .next (s.matchToken 2 e1 d e2)
/-- `MATCH 3` (R208). -/
def execMatch3 (e1 d e2 : Nat) (s : State) : Out := .next (s.matchToken 3 e1 d e2)
/-- `MATCH 4` (R208). -/
def execMatch4 (e1 d e2 : Nat) (s : State) : Out := .next (s.matchToken 4 e1 d e2)
/-- `MATCH 5` (R208). -/
def execMatch5 (e1 d e2 : Nat) (s : State) : Out := .next (s.matchToken 5 e1 d e2)
/-- `MATCH 6` (R208). -/
def execMatch6 (e1 d e2 : Nat) (s : State) : Out := .next (s.matchToken 6 e1 d e2)
/-- `MATCH 7` (R208). -/
def execMatch7 (e1 d e2 : Nat) (s : State) : Out := .next (s.matchToken 7 e1 d e2)
/-- `MATCH 8` (R208). -/
def execMatch8 (e1 d e2 : Nat) (s : State) : Out := .next (s.matchToken 8 e1 d e2)
/-- `MATCH 9` (R208). -/
def execMatch9 (e1 d e2 : Nat) (s : State) : Out := .next (s.matchToken 9 e1 d e2)
/-- `MATCH 10` (R208). -/
def execMatch10 (e1 d e2 : Nat) (s : State) : Out := .next (s.matchToken 10 e1 d e2)
/-- `MATCH 11` (R208). -/
def execMatch11 (e1 d e2 : Nat) (s : State) : Out := .next (s.matchToken 11 e1 d e2)
/-- `MATCH 12` (R208). -/
def execMatch12 (e1 d e2 : Nat) (s : State) : Out := .next (s.matchToken 12 e1 d e2)
/-- `MATCH 13` (R208). -/
def execMatch13 (e1 d e2 : Nat) (s : State) : Out := .next (s.matchToken 13 e1 d e2)
/-- `MATCH 14` (R208). -/
def execMatch14 (e1 d e2 : Nat) (s : State) : Out := .next (s.matchToken 14 e1 d e2)
/-- `MATCH 15` (R208). -/
def execMatch15 (e1 d e2 : Nat) (s : State) : Out := .next (s.matchToken 15 e1 d e2)
/-- `MATCH 16` (R208). -/
def execMatch16 (e1 d e2 : Nat) (s : State) : Out := .next (s.matchToken 16 e1 d e2)
/-- `MATCH 17` (R208). -/
def execMatch17 (e1 d e2 : Nat) (s : State) : Out := .next (s.matchToken 17 e1 d e2)
/-- `MATCH 18` (R208). -/
def execMatch18 (e1 d e2 : Nat) (s : State) : Out := .next (s.matchToken 18 e1 d e2)
/-- `MATCH 19` (R208). -/
def execMatch19 (e1 d e2 : Nat) (s : State) : Out := .next (s.matchToken 19 e1 d e2)
/-- `MATCH 20` (R208). -/
def execMatch20 (e1 d e2 : Nat) (s : State) : Out := .next (s.matchToken 20 e1 d e2)
/-- `MATCH 21` (R208). -/
def execMatch21 (e1 d e2 : Nat) (s : State) : Out := .next (s.matchToken 21 e1 d e2)
/-- `MATCH 22` (R208). -/
def execMatch22 (e1 d e2 : Nat) (s : State) : Out := .next (s.matchToken 22 e1 d e2)
/-- `MATCH 23` (R208). -/
def execMatch23 (e1 d e2 : Nat) (s : State) : Out := .next (s.matchToken 23 e1 d e2)
/-- `MATCH 24` (R208). -/
def execMatch24 (e1 d e2 : Nat) (s : State) : Out := .next (s.matchToken 24 e1 d e2)
/-- `MATCH 25` (R208). -/
def execMatch25 (e1 d e2 : Nat) (s : State) : Out := .next (s.matchToken 25 e1 d e2)
/-- `MATCH 26` (R208). -/
def execMatch26 (e1 d e2 : Nat) (s : State) : Out := .next (s.matchToken 26 e1 d e2)
/-- `MATCH 27` (R208). -/
def execMatch27 (e1 d e2 : Nat) (s : State) : Out := .next (s.matchToken 27 e1 d e2)

end Sys2Proof.Machine
end

