-- ==== Sys2Proof/Machine/AudTokens.lean ====
section
/-! DEFINITION. The audio tokens (spec/43_tokens.md R232, R233). -/

namespace Sys2Proof.Machine

/-- The channel after the current one: `(ACUR + 1) mod AUDIO_CH` (R232). -/
def TokenState.nextChannel (t : TokenState) : Fin 4 := Fin.ofNat 4 ((t.acur.val + 1) % t.audioCh)

/-- A delta byte (R232). -/
def execAudDelta (d : Byte) (s : State) : Out :=
  let b := s.tok.alast[s.tok.acur] - d
  .next ((s.setTok { s.tok with alast := s.tok.alast.set s.tok.acur b, acur := s.tok.nextChannel }).put b)

/-- Audio `END 00` (R233, R202). -/
def execAudEnd00 (s : State) : Out := runOp segmentEnd s
/-- Audio `END 01` (R233, R204). -/
def execAudEnd01 (s : State) : Out := runOp newTables s
/-- Audio `END 10` (R233, R203). -/
def execAudEnd10 (s : State) : Out := runOp endFile s
/-- Audio `END 11` (R233, R203). -/
def execAudEnd11 (s : State) : Out := runOp endFile s.dropTables

end Sys2Proof.Machine
end

