-- ==== Sys2Proof/Machine/BcCommands.lean ====
section
/-! DEFINITION. The bit cursor commands (spec/40_bitcursor.md R133 to R139, R122). -/

namespace Sys2Proof.Machine

/-- `BC.ATTACH` (R133). -/
def execBcAttach (s : State) : Out := idleCommand true (fun s => s.setCur s.cur.attach) s

/-- `BC.PEEK n` (R136): refused if `n > 32`. -/
def execBcPeek (n : Word) (s : State) : Out :=
  portCommand (decide (n.toNat ≤ Config.peekMax)) (do return some (toWord (← onCur (peek n.toNat)))) s

/-- `BC.CONSUME n` (R137): refused if `n > 32`. -/
def execBcConsume (n : Word) (s : State) : Out :=
  idleCommand (decide (n.toNat ≤ Config.peekMax)) (fun s => s.setCur (s.cur.consume n.toNat)) s

/-- `BC.REFILL` (R138). -/
def execBcRefill (s : State) : Out := portCommand true (do onCur refill; return none) s

/-- `BC.ALIGN` (R139). -/
def execBcAlign (s : State) : Out := idleCommand true (fun s => s.setCur s.cur.align) s

/-- `BC.EXHAUSTED` (R122): 2 if `overrun()`, else 1 if `exhausted()`, else 0. -/
def execBcExhausted (s : State) : Out :=
  portCommand true (do
    if ← onCur overrun then return some 2
    else if ← onCur exhausted then return some 1
    else return some 0) s

end Sys2Proof.Machine
end

