-- ==== Sys2Proof/Machine/ControlCommands.lean ====
section
/-! DEFINITION. The host commands 0x00 to 0x03: `NOP` (spec/30_encoding.md R104), `RESET` (spec/70_reset_and_hazards.md
R430), `START` (spec/48_session.md R350 to R354, R364), `CANCEL` (R357). -/

namespace Sys2Proof.Machine

/-- `NOP` (R104). -/
def execNop (s : State) : Out := .next s.accept

/-- `RESET` (R430): accepted in every state; a running session is abandoned at once. One that comes while the CORE is blocked in
a port call takes effect at the call's return: `State.halted`. -/
def execReset (s : State) : Out := .next s.hardReset

/-- `CANCEL` (R83, R357): `CTRL.CANCEL <- 1`; accepted in every state. -/
def execCancel (s : State) : Out := .next (s.accept.setPar { s.par with cancel := true })

/-- `effective_solid()` (R353). -/
def State.effectiveSolid (s : State) : Bool :=
  s.par.solid && s.ses.verL == s.par.version && s.st.kind == .success

/-- Whether a `START` has to latch `W` (R352). -/
def State.mustLatch (s : State) : Bool :=
  decide (s.par.version.toNat ≤ 3) && (!s.effectiveSolid || s.win.w == 0)

/-- Whether `START` is accepted (R350, R351, R352). -/
def State.startAccepted (s : State) : Bool :=
  s.isIdle && decide (s.par.version.toNat ≤ 4) && (!s.mustLatch || (latchSize s.par.winsize).isSome)

/-- `TARGET` (spec/10_state.md R35). -/
def Params.target (p : Params) : Nat := p.targetHi.toNat * 2 ^ 32 + p.targetLo.toNat

/-- The assignments of `START` after the reset step (R350), the cursor re-initialised (R354). A window that is not latched
holds nothing (R350: it "is all zero after the reset"). -/
def State.latch (s : State) : State :=
  let s1 := if s.par.version.toNat ≤ 3 ∧ s.win.w = 0 then
    s.setWin (Window.fresh (max s.par.winsize.toNat Config.wMin)) else s
  let s2 := (s1.setPar { s1.par with cancel := false }).setSt
    { s1.st with kind := .none, reason := .none, detail := .none, events := 0, written := 0, consumed := 0 }
  (s2.setCur s2.cur.attach).setSes
    { fsm := if s.par.version.toNat ≤ 3 then .hdr else .ppmonly, blockEnd := 0, hTables := false, hAudio := false,
      hPpm := false, verL := s.par.version, targetL := s.par.target, fileStart := s1.win.tw }

/-- `ppm_only_begin()` (R364): the model of a solid chain is kept. -/
def ppmOnlyBegin (solid : Bool) : M Unit := do
  let s ← get
  if !(solid && s.ppm.alloc) then
    set (s.createModel (clampOrder s.par.ppmOrder.toNat) (s.par.ppmMem.toNat / Config.unitSize))
    let s ← get
    if !s.ppm.alloc then throw (.fatal ⟨.corrupt, .nomem⟩)
  onPpm rcInit

/-- `START` (R350). The loop it runs is the coming steps. -/
def execStart (s : State) : Out :=
  if s.startAccepted then
    let s1 := if s.effectiveSolid then s.accept else s.accept.decoderReset
    if s.par.version.toNat ≤ 3 then .next s1.latch
    else runOp (ppmOnlyBegin s.effectiveSolid) s1.latch
  else .next s.refuse

end Sys2Proof.Machine
end

