-- ==== Sys2Proof/Machine/FvCommands.lean ====
section
/-! DEFINITION. The Filter VM commands (spec/47_filtervm.md R340, R344 to R347), and filter memory as they see it. -/

namespace Sys2Proof.Machine

/-- Byte `a` of `FM`: the byte it is known to hold, else the free value (log entry 1). -/
def FilterVm.read (v : FilterVm) (a : Nat) : Byte := (Sparse.find v.fm a).getD (Config.freeFmByte v.fmGen a)

/-- `FM[0..n)`. -/
def FilterVm.prefixBytes (v : FilterVm) (n : Nat) : List Byte := (List.range n).map v.read

/-- `FM[0..n) <- bytes`, where `FM[n..)` becomes unspecified (R345). -/
def FilterVm.replaceFm (v : FilterVm) (bytes : List Byte) : FilterVm :=
  { v with fm := Sparse.putBytes [] 0 bytes, fmGen := v.fmGen + 1 }

/-- A transform `f` of `FM[0..n)` under the registers (R345); of no byte it does nothing. -/
def FilterVm.apply (v : FilterVm) (f : VmRegs → List Byte → List Byte) (n : Nat) : FilterVm :=
  if n = 0 then v else v.replaceFm (f v.regs (v.prefixBytes n))

/-- `FV.LOAD off, byte` (R340). -/
def execFvLoad (off byte : Word) (s : State) : Out :=
  idleCommand (decide (off.toNat < Config.filterMem) && decide (byte.toNat ≤ 255))
    (fun s => s.setVm { s.vm with fm := Sparse.put s.vm.fm off.toNat (byte.setWidth 8) }) s

/-- `FV.SETREG i, v` (R344). -/
def execFvSetreg (i v : Word) (s : State) : Out :=
  idleCommand (decide (i.toNat ≤ 7)) (fun s => s.setVm { s.vm with regs := s.vm.regs.setIfInBounds i.toNat v }) s

/-- The kind whose tag is `n`, `NONE` for a number that is no tag. -/
def kindOfTag (n : Nat) : FilterKind :=
  match n with
  | 1 => .e8
  | 2 => .e8e9
  | 3 => .itanium
  | 4 => .delta
  | 5 => .rgb
  | 6 => .audio
  | _ => .none

/-- `FV.EXEC kind, len` (R345); `len = 0` does nothing (log entry 18). -/
def execFvExec (kind len : Word) (s : State) : Out :=
  idleCommand (decide (kind.toNat ≤ 6) && decide (len.toNat ≤ Config.filterMem))
    (fun s =>
      if len = 0 then s
      else
        let regs := (s.vm.regs.setIfInBounds 4 len).setIfInBounds 7 (BitVec.ofNat 32 Config.filterMem)
        s.setVm (FilterVm.apply { s.vm with regs := regs } (transform (kindOfTag kind.toNat)) len.toNat)) s

/-- `FV.READ off` (R346). -/
def execFvRead (off : Word) (s : State) : Out :=
  idleCommand (decide (off.toNat < Config.filterMem)) (fun s => s.setResult ((s.vm.read off.toNat).setWidth 32)) s

/-- `FV.IDENT plen` (R347): `identify` by R314 and R315, also for the event (log entry 16). -/
def execFvIdent (plen : Word) (s : State) : Out :=
  idleCommand (decide (plen.toNat ≤ Config.filterMem))
    (fun s =>
      let r := identify s.catalogue (s.vm.prefixBytes plen.toNat)
      (s.noteIf r.2 .badProgram).setResult (BitVec.ofNat 32 r.1.tag)) s

end Sys2Proof.Machine
end

