-- ==== Sys2Proof/Machine/FilterKinds.lean ====
section
/-! DEFINITION. The filter kinds (spec/30_encoding.md R109): each transforms the block in filter memory, `FM[0..R4)`, under
the registers (spec/47_filtervm.md R320, R323, log entry 25). `FV.EXEC` and the flush apply the same transforms. -/

namespace Sys2Proof.Machine

/-- The transform `f` of the block in filter memory, whose length is `R4` (R322). -/
def State.transformBlock (s : State) (f : VmRegs → List Byte → List Byte) : State :=
  s.setVm (s.vm.apply f (min (regAt s.vm.regs 4).toNat Config.filterMem))

/-- `FK.NONE` (R324). -/
def execFkNone (s : State) : Out := .next (s.transformBlock transformNone)
/-- `FK.E8` (R326). -/
def execFkE8 (s : State) : Out := .next (s.transformBlock transformE8)
/-- `FK.E8E9` (R327). -/
def execFkE8E9 (s : State) : Out := .next (s.transformBlock transformE8E9)
/-- `FK.ITANIUM` (R331). -/
def execFkItanium (s : State) : Out := .next (s.transformBlock transformItanium)
/-- `FK.DELTA` (R333). -/
def execFkDelta (s : State) : Out := .next (s.transformBlock transformDelta)
/-- `FK.RGB` (R335). -/
def execFkRgb (s : State) : Out := .next (s.transformBlock transformRgb)
/-- `FK.AUDIO` (R337). -/
def execFkAudio (s : State) : Out := .next (s.transformBlock transformAudio)

end Sys2Proof.Machine
end

