-- ==== Sys2Proof/Machine/HufCommands.lean ====
section
/-! DEFINITION. The Huffman table commands (spec/41_huffman.md R153, R156, R157). -/

namespace Sys2Proof.Machine

/-- `HUF.SETLEN index, length` (R153). -/
def execHufSetlen (index length : Word) (s : State) : Out :=
  idleCommand (decide (index.toNat < Config.lenbufSize) && decide (length.toNat ≤ 255))
    (fun s => s.setTabs { s.tabs with lenbuf := s.tabs.lenbuf.setIfInBounds index.toNat (length.setWidth 8) }) s

/-- `HUF.BUILD id, count` (R156). -/
def execHufBuild (id count : Word) (s : State) : Out :=
  idleCommand (decide (id.toNat ≤ 6) && count != 0 && decide (count.toNat ≤ tableCapacity id.toNat))
    (fun s =>
      let t := HuffTable.built s.tabs.lenbuf.toList count.toNat
      (s.setTabs (s.tabs.setById id.toNat t)).setResult (bitWord t.valid)) s

/-- `HUF.DECODE id` (R157). -/
def execHufDecode (id : Word) (s : State) : Out :=
  portCommand (decide (id.toNat ≤ 6) && (s.tabs.byId id.toNat).valid)
    (do return some (toWord (← decodeTable (s.tabs.byId id.toNat) (tableCapacity id.toNat)))) s

end Sys2Proof.Machine
end

