-- ==== Sys2Proof/Machine/PpmCommands.lean ====
section
/-! DEFINITION. The commands of the PPM model, the range coder and the sub-allocator (spec/45_ppm_model.md R285, R287;
spec/44_rangecoder.md R248; spec/46_suballocator.md R300, R302, R303). -/

namespace Sys2Proof.Machine

/-- `PPM.INIT order, bytes` (R285). -/
def execPpmInit (order bytes : Word) (s : State) : Out :=
  idleCommand true
    (fun s =>
      let s1 := s.createModel (clampOrder order.toNat) (bytes.toNat / Config.unitSize)
      s1.setResult (bitWord s1.ppm.alloc)) s

/-- The value of a decode as a result (R287). -/
def PpmResult.code : PpmResult → Word
  | .byte b => b.setWidth 32
  | .endSegment => 0x100
  | .corrupt => 0x101
  | .nomem => 0x102

/-- A PPM operation that writes no event (R287, log entry 15). -/
def onPpmQuietly {α : Type} (x : PpmM α) : M α := fun s =>
  match x s.world with
  | .ok a w => .ok a (s.setWorld w)
  | .error e w => .error e (s.setWorld w)

/-- `PPM.DECODE` (R287): refused without a model. -/
def execPpmDecode (s : State) : Out :=
  portCommand s.ppm.alloc (do return some (← onPpmQuietly ppmDecode).code) s

/-- `SA.ALLOC n` (R302): the unit index, or `0xFFFFFFFF` for `NIL`. -/
def execSaAlloc (n : Word) (s : State) : Out :=
  idleCommand (!s.ppm.alloc && n != 0 && decide (n.toNat ≤ Config.saMaxBlock))
    (fun s =>
      let r := s.sa.alloc n.toNat
      (s.setSa r.2).setResult (match r.1 with
        | some i => BitVec.ofNat 32 i
        | none => 0xFFFFFFFF#32)) s

/-- `SA.FREE i, n` (R303). -/
def execSaFree (i n : Word) (s : State) : Out :=
  idleCommand
    (!s.ppm.alloc && n != 0 && decide (n.toNat ≤ Config.saMaxBlock) && decide (i.toNat + n.toNat ≤ s.sa.brk))
    (fun s => s.setSa (s.sa.free i.toNat n.toNat)) s

/-- `RC.INIT` (R248): `align()`, then `rc_init()`. -/
def execRcInit (s : State) : Out :=
  portCommand true (do
    onCur (modify (·.align))
    onPpm rcInit
    return none) s

/-- `SA.INIT units` (R300): an existing model is destroyed. -/
def execSaInit (units : Word) (s : State) : Out :=
  idleCommand (decide (units.toNat ≤ 2 ^ 32 - 2))
    (fun s =>
      (s.setSa (SubAlloc.reset { s.sa with u := units.toNat })).setPpm { s.ppm with alloc := false, arena := [] }) s

end Sys2Proof.Machine
end

