-- ==== Sys2Proof/Machine/PpmTokens.lean ====
section
/-! DEFINITION. The tokens of PPM blocks (spec/48_session.md R362, R363, R376 to R380) and of PPM_ONLY streams (R364). -/

namespace Sys2Proof.Machine

/-- `PPM.LIT` (R376). -/
def execPpmLit (b : Byte) (s : State) : Out := .next (s.put b)

/-- `PPM.LITESC` (R377). -/
def execPpmLitesc (s : State) : Out := .next (s.put s.ppm.esc)

/-- `PPM.NEWFILE` (R378). -/
def execPpmNewfile (s : State) : Out := runOp endFile s

/-- `PPM.FILTER` (R379). -/
def execPpmFilter (t : FilterTok) (s : State) : Out := .next (s.registerFilter t)

/-- `PPM.MATCH` (R380, spec/30_encoding.md R106): `CACHE`, `LAST_LEN`, `LAST_DIST` are not changed. -/
def execPpmMatch (d2 d1 d0 l : Byte) (s : State) : Out :=
  .next (s.copyMatch (ppmDistance d2 d1 d0) (l.toNat + 3))

/-- A reserved command byte: the corruption fallback (R363). -/
def execPpmReserved (s : State) : Out := runOp fallback s

/-- A byte of a PPM_ONLY stream (R364): straight to the output port. -/
def execPpmonlyByte (b : Byte) (s : State) : Out := runOp (emit [b]) s

end Sys2Proof.Machine
end

