-- ==== Sys2Proof/Machine/Structures.lean ====
section
/-! DEFINITION. The stream structures: block header (spec/43_tokens.md R182 to R186), length entries and table sets
(spec/30_encoding.md R88, R89; spec/43_tokens.md R188, R231), PPM sub-header (spec/48_session.md R361), filter token
(spec/47_filtervm.md R312). -/

namespace Sys2Proof.Machine

/-- The latches of a good header (R183, R184): `BLOCK_END` counts from the bit after the header. -/
def State.latchHeader (s : State) (flags : Byte) (size : List Byte) : State :=
  s.setSes { s.ses with
    blockEnd := s.cur.bitpos + payloadBits flags (sizeValue size),
    hTables := flags.getLsbD 7,
    hAudio := flags.getLsbD 6 && (s.ses.verL == 1 || s.ses.verL == 2),
    hPpm := flags.getLsbD 5 && s.ses.verL == 3 && !s.ppm.disabled }

/-- Whether the block's tables exist (R186); under G1 they always do. -/
def State.tablesReady (s : State) : Bool :=
  s.isG1 || (if s.ses.hAudio then s.tabs.audioValid else s.tabs.tablesValid)

/-- The dispatcher's state for the block's tokens (R185). -/
def State.tokenFsm (s : State) : Fsm := if s.ses.hAudio then .aud else .lz

/-- After the header (R185): a sub-header, tables, or the validity check and then tokens. -/
def State.enterBlock (s : State) : State :=
  if s.ses.hPpm then s.setFsm .ppmhdr
  else if s.ses.hTables then s.readTables s.tokenFsm
  else if s.tablesReady then s.setFsm s.tokenFsm
  else s.raiseFatal .corrupt .noTables

/-- A block header (R182, spec/30_encoding.md R85). -/
def execHdr (flags chk : Byte) (size : List Byte) (s : State) : Out :=
  .next (if flags.extractLsb' 3 2 = 3 then s.raiseFatal .corrupt .badHeader
    else if hdrCheck flags size ≠ chk then s.raiseFatal .hdrChecksum .none
    else (s.latchHeader flags size).enterBlock)

/-- `n` lengths `v` at `LENBUF[LENPOS]` on, cut short at the end of the sequence (R88). -/
def Tables.pushLens (t : Tables) (v : Byte) : Nat → Tables
  | 0 => t
  | n + 1 =>
    if t.lenPos < t.lenTot then
      Tables.pushLens { t with lenbuf := t.lenbuf.setIfInBounds t.lenPos v, lenPos := t.lenPos + 1 } v n
    else t

/-- One length below 15 (R88). -/
def execLenV (v : BitVec 4) (s : State) : Out := .next (s.setTabs (s.tabs.pushLens (v.setWidth 8) 1))

/-- One length 15 (R88). -/
def execLen15 (s : State) : Out := .next (s.setTabs (s.tabs.pushLens 15 1))

/-- A run of `z + 2` lengths 0 (R88). -/
def execLenZrun (z : BitVec 4) (s : State) : Out := .next (s.setTabs (s.tabs.pushLens 0 (z.toNat + 2)))

/-- `LENBUF[0..)` with the lengths of a set. -/
def Tables.putLens (t : Tables) (lens : List (BitVec 4)) : Tables :=
  { t with lenbuf := Vector.ofFn fun i => match lens[i.val]? with
      | some v => v.setWidth 8
      | none => t.lenbuf[i] }

/-- `LENBUF[a..a+n)`. -/
def Tables.lenSlice (t : Tables) (a n : Nat) : List Byte := (t.lenbuf.toList.drop a).take n

/-- The end of a table set: none is open, and tokens follow. -/
def State.closeTables (s : State) (f : Fsm) : State := (s.setLens 0).setFsm f

/-- An LZ table set (R188). -/
def execLzTables (lens : List (BitVec 4)) (s : State) : Out :=
  let t := s.tabs.putLens lens
  let ld := HuffTable.built (t.lenSlice 0 Config.nc) Config.nc
  let dd := HuffTable.built (t.lenSlice Config.nc Config.dc) Config.dc
  let rd := HuffTable.built (t.lenSlice (Config.nc + Config.dc) Config.rc) Config.rc
  let s1 := s.setTabs { t with ld := ld, dd := dd, rd := rd }
  .next (if ld.valid && dd.valid && rd.valid then
      (s1.setTabs { s1.tabs with tablesValid := true }).closeTables .lz
    else s1.raiseFatal .corrupt .tableRejected)

/-- `MD[0..n)` built from `LENBUF` (R231). -/
def Tables.buildAudio (t : Tables) : Nat → Tables
  | 0 => t
  | n + 1 =>
    let t1 := t.buildAudio n
    { t1 with md := t1.md.setIfInBounds n (.built (t.lenSlice (Config.mc * n) Config.mc) Config.mc) }

/-- An audio table set (R231). -/
def execAudioTables (ch1 : BitVec 2) (lens : List (BitVec 4)) (s : State) : Out :=
  let t := (s.tabs.putLens lens).buildAudio (ch1.toNat + 1)
  let s1 := (s.setTabs t).setTok { s.tok with audioCh := ch1.toNat + 1 }
  .next (if (t.md.toList.take (ch1.toNat + 1)).all (·.valid) then
      ((s1.setTabs { t with audioValid := true }).setTok
        { s1.tok with alast := Vector.replicate 4 0, acur := 0 }).closeTables .aud
    else s1.raiseFatal .corrupt .tableRejected)

/-- The end of `ppm_block_begin()` (R361): without a model the recoverable path, else `rc_init()`. -/
def ppmBlockBegin : M Unit := do
  let s ← get
  if s.ppm.alloc then
    onPpm rcInit
    modify (·.setFsm .ppm)
  else
    set ((s.setPpm { s.ppm with disabled := true }).note .ppmFallback)
    flush
    modify (·.setFsm .hdr)

/-- A PPM sub-header (R361). -/
def execPpmHdr (p : Byte) (mem esc : Option Byte) (s : State) : Out :=
  let s1 := if p.getLsbD 7 then s.resetModel p (mem.getD 0) else s
  if p.getLsbD 7 && !s1.ppm.alloc then .next (s1.raiseFatal .corrupt .nomem)
  else runOp ppmBlockBegin (if p.getLsbD 6 then s1.setPpm { s1.ppm with esc := esc.getD s1.ppm.esc } else s1)

/-- A filter token (R312); a `FILTER` or `PPM.FILTER` token is one of these after its symbol or command byte. -/
def execFilterTok (t : FilterTok) (s : State) : Out := .next (s.registerFilter t)

end Sys2Proof.Machine
end

