-- ==== Sys2Proof/Machine/WinCommands.lean ====
section
/-! DEFINITION. The history window commands (spec/42_window.md R172, R175 to R179). -/

namespace Sys2Proof.Machine

/-- Whether `n` more bytes keep every unflushed byte (R175, R176). -/
def Window.hasRoom (x : Window) (n : Nat) : Bool := x.w != 0 && decide (x.tw - x.tf + n ≤ x.w)

/-- `WIN.PUT byte` (R175). -/
def execWinPut (byte : Word) (s : State) : Out :=
  idleCommand (decide (byte.toNat ≤ 255) && s.win.hasRoom 1) (fun s => s.put (byte.setWidth 8)) s

/-- `WIN.COPY distance, length` (R176). -/
def execWinCopy (distance length : Word) (s : State) : Out :=
  idleCommand (s.win.hasRoom length.toNat) (fun s => s.copyMatch distance.toNat length.toNat) s

/-- `WIN.READ index` (R177). -/
def execWinRead (index : Word) (s : State) : Out :=
  idleCommand (s.win.w != 0) (fun s => s.setResult ((s.win.byteAt index.toNat).setWidth 32)) s

/-- `WIN.FLUSH` (R178): if the output port fails, the command is refused and keeps the `TF` and `WRITTEN` reached. -/
def execWinFlush (s : State) : Out :=
  if s.isIdle && s.win.w != 0 then
    match flush s.accept with
    | .ok _ s1 => .next s1
    | .error .reset s1 => .next s1.hardReset
    | .error (.fatal _) s1 =>
      .next (((s.setTf s1.win.tf).setSt { s.st with written := s1.st.written }).setOut s1.out).refuse
  else .next s.refuse

/-- `WIN.STAT` (R179): `POS + 2^31·FIRST`. -/
def execWinStat (s : State) : Out :=
  idleCommand (s.win.w != 0)
    (fun s => s.setResult (BitVec.ofNat 32 (s.win.pos + if s.win.first then 2 ^ 31 else 0))) s

/-- `WIN.INIT` (R172). -/
def execWinInit (s : State) : Out :=
  idleCommand (latchSize s.par.winsize).isSome
    (fun s =>
      (((s.setWin (Window.fresh ((latchSize s.par.winsize).getD 0))).setFq []).setSes
        { s.ses with fileStart := 0, targetL := s.par.target }).setSt { s.st with written := 0 }) s

end Sys2Proof.Machine
end

