-- ==== Sys2Proof/Machine/Dispatch.lean ====
section
/-! DEFINITION. The meaning of every instruction, one arm each. -/

namespace Sys2Proof.Machine

def exec (i : Instr) (s : State) : Host.Outcome State Fault Refusal :=
  match i with
  | .nop => Sys2Proof.Machine.execNop s
  | .reset => Sys2Proof.Machine.execReset s
  | .start => Sys2Proof.Machine.execStart s
  | .cancel => Sys2Proof.Machine.execCancel s
  | .bcAttach => Sys2Proof.Machine.execBcAttach s
  | .bcPeek n => Sys2Proof.Machine.execBcPeek n s
  | .bcConsume n => Sys2Proof.Machine.execBcConsume n s
  | .bcRefill => Sys2Proof.Machine.execBcRefill s
  | .bcAlign => Sys2Proof.Machine.execBcAlign s
  | .bcExhausted => Sys2Proof.Machine.execBcExhausted s
  | .hufSetlen index length => Sys2Proof.Machine.execHufSetlen index length s
  | .hufBuild id count => Sys2Proof.Machine.execHufBuild id count s
  | .hufDecode id => Sys2Proof.Machine.execHufDecode id s
  | .winPut byte => Sys2Proof.Machine.execWinPut byte s
  | .winCopy distance length => Sys2Proof.Machine.execWinCopy distance length s
  | .winRead index => Sys2Proof.Machine.execWinRead index s
  | .winFlush => Sys2Proof.Machine.execWinFlush s
  | .winStat => Sys2Proof.Machine.execWinStat s
  | .winInit => Sys2Proof.Machine.execWinInit s
  | .ppmInit order bytes => Sys2Proof.Machine.execPpmInit order bytes s
  | .ppmDecode => Sys2Proof.Machine.execPpmDecode s
  | .saAlloc n => Sys2Proof.Machine.execSaAlloc n s
  | .saFree index n => Sys2Proof.Machine.execSaFree index n s
  | .rcInit => Sys2Proof.Machine.execRcInit s
  | .saInit units => Sys2Proof.Machine.execSaInit units s
  | .fvLoad off byte => Sys2Proof.Machine.execFvLoad off byte s
  | .fvSetreg reg value => Sys2Proof.Machine.execFvSetreg reg value s
  | .fvExec kind len => Sys2Proof.Machine.execFvExec kind len s
  | .fvRead off => Sys2Proof.Machine.execFvRead off s
  | .fvIdent plen => Sys2Proof.Machine.execFvIdent plen s
  | .lit b => Sys2Proof.Machine.execLit b s
  | .end00 => Sys2Proof.Machine.execEnd00 s
  | .end01 => Sys2Proof.Machine.execEnd01 s
  | .end10 => Sys2Proof.Machine.execEnd10 s
  | .end11 => Sys2Proof.Machine.execEnd11 s
  | .filter t => Sys2Proof.Machine.execFilter t s
  | .repeatLast => Sys2Proof.Machine.execRepeat s
  | .cache0 l e => Sys2Proof.Machine.execCache0 l e s
  | .cache1 l e => Sys2Proof.Machine.execCache1 l e s
  | .cache2 l e => Sys2Proof.Machine.execCache2 l e s
  | .cache3 l e => Sys2Proof.Machine.execCache3 l e s
  | .match0 e1 d e2 => Sys2Proof.Machine.execMatch0 e1 d e2 s
  | .match1 e1 d e2 => Sys2Proof.Machine.execMatch1 e1 d e2 s
  | .match2 e1 d e2 => Sys2Proof.Machine.execMatch2 e1 d e2 s
  | .match3 e1 d e2 => Sys2Proof.Machine.execMatch3 e1 d e2 s
  | .match4 e1 d e2 => Sys2Proof.Machine.execMatch4 e1 d e2 s
  | .match5 e1 d e2 => Sys2Proof.Machine.execMatch5 e1 d e2 s
  | .match6 e1 d e2 => Sys2Proof.Machine.execMatch6 e1 d e2 s
  | .match7 e1 d e2 => Sys2Proof.Machine.execMatch7 e1 d e2 s
  | .match8 e1 d e2 => Sys2Proof.Machine.execMatch8 e1 d e2 s
  | .match9 e1 d e2 => Sys2Proof.Machine.execMatch9 e1 d e2 s
  | .match10 e1 d e2 => Sys2Proof.Machine.execMatch10 e1 d e2 s
  | .match11 e1 d e2 => Sys2Proof.Machine.execMatch11 e1 d e2 s
  | .match12 e1 d e2 => Sys2Proof.Machine.execMatch12 e1 d e2 s
  | .match13 e1 d e2 => Sys2Proof.Machine.execMatch13 e1 d e2 s
  | .match14 e1 d e2 => Sys2Proof.Machine.execMatch14 e1 d e2 s
  | .match15 e1 d e2 => Sys2Proof.Machine.execMatch15 e1 d e2 s
  | .match16 e1 d e2 => Sys2Proof.Machine.execMatch16 e1 d e2 s
  | .match17 e1 d e2 => Sys2Proof.Machine.execMatch17 e1 d e2 s
  | .match18 e1 d e2 => Sys2Proof.Machine.execMatch18 e1 d e2 s
  | .match19 e1 d e2 => Sys2Proof.Machine.execMatch19 e1 d e2 s
  | .match20 e1 d e2 => Sys2Proof.Machine.execMatch20 e1 d e2 s
  | .match21 e1 d e2 => Sys2Proof.Machine.execMatch21 e1 d e2 s
  | .match22 e1 d e2 => Sys2Proof.Machine.execMatch22 e1 d e2 s
  | .match23 e1 d e2 => Sys2Proof.Machine.execMatch23 e1 d e2 s
  | .match24 e1 d e2 => Sys2Proof.Machine.execMatch24 e1 d e2 s
  | .match25 e1 d e2 => Sys2Proof.Machine.execMatch25 e1 d e2 s
  | .match26 e1 d e2 => Sys2Proof.Machine.execMatch26 e1 d e2 s
  | .match27 e1 d e2 => Sys2Proof.Machine.execMatch27 e1 d e2 s
  | .audDelta d => Sys2Proof.Machine.execAudDelta d s
  | .audEnd00 => Sys2Proof.Machine.execAudEnd00 s
  | .audEnd01 => Sys2Proof.Machine.execAudEnd01 s
  | .audEnd10 => Sys2Proof.Machine.execAudEnd10 s
  | .audEnd11 => Sys2Proof.Machine.execAudEnd11 s
  | .ppmLit b => Sys2Proof.Machine.execPpmLit b s
  | .ppmLitesc => Sys2Proof.Machine.execPpmLitesc s
  | .ppmNewfile => Sys2Proof.Machine.execPpmNewfile s
  | .ppmFilter t => Sys2Proof.Machine.execPpmFilter t s
  | .ppmMatch d2 d1 d0 l => Sys2Proof.Machine.execPpmMatch d2 d1 d0 l s
  | .ppmReserved _ => Sys2Proof.Machine.execPpmReserved s
  | .ppmonlyByte b => Sys2Proof.Machine.execPpmonlyByte b s
  | .hdr flags chk size => Sys2Proof.Machine.execHdr flags chk size s
  | .lenV v => Sys2Proof.Machine.execLenV v s
  | .len15 => Sys2Proof.Machine.execLen15 s
  | .lenZrun z => Sys2Proof.Machine.execLenZrun z s
  | .audioTables ch1 lens => Sys2Proof.Machine.execAudioTables ch1 lens s
  | .lzTables lens => Sys2Proof.Machine.execLzTables lens s
  | .ppmHdr p mem esc => Sys2Proof.Machine.execPpmHdr p mem esc s
  | .filterTok t => Sys2Proof.Machine.execFilterTok t s
  | .fkNone => Sys2Proof.Machine.execFkNone s
  | .fkE8 => Sys2Proof.Machine.execFkE8 s
  | .fkE8E9 => Sys2Proof.Machine.execFkE8E9 s
  | .fkItanium => Sys2Proof.Machine.execFkItanium s
  | .fkDelta => Sys2Proof.Machine.execFkDelta s
  | .fkRgb => Sys2Proof.Machine.execFkRgb s
  | .fkAudio => Sys2Proof.Machine.execFkAudio s

end Sys2Proof.Machine
end

