-- ==== Sys2Proof/Machine/Placement.lean ====
section
/-! DEFINITION. Placing one instruction of the opcode table where the next step fetches it (log entry 20). A command word
goes to the head of the host's queue. An LZ token needs a running session: a block open in a decoded stream whose next code
words stand for the token's symbols; this sets that session up. -/

namespace Sys2Proof.Machine

/-- A table whose only symbol is `sym`, with a code of length 1 (spec/41_huffman.md R146, R149). -/
def lonelyTable (sym count : Nat) : HuffTable :=
  { HuffTable.invalid with count := count, fake := some (sym, 1), valid := true }

/-- A running session in dispatcher state `f` of generation G4, its block and its target far away, the stream `bytes` at
the cursor, the host silent. -/
def State.inSession (s : State) (f : Fsm) (bytes : List Byte) : State :=
  let s1 := (s.setHost []).setPar { s.par with cancel := false }
  let s2 := s1.setCur { s1.cur.attach with port := [.data bytes] }
  let s3 := s2.setWin (if s2.win.w = 0 then { s2.win with w := Config.wMin } else s2.win)
  s3.setSes { s3.ses with fsm := f, blockEnd := 2 ^ 20, verL := 3, targetL := s3.win.tw + 2 ^ 20,
                          fileStart := s3.win.tw, hTables := false, hAudio := false, hPpm := false }

/-- The stream: one bit for the code word of the symbol, the two flag bits of `END`, then zeros. -/
def flagStream (flags : Nat) : List Byte := BitVec.ofNat 8 (flags * 32) :: List.replicate 39 0

/-- The LZ token of symbol `sym`, with the two flag bits of `END`. -/
def State.placeLz (s : State) (sym flags : Nat) : State :=
  let s1 := s.inSession .lz (flagStream flags)
  s1.setTabs { s1.tabs with ld := lonelyTable sym Config.nc, dd := lonelyTable 0 Config.dc,
                            rd := lonelyTable 0 Config.rc, tablesValid := true }

/-- The length entry of the byte `b` at the head of the stream, with an LZ table set open. -/
def State.placeLen (s : State) (b : Nat) : State :=
  (s.inSession .tables (BitVec.ofNat 8 b :: List.replicate 39 0)).setLens (Config.nc + Config.dc + Config.rc)

/-- The instruction of `nbits` bits `w`: a command word; an LZ key; a filter kind, run by `FV.EXEC` on one byte; a length
entry. -/
def State.placeWord (s : State) (nbits w : Nat) : State :=
  if nbits = 72 then s.setHost (⟨0, .cmd (BitVec.ofNat 72 w)⟩ :: s.host)
  else if nbits = 16 then
    if w / 4 = 256 then s.placeLz 256 (w % 4) else s.placeLz w 0
  else if w < 7 then s.setHost (⟨0, .cmd (BitVec.ofNat 72 ((0x52 * 2 ^ 32 + w) * 2 ^ 32 + 1))⟩ :: s.host)
  else if w < 15 then s.placeLen (w * 16)
  else s.placeLen w

end Sys2Proof.Machine
end

