-- ==== Sys2Proof/Machine/Step.lean ====
section
/-! DEFINITION. One step: fetch the next instruction, execute it (log entries 4 and 5); and placing one instruction where
the next step fetches it. -/

namespace Sys2Proof.Machine

/-- One step of the machine. -/
def step (s : State) : Host.Outcome State Fault Refusal :=
  match fetchNext s with
  | .instr i s1 => exec i s1
  | .done s1 => .next s1
  | .fault f => .fault f

/-- `s` with the instruction of `nbits` bits `w` of the opcode table where the next step fetches it (log entry 20). -/
def State.withFetchWord (s : State) (nbits w : Nat) : State := s.placeWord nbits w

end Sys2Proof.Machine
end

