-- ==== Sys2Proof/Safety.lean ====
section
/-! DEFINITION. What a sound state is, in the terms the statements use: the invariants of the spec and of the model's own
representation, each a decidable property of one state. -/

namespace Sys2Proof.Machine

/-- The window (spec/42_window.md R161): its memory is canonical and inside `WIN[0..W)` (R160), `POS = TW mod W`,
`FIRST = 1` iff `TW ≥ W`, `TF ≤ TW` (spec/10_state.md R25). -/
structure Window.Sound (x : Window) : Prop where
  canonical : Memory.wf x.mem = true
  inside : x.w ≠ 0 → ∀ c ∈ x.mem, c.1 < x.w
  pos : x.pos = x.tw % x.w
  first : x.w ≠ 0 → (x.first = true ↔ x.w ≤ x.tw)
  flushed : x.tf ≤ x.tw

/-- The cursor (spec/40_bitcursor.md R121): the buffer within its size, `RD` within the buffer until the end of the stream is known,
the length of the stream as the port gave it. Bytes still to be skipped (log entry 27) lie before an empty buffer. -/
structure Cursor.Sound (c : Cursor) : Prop where
  top : c.top ≤ Config.inbufSize
  read : c.eos = false → c.rd ≤ c.top
  skipped : 0 < c.skip → c.eos = false ∧ c.buf = [] ∧ c.skip ≤ c.bufbase
  streamLen : c.eos = true → c.streamLen = c.bufbase + c.top

/-- A table that decodes to symbols below `n` only (spec/41_huffman.md R144, R148). -/
structure HuffTable.Below (t : HuffTable) (n : Nat) : Prop where
  sym : ∀ x ∈ t.sym, x < n
  quick : ∀ x ∈ t.qsym, x < n
  fake : ∀ p ∈ t.fake, p.1 < n

/-- The tables: each decodes into its alphabet (spec/43_tokens.md R207, R208), and a table read is within `LENBUF`
(spec/30_encoding.md R88). -/
structure Tables.Sound (t : Tables) : Prop where
  ld : t.ld.Below Config.nc
  dd : t.dd.Below Config.dc
  rd : t.rd.Below Config.rc
  md : ∀ x ∈ t.md.toList, x.Below Config.mc
  lens : t.lenPos ≤ t.lenTot ∧ t.lenTot ≤ Config.lenbufSize

/-- The statistics of an alphabet of `n` symbols (spec/10_state.md R28): the order is a permutation, one count a symbol. -/
structure Adaptive.Sound (a : Adaptive) (n : Nat) : Prop where
  order : a.order.Perm (List.range n)
  freq : a.freq.length = n

/-- The token decoders' state. -/
structure TokenState.Sound (t : TokenState) : Prop where
  ld : t.g1Ld.Sound Config.nc
  dd : t.g1Dd.Sound Config.dc
  rd : t.g1Rd.Sound Config.rc
  channels : 1 ≤ t.audioCh ∧ t.audioCh ≤ 4

/-- Which `(RESULT_KIND, REASON, DETAIL)` occur: no reason without a failure (spec/48_session.md R358), and for a failure the
pairs of spec/60_exceptions.md R392. -/
def legalStatus : ResultKind → Reason → Detail → Bool
  | .failure, .hdrChecksum, .none => true
  | .failure, .truncated, .none => true
  | .failure, .truncated, .readFail => true
  | .failure, .corrupt, .badHeader => true
  | .failure, .corrupt, .noTables => true
  | .failure, .corrupt, .tableRejected => true
  | .failure, .corrupt, .nomem => true
  | .failure, .corrupt, .ppmStream => true
  | .failure, .writeFail, .none => true
  | .failure, _, _ => false
  | _, .none, .none => true
  | _, _, _ => false

/-- A sound state. -/
structure State.Sound (s : State) : Prop where
  win : s.win.Sound
  cur : s.cur.Sound
  tabs : s.tabs.Sound
  tok : s.tok.Sound
  /-- the unflushed bytes fit the window (spec/10_state.md R25, spec/48_session.md R360) -/
  pending : s.win.tw - s.win.tf ≤ s.win.w
  /-- the window is not latched or has a legal size (spec/10_state.md R24, spec/48_session.md R352) -/
  size : s.win.w = 0 ∨ ∃ k ≤ 30, 18 ≤ k ∧ s.win.w = 2 ^ k
  /-- a session of G1 to G4 has a window (spec/48_session.md R350) -/
  latched : s.ses.fsm ∈ [Fsm.hdr, .tables, .lz, .aud, .ppmhdr, .ppm] → s.win.w ≠ 0
  /-- the match that `REPEAT` repeats is no longer than a token may write (spec/43_tokens.md R207, R208) -/
  lastLen : s.tok.lastLen.toNat ≤ Config.maxToken
  /-- `WRITTEN ≤ TARGET` (spec/10_state.md R42, spec/48_session.md R366) -/
  written : s.st.written ≤ s.ses.targetL
  /-- the known bytes of filter memory, addresses strictly rising -/
  fm : Sparse.rising s.vm.fm = true
  /-- the blocks of the arena, unit indices strictly rising -/
  arena : Sparse.rising s.ppm.arena = true
  /-- the filter queue holds at most `FQ_MAX` descriptors (spec/10_state.md R49) -/
  fq : s.vm.fq.length ≤ Config.fqMax
  /-- the filter queue is empty outside a session (spec/48_session.md R370) -/
  idleFq : s.isIdle = true → s.vm.fq = []
  /-- only the listed results are reported (spec/60_exceptions.md R392) -/
  status : legalStatus s.st.kind s.st.reason s.st.detail = true
  /-- a running session has no result yet (spec/10_state.md R39, spec/48_session.md R350) -/
  running : s.busy = true → s.st.kind = .none

/-! ### The stream as the port will deliver it (spec/40_bitcursor.md R131) -/

/-- No `RESET` comes during this read. -/
def PortRead.calm : PortRead → Bool
  | .reset => false
  | _ => true

/-- No `RESET` comes during this write. -/
def PortWrite.calm : PortWrite → Bool
  | .reset _ => false
  | _ => true

/-- No `RESET` comes while the CORE is blocked in a port call (spec/70_reset_and_hazards.md R430). -/
def State.calm (s : State) : Bool := s.cur.port.all PortRead.calm && s.out.answers.all PortWrite.calm

/-- The bytes the coming answers of the port deliver before the end of the stream. -/
def portBytes : List PortRead → List Byte
  | [] => []
  | .error :: _ => []
  | .reset :: _ => []
  | .data [] :: _ => []
  | .data (b :: l) :: rest => b :: l ++ portBytes rest

/-- No answer before the end of the stream is an error, and no `RESET` comes during a read before it. -/
def portClean : List PortRead → Bool
  | [] => true
  | .error :: _ => false
  | .reset :: _ => false
  | .data [] :: _ => true
  | .data (_ :: _) :: rest => portClean rest

/-- The cursor will meet no port error and no `RESET` in a port call. -/
def Cursor.ready (c : Cursor) : Bool := c.eos || portClean c.port

/-- What the port still delivers. -/
def Cursor.coming (c : Cursor) : List Byte := if c.eos then [] else portBytes c.port

/-- The stream from byte `BUFBASE` on: what is buffered and what the port still delivers, but for what is skipped. -/
def Cursor.ahead (c : Cursor) : List Byte := c.buf ++ c.coming.drop c.skip

/-- Bit `k` after `BITPOS` of the stream with zeros after its end: bit `7 - (p mod 8)` of byte `p div 8`. -/
def Cursor.streamBit (c : Cursor) (k : Nat) : Bool :=
  (c.ahead.getD ((8 * c.rd + c.bit.val + k) / 8) 0).getLsbD (7 - (8 * c.rd + c.bit.val + k) % 8)

/-- The `n` bits from bit `k` after `BITPOS` on. -/
def Cursor.streamBits (c : Cursor) (k n : Nat) : List Bool := (List.range n).map fun j => c.streamBit (k + j)

/-- The number those `n` bits stand for, the first the most significant. -/
def Cursor.streamNat (c : Cursor) (k n : Nat) : Nat := bitsToNat (c.streamBits k n)

/-- Bits of the stream not yet consumed: none if `BITPOS` is at or past its end. -/
def Cursor.bitsLeft (c : Cursor) : Nat := 8 * (c.top + c.coming.length) - (8 * (c.rd + c.skip) + c.bit.val)

/-- `BITPOS` is past the end of the stream. -/
def Cursor.beyond (c : Cursor) : Bool := decide (8 * (c.top + c.coming.length) < 8 * (c.rd + c.skip) + c.bit.val)

/-! ### Canonical codes (spec/41_huffman.md R140) -/

/-- The code space the lengths use, in units of `2^-16`. -/
def kraft (lens : List Byte) : Nat :=
  (lens.map fun l => if 1 ≤ l.toNat ∧ l.toNat ≤ 16 then 2 ^ (16 - l.toNat) else 0).sum

/-- The first code word of length `l`: every shorter code word with zeros and ones after it is passed over. -/
def firstCode (lens : List Byte) (l : Nat) : Nat :=
  (lens.map fun x => if 1 ≤ x.toNat ∧ x.toNat < l then 2 ^ (l - x.toNat) else 0).sum

/-- The code word of symbol `s`: the first of its length plus the number of smaller symbols of that length. -/
def codeWord (lens : List Byte) (s : Nat) : Nat :=
  firstCode lens (lens.getD s 0).toNat + (lens.take s).countP fun x => x == lens.getD s 0

/-- The statistics are sorted by count, highest first (spec/43_tokens.md R228). -/
def Adaptive.sorted (a : Adaptive) : Bool :=
  (a.order.map fun s => (a.freq.getD s 0).toNat).Pairwise (· ≥ ·)

/-! ### The allocator's books (spec/46_suballocator.md R290) -/

/-- Two runs of units that do not overlap. -/
def apart (x y : Nat × Nat) : Prop := x.1 + x.2 ≤ y.1 ∨ y.1 + y.2 ≤ x.1

/-- With the live blocks `live`, every unit below `BRK` belongs to exactly one live or free block: the blocks lie below `BRK`,
no two overlap, and together they have `BRK` units; and `BRK ≤ U`. -/
structure SubAlloc.Accounts (a : SubAlloc) (live : List (Nat × Nat)) : Prop where
  sizes : ∀ b ∈ live ++ a.freeBlocks, 1 ≤ b.2 ∧ b.2 ≤ Config.saMaxBlock
  below : ∀ b ∈ live ++ a.freeBlocks, b.1 + b.2 ≤ a.brk
  disjoint : (live ++ a.freeBlocks).Pairwise apart
  total : ((live ++ a.freeBlocks).map (·.2)).sum = a.brk
  budget : a.brk ≤ a.u

/-! ### The PPM model -/

/-- A model as `ppm_create` and `ppm_restart` leave it (spec/45_ppm_model.md R260, R261): the root at unit 0 is the only context, with
256 symbols of count 1 and no child in the block at unit 1. -/
structure PpmModel.Fresh (m : PpmModel) (order : Nat) : Prop where
  alloc : m.alloc = true
  order : m.order = order
  place : m.root = 0 ∧ m.minctx = some 0 ∧ m.ord = 0
  see : ∀ i < 16, (m.see[i]?).map BitVec.toNat = some (16 * (i / 2 + 1))
  arena : m.arena = [(0, .ctx 256 256 (some 1) none),
    (1, .stats ((List.range 256).map fun i => ⟨BitVec.ofNat 8 i, 1, none⟩))]

/-! ### Filters -/

/-- Where the bytes of channel `c` of `ch` begin in a channel-planar sequence of `n` bytes (spec/47_filtervm.md R333). -/
def planeStart (n ch c : Nat) : Nat := ((List.range c).map fun j => (n - j + ch - 1) / ch).sum

/-! ### Steps -/

/-- No action of the host is due: the next step is the CORE's own. -/
def State.quiet (s : State) : Bool :=
  match s.host with
  | [] => true
  | e :: _ => e.delay != 0 && !s.isIdle

/-- The state in which the CORE's own step runs: the host's coming action is one step nearer. -/
def State.tick (s : State) : State :=
  match s.host with
  | [] => s
  | e :: rest => s.setHost ({ e with delay := e.delay - 1 } :: rest)

/-- What spec/70_reset_and_hazards.md R432 gives as values after a reset. -/
structure State.AtReset (s : State) : Prop where
  fsm : s.ses.fsm = .idle
  cursor : s.cur.bitpos = 0 ∧ s.cur.rd = 0 ∧ s.cur.top = 0 ∧ s.cur.bufbase = 0 ∧ s.cur.eos = false
  header : s.ses.blockEnd = 0 ∧ s.ses.hTables = false ∧ s.ses.hAudio = false ∧ s.ses.hPpm = false
  latched : s.ses.verL = 7 ∧ s.ses.targetL = 0 ∧ s.ses.fileStart = 0
  window : s.win.w = 0 ∧ s.win.pos = 0 ∧ s.win.first = false ∧ s.win.tw = 0 ∧ s.win.tf = 0
  windowBytes : ∀ a, Memory.read s.win.mem a = 0
  tables : ∀ id < 7, (s.tabs.byId id).valid = false ∧ (s.tabs.byId id).fake = none
  tablesValid : s.tabs.tablesValid = false ∧ s.tabs.audioValid = false
  lastMatch : (∀ k < 4, s.tok.cacheAt k = 0) ∧ s.tok.lastLen = 0 ∧ s.tok.lastDist = 0
  statistics : s.tok.g1Ld = .reset 291 ∧ s.tok.g1Dd = .reset 48 ∧ s.tok.g1Rd = .reset 28
  audio : s.tok.audioCh = 1 ∧ s.tok.acur = 0 ∧ s.tok.alast = Vector.replicate 4 0
  params : s.par = ⟨3, 0x00040000#32, false, 0, 0, 2, 0x00100000#32, false⟩
  status : s.st = ⟨.none, .none, .none, 0, 0, 0, false, 0⟩
  ppm : s.ppm.alloc = false ∧ s.ppm.disabled = false ∧ s.ppm.esc = 2
  coder : s.rc = ⟨0, 0, 0xFFFFFFFF#32⟩
  arena : s.sa.u = 0 ∧ s.sa.brk = 0 ∧ s.sa.freeBlocks = []
  vm : s.vm.regs = Vector.replicate 8 0 ∧ s.vm.fq = [] ∧ s.vm.store = Vector.replicate 16 none

/-- A safe step: it gives a next state. -/
def StepsOn (s : State) : Prop := ∃ t, step s = .next t

end Sys2Proof.Machine
end

