-- ==== Sys2Proof/Certificates/Slice0/Obligations.lean ====
section
/-! DEFINITION. The statements for the provers. `Out` is the outcome of a step; in every statement the next state is written
as the old state with the parts named that change, so that each statement is its instruction's frame too. -/

open Sys2Proof Sys2Proof.Machine

/-! ### Commands of the session -/

/-- R104, whole: accepted in every state, also while a session runs; `CMD_ERR` is the only state it changes. -/
def Obligations.NopChangesOnlyCmdErr : Prop :=
  ∀ s : State, exec .nop s = .next { s with st := { s.st with cmdErr := false } }

/-- `RESET` (R430) is accepted in every state and gives every item the value R432 states; `State.reset` has them too. One that
comes while the CORE is blocked in a port call takes effect when the call returns, whose result is discarded: in a refill of a
command or of a token boundary, and in the write of a flush or of a PPM_ONLY byte; nothing is written after it. That the
port, the output, the host's actions and the catalogue stay is the model's (log entries 2, 3, 4, 24, 29). -/
def Obligations.ResetGivesPowerOnValues : Prop :=
  let around (s t : State) (port : List PortRead) (out : OutPort) : Prop :=
    t.AtReset ∧ t.cur.port = port ∧ t.cur.skip = 0 ∧ t.out = out ∧ t.host = s.host ∧ t.readData = s.readData ∧ t.catalogue = s.catalogue
  State.reset.AtReset ∧
  (∀ s : State, ∃ t, exec .reset s = .next t ∧ around s t s.cur.port s.out) ∧
  (∀ s : State, ∀ rest, s.isIdle = true → s.cur.eos = false → s.cur.top - s.cur.rd < 30 → s.cur.port = .reset :: rest →
    ∀ i ∈ [Instr.bcPeek 32, .bcRefill, .bcExhausted], ∃ t, exec i s = .next t ∧ around s t rest s.out) ∧
  (∀ (s : State) (c : Cursor), s.quiet = true → s.par.cancel = false → refill s.cur = .error .reset c →
    (s.ses.fsm ∈ [Fsm.lz, .aud, .ppm] ∧ s.targetReached = false ∨ s.ses.fsm = .ppmonly ∧ s.st.written < s.ses.targetL) →
    ∃ t, step s = .next t ∧ around s.tick t c.port s.out) ∧
  (∀ (s : State) (b : Bool) (rest : List PortWrite), s.out.answers = .reset b :: rest → s.st.written < s.ses.targetL →
    (∀ x : Byte, ∃ t, exec (.ppmonlyByte x) s = .next t ∧
      around s t s.cur.port ⟨s.out.bytes ++ if b then [x] else [], rest⟩) ∧
    (s.vm.fq = [] → s.win.tf < s.win.tw →
      let chunk := (s.win.range s.win.tf (s.win.tw - s.win.tf)).take (s.ses.targetL - s.st.written)
      (∀ i ∈ [Instr.end00, .audEnd00, .end01, .audEnd01, .end10, .audEnd10, .end11, .audEnd11, .ppmNewfile],
        ∃ t, exec i s = .next t ∧ around s t s.cur.port ⟨s.out.bytes ++ if b then chunk else [], rest⟩) ∧
      (s.isIdle = true → s.win.w ≠ 0 →
        ∃ t, exec .winFlush s = .next t ∧ around s t s.cur.port ⟨s.out.bytes ++ if b then chunk else [], rest⟩)))

/-- `CANCEL` sets the flag in every state (R83), and the next poll ends the session with `PARTIAL` and no flush (R357, R358):
a header, an LZ, audio or PPM token, or a PPM_ONLY byte is not begun. A table read or a sub-header is within its header's
iteration (R356; log entry 5). -/
def Obligations.CancelEndsTheSessionAtTheNextPoll : Prop :=
  (∀ s : State, exec .cancel s =
    .next { s with st := { s.st with cmdErr := false }, par := { s.par with cancel := true } }) ∧
  (∀ s : State, s.quiet = true → s.par.cancel = true → s.ses.fsm ∈ [Fsm.hdr, .lz, .aud, .ppm, .ppmonly] →
    step s = .next { s.tick with
      st := { s.st with kind := .partialRun, reason := .none, detail := .none, consumed := s.cur.consumedBytes },
      vm := { s.vm with fq := [] }, ses := { s.ses with fsm := .done } })

/-- A solid `START` (R353, R433): the previous session used the same mode and succeeded; with a latched window everything R433
lists is kept and the stream, the counters and the status begin anew (R350). -/
def Obligations.SolidStartKeepsAdaptiveState : Prop :=
  ∀ s : State, s.isIdle = true → s.par.version.toNat ≤ 3 → s.par.solid = true → s.ses.verL = s.par.version →
    s.st.kind = .success → s.win.w ≠ 0 →
    ∃ t, exec .start s = .next t ∧
      t.cur.bitpos = 0 ∧ t.cur.rd = 0 ∧ t.cur.top = 0 ∧ t.cur.eos = false ∧ t.cur.skip = 0 ∧ t.cur.port = s.cur.port ∧
      t = { s with
        cur := t.cur, par := { s.par with cancel := false },
        st := ⟨.none, .none, .none, 0, 0, 0, false, s.st.result⟩,
        ses := ⟨.hdr, 0, false, false, false, s.par.version,
                s.par.targetHi.toNat * 2 ^ 32 + s.par.targetLo.toNat, s.win.tw⟩ }

/-- A `START` that is not solid (R350 to R353, R430c), `VERSION` 0 to 3 and a legal `WINSIZE`: everything is at its reset value
but the parameters, `RESULT` and what `START` sets; the window is all zero, of `max(WINSIZE, W_MIN)` bytes. The second clause
is a solid `START` that finds `W = 0`: it latches the window and keeps the rest. -/
def Obligations.FreshStartClearsTheDecoder : Prop :=
  ∀ (s : State) (k : Nat), s.isIdle = true → s.par.version.toNat ≤ 3 → s.par.winsize.toNat = 2 ^ k → k ≤ 30 →
    (¬(s.par.solid = true ∧ s.ses.verL = s.par.version ∧ s.st.kind = .success) →
      ∃ t, exec .start s = .next t ∧
        t.win = ⟨[], 0, false, max (2 ^ k) 262144, 0, 0⟩ ∧
        t.ses = ⟨.hdr, 0, false, false, false, s.par.version,
                 s.par.targetHi.toNat * 2 ^ 32 + s.par.targetLo.toNat, 0⟩ ∧
        t.par = { s.par with cancel := false } ∧
        t.st = ⟨.none, .none, .none, 0, 0, 0, false, s.st.result⟩ ∧
        t.cur.bitpos = 0 ∧ t.cur.top = 0 ∧ t.cur.eos = false ∧ t.cur.skip = 0 ∧ t.cur.port = s.cur.port ∧
        (∀ id < 7, (t.tabs.byId id).valid = false) ∧ t.tabs.tablesValid = false ∧ t.tabs.audioValid = false ∧
        t.tok = State.reset.tok ∧ t.ppm.alloc = false ∧ t.ppm.disabled = false ∧ t.ppm.esc = 2 ∧
        t.rc = ⟨0, 0, 0xFFFFFFFF#32⟩ ∧ t.sa.u = 0 ∧ t.sa.brk = 0 ∧ t.sa.freeBlocks = [] ∧
        t.vm.fq = [] ∧ t.vm.store = Vector.replicate 16 none ∧ t.vm.regs = Vector.replicate 8 0) ∧
    (s.par.solid = true → s.ses.verL = s.par.version → s.st.kind = .success → s.win.w = 0 →
      ∃ t, exec .start s = .next t ∧ t.win = ⟨[], 0, false, max (2 ^ k) 262144, 0, 0⟩ ∧ t.ses.fsm = .hdr ∧
        t.tabs = s.tabs ∧ t.tok = s.tok ∧ t.ppm = s.ppm ∧ t.sa = s.sa ∧ t.rc = s.rc ∧ t.vm = s.vm)

/-- `START` with `VERSION = 4` (R364, R350): the model of a solid chain is kept, else one is created from `PPM_ORDER` and
`PPM_MEM` (1548 bytes are 129 units, R262); the range coder takes the first four bytes of the stream; window, tables, tokens and
Filter VM are at their reset values unless the start is solid (R430c, R432, R433). With less memory the session ends at once
with `(CORRUPT, NOMEM)`. -/
def Obligations.PpmOnlyStartCreatesOrKeepsTheModel : Prop :=
  ∀ s : State, s.isIdle = true → s.par.version = 4 →
    let solid := s.par.solid = true ∧ s.ses.verL = 4 ∧ s.st.kind = .success
    let stream := s.cur.attach
    (stream.ready = true → (solid ∧ s.ppm.alloc = true ∨ 1548 ≤ s.par.ppmMem.toNat) →
      ∃ t, exec .start s = .next t ∧ t.ses.fsm = .ppmonly ∧ t.ppm.alloc = true ∧
        t.rc = ⟨0, BitVec.ofNat 32 (stream.streamNat 0 32), 0xFFFFFFFF#32⟩ ∧ t.cur.bitpos = 32 ∧
        t.ses.verL = 4 ∧ t.ses.targetL = s.par.targetHi.toNat * 2 ^ 32 + s.par.targetLo.toNat ∧
        t.st = ⟨.none, .none, .none, 0, 0, 0, false, s.st.result⟩ ∧ t.par = { s.par with cancel := false } ∧
        (solid ∧ s.ppm.alloc = true → t.ppm = s.ppm ∧ t.sa = s.sa) ∧
        (¬(solid ∧ s.ppm.alloc = true) →
          t.ppm.Fresh (min (max s.par.ppmOrder.toNat 2) 16) ∧ t.sa.u = s.par.ppmMem.toNat / 12 ∧ t.sa.brk = 129 ∧
          t.sa.freeBlocks = []) ∧
        (solid → t.win = s.win ∧ t.tabs = s.tabs ∧ t.tok = s.tok ∧ t.vm = s.vm ∧ t.ppm.esc = s.ppm.esc ∧
          t.ppm.disabled = s.ppm.disabled) ∧
        (¬solid → t.win = ⟨[], 0, false, 0, 0, 0⟩ ∧ (∀ id < 7, (t.tabs.byId id).valid = false) ∧
          t.tabs.tablesValid = false ∧ t.tabs.audioValid = false ∧ t.tok = State.reset.tok ∧ t.ppm.esc = 2 ∧
          t.ppm.disabled = false ∧ t.vm.fq = [] ∧ t.vm.store = Vector.replicate 16 none ∧
          t.vm.regs = Vector.replicate 8 0)) ∧
    (¬(solid ∧ s.ppm.alloc = true) → s.par.ppmMem.toNat < 1548 →
      ∃ t, exec .start s = .next t ∧ t.ses.fsm = .done ∧ t.st.kind = .failure ∧ t.st.reason = .corrupt ∧
        t.st.detail = .nomem ∧ t.st.cmdErr = false ∧ t.ppm.alloc = false)

/-- R351, whole: `VERSION` 5 to 7 refuse `START`. -/
def Obligations.ReservedVersionRefusesStart : Prop :=
  ∀ s : State, 5 ≤ s.par.version.toNat → exec .start s = .next { s with st := { s.st with cmdErr := true } }

/-- R352: a `START` that has to latch `W` is refused if `WINSIZE` is 0, no power of two or above `2^30`; so is `WIN.INIT`. -/
def Obligations.IllegalWindowSizeIsRefused : Prop :=
  ∀ s : State, (∀ k ≤ 30, s.par.winsize.toNat ≠ 2 ^ k) →
    exec .winInit s = .next { s with st := { s.st with cmdErr := true } } ∧
    (s.par.version.toNat ≤ 3 →
      ¬(s.par.solid = true ∧ s.ses.verL = s.par.version ∧ s.st.kind = .success ∧ s.win.w ≠ 0) →
      exec .start s = .next { s with st := { s.st with cmdErr := true } })

/-- Which commands are refused (R82, R405, and the operand conditions of R136, R137, R153, R156, R157, R175 to R179, R287,
R300, R302, R303, R340, R344 to R347): while busy all but `NOP`, `RESET`, `CANCEL`; when idle those whose own condition fails.
A refused command changes `CMD_ERR` only. A command word whose `op` R83 does not list is refused in every state. A port error
refuses the command that met it, with the cursor as the port left it (R134, R82); inside `RC.INIT` and `PPM.DECODE` (R248, R287)
too, where the coder, the model and the allocator stay as they were (log entry 19). -/
def Obligations.RefusedCommandsHaveNoEffect : Prop :=
  (∀ (i : Instr) (c : Ctx) (s : State), slotOf c i = .cmd → i ∉ [.nop, .reset, .cancel] → s.isIdle = false →
    exec i s = .next { s with st := { s.st with cmdErr := true } }) ∧
  (∀ (s : State) (i : Instr),
    ((∃ n : Word, 32 < n.toNat ∧ (i = .bcPeek n ∨ i = .bcConsume n)) ∨
     (∃ x l : Word, (1027 < x.toNat ∨ 255 < l.toNat) ∧ i = .hufSetlen x l) ∨
     (∃ id n : Word, (6 < id.toNat ∨ n = 0 ∨ (id = 0 ∧ 291 < n.toNat) ∨ (id = 1 ∧ 48 < n.toNat) ∨
        (id = 2 ∧ 28 < n.toNat) ∨ (3 ≤ id.toNat ∧ 257 < n.toNat)) ∧ i = .hufBuild id n) ∨
     (∃ id : Word, (6 < id.toNat ∨ (s.tabs.byId id.toNat).valid = false) ∧ i = .hufDecode id) ∨
     (∃ b : Word, (255 < b.toNat ∨ s.win.w = 0 ∨ s.win.w < s.win.tw - s.win.tf + 1) ∧ i = .winPut b) ∨
     (∃ d n : Word, (s.win.w = 0 ∨ s.win.w < s.win.tw - s.win.tf + n.toNat) ∧ i = .winCopy d n) ∨
     (s.win.w = 0 ∧ (i = .winFlush ∨ i = .winStat ∨ ∃ x, i = .winRead x)) ∨
     (s.ppm.alloc = false ∧ i = .ppmDecode) ∨
     (∃ n : Word, (s.ppm.alloc = true ∨ n = 0 ∨ 128 < n.toNat) ∧ i = .saAlloc n) ∨
     (∃ x n : Word, (s.ppm.alloc = true ∨ n = 0 ∨ 128 < n.toNat ∨ s.sa.brk < x.toNat + n.toNat) ∧ i = .saFree x n) ∨
     (i = .saInit 0xFFFFFFFF#32) ∨
     (∃ o b : Word, (262144 ≤ o.toNat ∨ 255 < b.toNat) ∧ i = .fvLoad o b) ∨
     (∃ r v : Word, 7 < r.toNat ∧ i = .fvSetreg r v) ∨
     (∃ k n : Word, (6 < k.toNat ∨ 262144 < n.toNat) ∧ i = .fvExec k n) ∨
     (∃ o : Word, 262144 ≤ o.toNat ∧ i = .fvRead o) ∨
     (∃ n : Word, 262144 < n.toNat ∧ i = .fvIdent n)) →
    exec i s = .next { s with st := { s.st with cmdErr := true } }) ∧
  (∀ (s : State) (w : BitVec 72) (d : Nat) (rest : List HostEvent),
    (w.extractLsb' 64 8).toNat ∉ [0x00, 0x01, 0x02, 0x03, 0x10, 0x11, 0x12, 0x13, 0x14, 0x15, 0x20, 0x21, 0x22, 0x30, 0x31,
      0x32, 0x33, 0x34, 0x35, 0x40, 0x41, 0x42, 0x43, 0x44, 0x45, 0x50, 0x51, 0x52, 0x53, 0x54] →
    s.host = ⟨d, .cmd w⟩ :: rest → d = 0 ∨ s.isIdle = true →
    step s = .next { s with host := rest, st := { s.st with cmdErr := true } }) ∧
  (∀ (s : State) (f : Fatal) (c : Cursor) (i : Instr), s.isIdle = true → refill s.cur = .error (.fatal f) c →
    (∃ n : Word, n.toNat ≤ 32 ∧ i = .bcPeek n) ∨ i = .bcRefill ∨ i = .bcExhausted ∨
    (∃ id : Word, id.toNat ≤ 6 ∧ (s.tabs.byId id.toNat).valid = true ∧ (s.tabs.byId id.toNat).fake = none ∧
      i = .hufDecode id) →
    c.bitpos = s.cur.bitpos ∧ exec i s = .next { s with cur := c, st := { s.st with cmdErr := true } }) ∧
  (∀ (s : State) (f : Fatal) (w : PpmWorld), s.isIdle = true →
    (rcInit { s.world with cur := s.cur.align } = .error (.fatal f) w →
      exec .rcInit s = .next { s with cur := w.cur, st := { s.st with cmdErr := true } }) ∧
    (s.ppm.alloc = true → ppmDecode s.world = .error (.fatal f) w →
      exec .ppmDecode s = .next { s with cur := w.cur, st := { s.st with cmdErr := true } }))

/-! ### The bit cursor -/

/-- `BC.ATTACH` (R133), `BC.CONSUME` (R137, R126) and `BC.ALIGN` (R139, R128): where each leaves `BITPOS`, and that the stream ahead
moves by just that; nothing else but the cursor changes, and never the port. `RD` and `BIT` are as R126 says where R121 lets
`RD` stand there, and `RD ≤ TOP` holds after both while `EOS = 0` (R121); where R126 would take `RD` past `TOP` before that, how
the cursor holds its place is the model's (log entry 27). -/
def Obligations.CursorCommandsMoveBitpos : Prop :=
  ∀ s : State, s.isIdle = true →
    (∃ t, exec .bcAttach s = .next t ∧ t.cur.bitpos = 0 ∧ t.cur.rd = 0 ∧ t.cur.top = 0 ∧ t.cur.bufbase = 0 ∧
      t.cur.eos = false ∧ t.cur.skip = 0 ∧ t.cur.port = s.cur.port ∧ t = { s with st := { s.st with cmdErr := false }, cur := t.cur }) ∧
    (∀ n : Word, n.toNat ≤ 32 → ∃ t, exec (.bcConsume n) s = .next t ∧ t.cur.bitpos = s.cur.bitpos + n.toNat ∧
      (∀ k, t.cur.streamBit k = s.cur.streamBit (n.toNat + k)) ∧ (t.cur.eos = false → t.cur.rd ≤ t.cur.top) ∧
      (s.cur.eos = true ∨ s.cur.rd + (s.cur.bit.val + n.toNat) / 8 ≤ s.cur.top →
        t.cur = { s.cur with rd := s.cur.rd + (s.cur.bit.val + n.toNat) / 8, bit := t.cur.bit }) ∧
      t = { s with
        st := { s.st with cmdErr := false },
        cur := { s.cur with
          buf := t.cur.buf, bufbase := t.cur.bufbase, rd := t.cur.rd, bit := t.cur.bit, skip := t.cur.skip } }) ∧
    (∃ t, exec .bcAlign s = .next t ∧ t.cur.bitpos = 8 * ((s.cur.bitpos + 7) / 8) ∧ t.cur.bit = 0 ∧
      (∀ k, t.cur.streamBit k = s.cur.streamBit ((8 - s.cur.bit.val) % 8 + k)) ∧
      (s.cur.eos = true ∨ s.cur.rd ≤ s.cur.top → t.cur.eos = true ∨ t.cur.rd ≤ t.cur.top) ∧
      (s.cur.eos = true ∨ s.cur.rd < s.cur.top → t.cur = { s.cur with rd := t.cur.rd, bit := 0 }) ∧
      t = { s with
        st := { s.st with cmdErr := false },
        cur := { s.cur with
          buf := t.cur.buf, bufbase := t.cur.bufbase, rd := t.cur.rd, bit := t.cur.bit, skip := t.cur.skip } })

/-- `BC.PEEK n` (R136, R124, R125, R131): `RESULT` is the next `n` bits of the stream the port delivers, zeros past its end,
whatever the sizes of the port's answers; `BITPOS` and the stream ahead are unchanged. -/
def Obligations.PeekGivesTheNextBitsOfTheStream : Prop :=
  ∀ (s : State) (n : Word), s.isIdle = true → n.toNat ≤ 32 → s.cur.ready = true →
    ∃ t, exec (.bcPeek n) s = .next t ∧ t.st.result = BitVec.ofNat 32 (s.cur.streamNat 0 n.toNat) ∧
      t.cur.bitpos = s.cur.bitpos ∧ (∀ k, t.cur.streamBit k = s.cur.streamBit k) ∧ t.cur.ready = true ∧
      t = { s with st := { s.st with cmdErr := false, result := t.st.result }, cur := t.cur }

/-- `BC.EXHAUSTED` (R122, R130, R131) tells from the whole stream whether a bit is left or a zero bit has been consumed;
`BC.REFILL` (R138, R129) leaves at least 30 unconsumed bytes (so that `RD ≤ TOP`, R121) or the end of the stream seen, and moves
nothing. -/
def Obligations.ExhaustedTellsTheEndOfTheStream : Prop :=
  ∀ s : State, s.isIdle = true → s.cur.ready = true → s.cur.Sound →
    (∃ t, exec .bcExhausted s = .next t ∧
      t.st.result = (if s.cur.beyond then 2 else if s.cur.bitsLeft = 0 then 1 else 0) ∧
      t.cur.bitpos = s.cur.bitpos ∧ (∀ k, t.cur.streamBit k = s.cur.streamBit k) ∧
      t = { s with st := { s.st with cmdErr := false, result := t.st.result }, cur := t.cur }) ∧
    (∃ t, exec .bcRefill s = .next t ∧ (30 ≤ t.cur.top - t.cur.rd ∨ t.cur.eos = true) ∧
      t.cur.bitpos = s.cur.bitpos ∧ (∀ k, t.cur.streamBit k = s.cur.streamBit k) ∧
      t = { s with st := { s.st with cmdErr := false }, cur := t.cur })

/-! ### Huffman tables -/

/-- `HUF.SETLEN` (R153) stages one length; `HUF.BUILD` (R156, R142 to R146) builds table `id` of the staged lengths, answers 0 iff
the code space does not close at length 16 and some length exceeds 16 (R143), and leaves every other table and the two valid
bits. The table built is the one `HufDecodeReadsOneSymbol`, `QuickTableAgreesWithTheScan` and `CanonicalCodeWordsDecode` speak
of; its counts, limits, positions and symbols are as R142 and R144 say. -/
def Obligations.StagedLengthsBuildATable : Prop :=
  ∀ s : State, s.isIdle = true →
    (∀ (x : Fin 1028) (l : Byte), exec (.hufSetlen (BitVec.ofNat 32 x.val) (l.setWidth 32)) s =
      .next { s with st := { s.st with cmdErr := false }, tabs := { s.tabs with lenbuf := s.tabs.lenbuf.set x.val l } }) ∧
    (∀ id n : Word, id.toNat ≤ 6 → 1 ≤ n.toNat → n.toNat ≤ ([291, 48, 28, 257, 257, 257, 257].getD id.toNat 0) →
      let lens := s.tabs.lenbuf.toList.take n.toNat
      let rejected := kraft lens ≠ 65536 ∧ ∃ l ∈ lens, 16 < l.toNat
      ∃ t, exec (.hufBuild id n) s = .next t ∧
        (rejected → t.st.result = 0 ∧ (t.tabs.byId id.toNat).valid = false) ∧
        (¬rejected → t.st.result = 1 ∧
          let table := t.tabs.byId id.toNat
          HuffTable.build lens n.toNat = some table ∧ table.valid = true ∧ table.count = n.toNat ∧ table.len = lens ∧
          (∀ l, 1 ≤ l → l ≤ 16 → table.cnt.getD l 0 = lens.countP (·.toNat = l) ∧
            table.pos.getD l 0 = lens.countP (fun y => 1 ≤ y.toNat ∧ y.toNat < l) ∧
            table.limit.getD l 0 = table.limit.getD (l - 1) 0 + lens.countP (·.toNat = l) * 2 ^ (16 - l)) ∧
          table.limit.getD 0 0 = 0 ∧
          (∀ x < n.toNat, ∀ l, (lens.getD x 0).toNat = l → 1 ≤ l → l ≤ 16 →
            table.sym.getD (lens.countP (fun y => 1 ≤ y.toNat ∧ y.toNat < l) +
              (lens.take x).countP (·.toNat = l)) 0 = x)) ∧
        (∀ j < 7, j ≠ id.toNat → t.tabs.byId j = s.tabs.byId j) ∧
        t.tabs.tablesValid = s.tabs.tablesValid ∧ t.tabs.audioValid = s.tabs.audioValid ∧
        t.tabs.lenbuf = s.tabs.lenbuf ∧
        t = { s with st := { s.st with cmdErr := false, result := t.st.result }, tabs := t.tabs })

/-- `HUF.DECODE` (R157, R147 to R149) on a table built from `lens`: with one coded symbol, that symbol and its length, without
the port; else what the scan finds for the next 16 bits, `CLAMP` noted iff it finds no length. -/
def Obligations.HufDecodeReadsOneSymbol : Prop :=
  ∀ (s : State) (id : Word) (lens : List Byte), s.isIdle = true → id.toNat ≤ 6 → s.cur.ready = true →
    (s.tabs.byId id.toNat).valid = true → HuffTable.build lens lens.length = some (s.tabs.byId id.toNat) →
    let table := s.tabs.byId id.toNat
    (∀ x l, table.fake = some (x, l) → exec (.hufDecode id) s =
      .next { s with st := { s.st with cmdErr := false, result := BitVec.ofNat 32 x }, cur := s.cur.consume l }) ∧
    (table.fake = none → ∃ t, exec (.hufDecode id) s = .next t ∧
      let f := table.scan (s.cur.streamNat 0 16)
      1 ≤ f.len ∧ f.len ≤ 16 ∧
      t.cur.bitpos = s.cur.bitpos + f.len ∧ (∀ k, t.cur.streamBit k = s.cur.streamBit (f.len + k)) ∧
      (f.clamp = true → f.sym = 0 ∧ f.len = 16) ∧
      t = { s with
        st := { s.st with
          cmdErr := false, result := BitVec.ofNat 32 f.sym,
          events := if f.clamp then s.st.events ||| 2 else s.st.events },
        cur := t.cur })

/-- R150: for every table `build` accepts, the quick table and the scan answer every probe alike. -/
def Obligations.QuickTableAgreesWithTheScan : Prop :=
  ∀ (lens : List Byte) (table : HuffTable) (v : Nat), HuffTable.build lens lens.length = some table → v < 65536 →
    table.lookup v = table.scan v

/-- R152 (a), R140: where the code space is not over-subscribed, every probe that begins with the canonical code word of a
symbol decodes to that symbol and its length. -/
def Obligations.CanonicalCodeWordsDecode : Prop :=
  ∀ (lens : List Byte) (table : HuffTable) (x l v : Nat), HuffTable.build lens lens.length = some table →
    kraft lens ≤ 65536 → x < lens.length → (lens.getD x 0).toNat = l → 1 ≤ l → l ≤ 16 → v < 65536 →
    v / 2 ^ (16 - l) = codeWord lens x → table.lookup v = ⟨x, l, false⟩

/-- R228: one adaptation keeps the statistics of an alphabet a permutation sorted by count, and returns the symbol that had
the rank. -/
def Obligations.AdaptationKeepsTheOrderSorted : Prop :=
  ∀ (a : Adaptive) (n r : Nat), a.Sound n → a.sorted = true → r < n →
    (a.adapt r).2.Sound n ∧ (a.adapt r).2.sorted = true ∧ (a.adapt r).1 = a.order.getD r 0 ∧
    ((a.freq.getD (a.order.getD r 0) 0).toNat < 255 →
      (a.adapt r).2.freq = a.freq.set (a.order.getD r 0) (a.freq.getD (a.order.getD r 0) 0 + 1))

/-! ### The history window -/

/-- `WIN.INIT` (R172, R352), `WIN.READ` (R177) and `WIN.STAT` (R179). -/
def Obligations.WindowInitReadStat : Prop :=
  ∀ s : State, s.isIdle = true →
    (∀ k ≤ 30, s.par.winsize.toNat = 2 ^ k → exec .winInit s =
      .next { s with
        win := ⟨[], 0, false, max (2 ^ k) 262144, 0, 0⟩, vm := { s.vm with fq := [] },
        ses := { s.ses with fileStart := 0, targetL := s.par.targetHi.toNat * 2 ^ 32 + s.par.targetLo.toNat },
        st := { s.st with cmdErr := false, written := 0 } }) ∧
    (s.win.w ≠ 0 → ∀ x : Word, exec (.winRead x) s =
      .next { s with st := { s.st with
        cmdErr := false, result := (Memory.read s.win.mem (x.toNat % s.win.w)).setWidth 32 } }) ∧
    (s.win.w ≠ 0 → exec .winStat s =
      .next { s with st := { s.st with
        cmdErr := false, result := BitVec.ofNat 32 (s.win.pos + if s.win.first then 2147483648 else 0) } })

/-- `WIN.PUT` (R175, R163): one byte at `POS`, every other byte of the window as before. -/
def Obligations.WinPutWritesOneByte : Prop :=
  ∀ (s : State) (b : Byte), s.isIdle = true → Memory.wf s.win.mem = true → s.win.w ≠ 0 →
    s.win.tw - s.win.tf + 1 ≤ s.win.w →
    ∃ t, exec (.winPut (b.setWidth 32)) s = .next t ∧
      Memory.read t.win.mem s.win.pos = b ∧ (∀ a, a ≠ s.win.pos → Memory.read t.win.mem a = Memory.read s.win.mem a) ∧
      t.win.pos = (s.win.pos + 1) % s.win.w ∧ t.win.tw = s.win.tw + 1 ∧
      (t.win.first = true ↔ s.win.first = true ∨ t.win.pos = 0) ∧ t.win.w = s.win.w ∧ t.win.tf = s.win.tf ∧
      t = { s with st := { s.st with cmdErr := false }, win := t.win }

/-- `WIN.COPY` (R176): `copyMatch` on the window, `ZEROFILL` noted iff a byte is written and the copy is zero-filled (log entry
23); `CACHE`, `LAST_LEN`, `LAST_DIST` and all else stay. -/
def Obligations.WinCopyWritesLengthBytes : Prop :=
  ∀ (s : State) (d n : Word), s.isIdle = true → s.win.w ≠ 0 → s.win.tw - s.win.tf + n.toNat ≤ s.win.w →
    ∃ t, exec (.winCopy d n) s = .next t ∧ t.win = s.win.copyMatch d.toNat n.toNat ∧ t.win.tw = s.win.tw + n.toNat ∧
      t = { s with
        win := t.win,
        st := { s.st with
          cmdErr := false,
          events := if s.win.zeroFill d.toNat = true ∧ n ≠ 0 then s.st.events ||| 1 else s.st.events } }

/-- `copyMatch` on a window in use (R165 to R167, R441): the rule for zero fill; and byte `k` of the copy is 0, or the byte
`d` before the write position, repeated with period `d` (period `W` for `d = 0`); no other byte of the window changes. -/
def Obligations.CopyRepeatsTheLastBytes : Prop :=
  ∀ (x : Window) (d n : Nat), x.Sound → x.w ≠ 0 → n ≤ x.w →
    (x.first = false → (x.zeroFill d = true ↔ d = 0 ∨ x.tw < d)) ∧
    (x.first = true → (x.zeroFill d = true ↔ x.w < d)) ∧
    let y := x.copyMatch d n
    let p := if d = 0 then x.w else d
    y.w = x.w ∧ y.tf = x.tf ∧ y.tw = x.tw + n ∧ y.pos = (x.tw + n) % x.w ∧
    (∀ k < n, y.byteAt (x.tw + k) = if x.zeroFill d then 0 else x.byteAt (x.tw + x.w - p + k % p)) ∧
    (∀ a, (∀ k < n, a % x.w ≠ (x.tw + k) % x.w) → y.byteAt a = x.byteAt a)

/-- `WIN.FLUSH` (R178, R366, R367) with no filter waiting, as it always is when idle (R370): the bytes `[TF, TW)` go out, clipped
at `TARGET` (none goes out when it is 0: log entry 17); if the output port fails the command is refused and `TF`, `WRITTEN`
stay. -/
def Obligations.WinFlushWritesThePendingBytes : Prop :=
  ∀ s : State, s.isIdle = true → s.win.w ≠ 0 → s.vm.fq = [] →
    let pending := (s.win.range s.win.tf (s.win.tw - s.win.tf)).take (s.ses.targetL - s.st.written)
    (s.out.answers = [] → exec .winFlush s =
      .next { s with
        out := { s.out with bytes := s.out.bytes ++ pending }, win := { s.win with tf := s.win.tw },
        st := { s.st with cmdErr := false, written := s.st.written + pending.length } }) ∧
    (∀ rest, s.out.answers = .error :: rest → pending ≠ [] → exec .winFlush s =
      .next { s with out := { s.out with answers := rest }, st := { s.st with cmdErr := true } })

/-! ### The PPM model, the range coder, the sub-allocator -/

/-- `PPM.INIT` (R285, R260 to R262): a fresh model of the clamped order in `bytes div 12` units, if they are at least 129. -/
def Obligations.PpmInitCreatesAFreshModel : Prop :=
  ∀ (s : State) (order bytes : Word), s.isIdle = true →
    ∃ t, exec (.ppmInit order bytes) s = .next t ∧
      (t.ppm.alloc = true ↔ 129 ≤ bytes.toNat / 12) ∧ t.st.result = (if t.ppm.alloc then 1 else 0) ∧
      (t.ppm.alloc = true →
        t.ppm.order = min (max order.toNat 2) 16 ∧ t.ppm.root = 0 ∧ t.ppm.minctx = some 0 ∧ t.ppm.ord = 0 ∧
        t.sa.u = bytes.toNat / 12 ∧ t.sa.brk = 129 ∧ t.sa.freeBlocks = [] ∧
        (∀ i < 16, (t.ppm.see[i]?).map BitVec.toNat = some (16 * (i / 2 + 1))) ∧
        t.ppm.context 0 = some (256, 256, some 1, none) ∧
        t.ppm.entries (some 1) = some ((List.range 256).map fun i => ⟨BitVec.ofNat 8 i, 1, none⟩)) ∧
      t.ppm.esc = s.ppm.esc ∧ t.ppm.disabled = s.ppm.disabled ∧
      t = { s with st := { s.st with cmdErr := false, result := t.st.result }, ppm := t.ppm, sa := t.sa }

/-- `PPM.DECODE` (R287, R264): with a model and no port error it completes with a byte or one of the three other results, and
touches only the cursor, the coder, the model and the allocator. That it notes no event is the model's choice (log entry
15); that it completes also where a link of the model leads nowhere, or `RC_RANGE` is divided to 0, is the model's choice too (log
entries 10, 28). The two updates its byte causes: the frequency of the found symbol (R272), halving every count of the context when it
stands at 255, and a new last entry in each escaped context (R273), in a new block when the old one is full, which is freed
after the new one is allocated. -/
def Obligations.PpmDecodeGivesAByteOrASentinel : Prop :=
  (∀ s : State, s.isIdle = true → s.ppm.alloc = true → s.cur.ready = true →
    ∃ t, exec .ppmDecode s = .next t ∧ t.st.result.toNat ≤ 0x102 ∧ s.cur.bitpos ≤ t.cur.bitpos ∧
      t.ppm.esc = s.ppm.esc ∧ t.ppm.disabled = s.ppm.disabled ∧ t.ppm.order = s.ppm.order ∧ t.sa.u = s.sa.u ∧
      t = { s with
        st := { s.st with cmdErr := false, result := t.st.result }, cur := t.cur, rc := t.rc, ppm := t.ppm, sa := t.sa }) ∧
  (∀ (m : PpmModel) (c st : Nat) (n f : BitVec 16) (su : Option Nat) (es : List Entry) (b : Byte), c ≠ st →
    m.context c = some (n, f, some st, su) → m.entries (some st) = some es → Sparse.rising m.arena = true →
    let full := ∃ e ∈ es, e.sym = b ∧ e.freq = 255
    let count (e : Entry) : Nat := (if full then (e.freq.toNat + 1) / 2 else e.freq.toNat) + if e.sym = b then 1 else 0
    ∃ m1, m.bump c b = some m1 ∧
      m1.entries (some st) = some (es.map fun e => { e with freq := BitVec.ofNat 8 (count e) }) ∧
      m1.context c = some (n, if full then BitVec.ofNat 16 (es.map count).sum else f + 1, some st, su) ∧
      (∀ i, i ≠ c → i ≠ st → Sparse.find m1.arena i = Sparse.find m.arena i) ∧ m1 = { m with arena := m1.arena }) ∧
  (∀ (m : PpmModel) (a : SubAlloc) (x : Nat) (n f : BitVec 16) (st su : Option Nat) (es : List Entry) (b : Byte),
    m.context x = some (n, f, st, su) → m.entries st = some es → (st = none ↔ n = 0) → st ≠ some x →
    Sparse.rising m.arena = true →
    (n.toNat % 2 = 1 → ∃ m1, appendSymbol m a x b = .done m1 a ∧ m1.entries st = some (es ++ [⟨b, 1, none⟩]) ∧
      m1.context x = some (n + 1, f + 1, st, su)) ∧
    (n.toNat % 2 = 0 → (a.alloc (n.toNat / 2 + 1)).1 = none → appendSymbol m a x b = .nomem) ∧
    (n.toNat % 2 = 0 → ∀ new, (a.alloc (n.toNat / 2 + 1)).1 = some new → new ≠ x →
      ∃ m1 a1, appendSymbol m a x b = .done m1 a1 ∧ m1.entries (some new) = some (es ++ [⟨b, 1, none⟩]) ∧
        m1.context x = some (n + 1, f + 1, some new, su) ∧
        (∀ old, st = some old → a1 = (a.alloc (n.toNat / 2 + 1)).2.free old (n.toNat / 2)) ∧
        (st = none → a1 = (a.alloc (n.toNat / 2 + 1)).2)))

/-- The first two bytes of a fresh model and the model after each (R265, R261, R242, R268, R271 to R273, R275, R279; worked in R249 and
R286). First: 256 symbols of count 1 and the escape estimate 8 make `T = 264`; the found symbol is counted and gets a child
of order 1 at unit 129, or, where no unit is left, the model restarts and the byte is delivered all the same. Second: the
empty context of order 1 is passed without a coded decision and gets the symbol in a new block at unit 130; then the root's
entry and that new entry get their children, unless they have one, each with the right suffix. -/
def Obligations.FreshModelDecodesByTheRootCounts : Prop :=
  ∀ (s : State) (m : PpmModel) (a : SubAlloc) (order units : Nat), s.isIdle = true → 2 ≤ order → order ≤ 16 → 129 ≤ units →
    s.ppm = (ppmCreate m a order units).1 → s.sa = (ppmCreate m a order units).2 → 2 ^ 16 ≤ s.rc.range.toNat →
    s.cur.ready = true →
    let k := (s.rc.code - s.rc.low).toNat / (s.rc.range.toNat / 264)
    ∃ t, exec .ppmDecode s = .next t ∧
      t.st.result = (if k < 256 then BitVec.ofNat 32 k else if k < 264 then 0x100 else 0x101) ∧
      (264 ≤ k → t.cur = s.cur ∧ t.ppm = s.ppm ∧ t.sa = s.sa) ∧
      (k < 264 → 2 ^ 16 ≤ t.rc.range.toNat) ∧
      (256 ≤ k → k < 264 → t.sa = s.sa ∧
        t.ppm = { s.ppm with see := t.ppm.see } ∧
        ∀ i < 16, (t.ppm.see[i]?).map BitVec.toNat = some (if i = 14 then 144 else 16 * (i / 2 + 1))) ∧
      (k < 256 → units = 129 → t.ppm = s.ppm ∧ t.sa = s.sa) ∧
      (k < 256 → 133 ≤ units →
        (∀ i < 16, (t.ppm.see[i]?).map BitVec.toNat = some (if i = 14 then 124 else 16 * (i / 2 + 1))) ∧
        t.ppm.alloc = true ∧ t.ppm.root = 0 ∧ t.ppm.minctx = some 129 ∧ t.ppm.ord = 1 ∧ t.ppm.order = order ∧
        t.sa.u = units ∧ t.sa.brk = 130 ∧ t.sa.freeBlocks = [] ∧
        t.ppm.context 0 = some (256, 257, some 1, none) ∧
        t.ppm.entries (some 1) = some ((List.range 256).map fun i =>
          if i = k then ⟨BitVec.ofNat 8 i, 2, some 129⟩ else ⟨BitVec.ofNat 8 i, 1, none⟩) ∧
        t.ppm.context 129 = some (0, 0, none, some 0) ∧
        (t.cur.ready = true →
          let k2 := (t.rc.code - t.rc.low).toNat / (t.rc.range.toNat / 264)
          let b := if k2 ≤ k then k2 else k2 - 1
          ∃ u, exec .ppmDecode t = .next u ∧
            u.st.result = (if k2 < 257 then BitVec.ofNat 32 b else if k2 < 264 then 0x100 else 0x101) ∧
            (k2 < 257 →
              (u.ppm.see[14]?).map BitVec.toNat = some 121 ∧ u.ppm.ord = 2 ∧
              u.ppm.context 0 = some (256, 258, some 1, none) ∧
              u.ppm.entries (some 1) = some ((List.range 256).map fun i =>
                ⟨BitVec.ofNat 8 i, (if i = k then 2 else 1) + (if i = b then 1 else 0),
                  if i = k then some 129 else if i = b then some 131 else none⟩) ∧
              u.ppm.context 129 = some (1, 1, some 130, some 0) ∧
              (b = k → u.ppm.entries (some 130) = some [⟨BitVec.ofNat 8 b, 1, some 131⟩] ∧
                u.ppm.context 131 = some (0, 0, none, some 129) ∧ u.ppm.minctx = some 131 ∧ u.sa.brk = 132) ∧
              (b ≠ k → u.ppm.entries (some 130) = some [⟨BitVec.ofNat 8 b, 1, some 132⟩] ∧
                u.ppm.context 131 = some (0, 0, none, some 0) ∧ u.ppm.context 132 = some (0, 0, none, some 131) ∧
                u.ppm.minctx = some 132 ∧ u.sa.brk = 133))))

/-- `SA.INIT` (R300, R291), `SA.ALLOC` (R302) and `SA.FREE` (R303, R293). `SA.ALLOC` follows the policy of R292 and R296: the top of
the exact bucket; else never-used space; else the top of the smallest larger bucket, its tail pushed back; else, once, the
same on the coalesced allocator (R294: `AllocatorBlocksStayDisjoint`); else `NIL`. That `SA.INIT` empties the model's list of
blocks is how the model holds the arena (log entry 9). -/
def Obligations.AllocatorCommands : Prop :=
  ∀ s : State, s.isIdle = true →
    (∀ u : Word, u.toNat ≤ 4294967294 → ∃ t, exec (.saInit u) s = .next t ∧
      t.sa.u = u.toNat ∧ t.sa.brk = 0 ∧ t.sa.freeBlocks = [] ∧ t.ppm.alloc = false ∧
      t = { s with st := { s.st with cmdErr := false }, sa := t.sa, ppm := { s.ppm with alloc := false, arena := [] } }) ∧
    (s.ppm.alloc = false → ∀ n : Word, 1 ≤ n.toNat → n.toNat ≤ 128 →
      exec (.saAlloc n) s = .next { s with
        st := { s.st with
          cmdErr := false, result := ((s.sa.alloc n.toNat).1.map (BitVec.ofNat 32)).getD 0xFFFFFFFF#32 },
        sa := (s.sa.alloc n.toNat).2 }) ∧
    (s.ppm.alloc = false → ∀ n : Word, 1 ≤ n.toNat → n.toNat ≤ 128 →
      let a := s.sa
      let answers (v : Word) (brk : Nat) (stack : Nat → List Nat) : Prop := ∃ t, exec (.saAlloc n) s = .next t ∧
        t.st.result = v ∧ t.sa.u = a.u ∧ t.sa.brk = brk ∧ ∀ m, 1 ≤ m → m ≤ 128 → t.sa.bucket m = stack m
      let noBlock (x : SubAlloc) : Prop := x.u < x.brk + n.toNat ∧ ∀ m, n.toNat ≤ m → m ≤ 128 → x.bucket m = []
      (∀ i rest, a.bucket n.toNat = i :: rest →
        answers (BitVec.ofNat 32 i) a.brk fun m => if m = n.toNat then rest else a.bucket m) ∧
      (a.bucket n.toNat = [] → a.brk + n.toNat ≤ a.u →
        answers (BitVec.ofNat 32 a.brk) (a.brk + n.toNat) a.bucket) ∧
      (∀ big b rest, a.u < a.brk + n.toNat → n.toNat < big → big ≤ 128 → a.bucket big = b :: rest →
        (∀ m, n.toNat ≤ m → m < big → a.bucket m = []) →
        answers (BitVec.ofNat 32 b) a.brk fun m =>
          if m = big then rest else if m = big - n.toNat then (b + n.toNat) :: a.bucket m else a.bucket m) ∧
      (noBlock a → ¬noBlock a.coalesce → exec (.saAlloc n) s = exec (.saAlloc n) { s with sa := a.coalesce }) ∧
      (noBlock a → noBlock a.coalesce → exec (.saAlloc n) s =
        .next { s with st := { s.st with cmdErr := false, result := 0xFFFFFFFF#32 }, sa := a.coalesce })) ∧
    (s.ppm.alloc = false → ∀ i n : Word, 1 ≤ n.toNat → n.toNat ≤ 128 → i.toNat + n.toNat ≤ s.sa.brk →
      ∃ t, exec (.saFree i n) s = .next t ∧ t.sa.u = s.sa.u ∧ t.sa.brk = s.sa.brk ∧
        t.sa.bucket n.toNat = i.toNat :: s.sa.bucket n.toNat ∧
        (∀ m, 1 ≤ m → m ≤ 128 → m ≠ n.toNat → t.sa.bucket m = s.sa.bucket m) ∧
        t = { s with st := { s.st with cmdErr := false }, sa := t.sa })

/-- R290: the allocator never hands out a unit twice. With the blocks `live` held, an allocation gives a block apart from all
of them, inside the budget, and keeps the books; so does giving a held block back; a request fails only with the books
kept. And what coalescing does (R294): the free units fall into maximal runs; the run that touches the never-used space
rejoins it; every other is pushed in blocks of 128 units and a rest, so that the highest block of a size lies on top. -/
def Obligations.AllocatorBlocksStayDisjoint : Prop :=
  (∀ u : Nat, SubAlloc.Accounts (SubAlloc.reset { State.reset.sa with u := u }) []) ∧
  ∀ (a : SubAlloc) (live : List (Nat × Nat)), a.Accounts live →
    (∀ n, 1 ≤ n → n ≤ 128 →
      (∀ i, (a.alloc n).1 = some i → (a.alloc n).2.Accounts ((i, n) :: live) ∧ ∀ b ∈ live, apart (i, n) b) ∧
      ((a.alloc n).1 = none → (a.alloc n).2.Accounts live) ∧ (a.alloc n).2.u = a.u) ∧
    (∀ b ∈ live, (a.free b.1 b.2).Accounts (live.erase b)) ∧
    ∃ runs : List (Nat × Nat),
      (runs.Pairwise fun x y => x.1 + x.2 < y.1) ∧ (∀ r ∈ runs, 1 ≤ r.2) ∧
      (∀ i, (∃ r ∈ runs, r.1 ≤ i ∧ i < r.1 + r.2) ↔ ∃ b ∈ a.freeBlocks, b.1 ≤ i ∧ i < b.1 + b.2) ∧
      a.coalesce.u = a.u ∧
      a.coalesce.brk = ((runs.find? fun r => r.1 + r.2 = a.brk).map (·.1)).getD a.brk ∧
      ∀ m, 1 ≤ m → m ≤ 128 → a.coalesce.bucket m =
        (((runs.filter fun r => r.1 + r.2 ≠ a.brk).flatMap fun r =>
          (List.range ((r.2 + 127) / 128)).map fun j => (r.1 + 128 * j, min 128 (r.2 - 128 * j))).filterMap
            fun p => if p.2 = m then some p.1 else none).reverse

/-- `RC.INIT` (R248, R241): the cursor is aligned, and the next four bytes of the stream become `RC_CODE`, the first the most
significant. -/
def Obligations.RcInitReadsFourBytesBigEndian : Prop :=
  ∀ s : State, s.isIdle = true → s.cur.ready = true →
    ∃ t, exec .rcInit s = .next t ∧
      t.rc = ⟨0, BitVec.ofNat 32 (s.cur.align.streamNat 0 32), 0xFFFFFFFF#32⟩ ∧
      t.cur.bitpos = 8 * ((s.cur.bitpos + 7) / 8) + 32 ∧
      t = { s with st := { s.st with cmdErr := false }, cur := t.cur, rc := t.rc }

/-- R245, R242, R243: from a range of at least `2^16`, one coded decision (`rc_count(T)`, `rc_update(cum, f)` with
`cum + f ≤ T < 2^16`) leaves a range of at least `2^16`, and the count is below `2^32 div 1`: no division by zero occurs. -/
def Obligations.CoderRangeStaysLarge : Prop :=
  ∀ (w w' : PpmWorld) (t cum f : Nat), 2 ^ 16 ≤ w.rc.range.toNat → 1 ≤ f → cum + f ≤ t → t < 2 ^ 16 →
    (w.rc.count t).2.range.toNat = w.rc.range.toNat / t ∧ 1 ≤ w.rc.range.toNat / t ∧
    (w.rc.count t).1 = (w.rc.code - w.rc.low).toNat / (w.rc.range.toNat / t) ∧
    (rcUpdate cum f { w with rc := (w.rc.count t).2 } = .ok () w' →
      2 ^ 16 ≤ w'.rc.range.toNat ∧ w'.ppm = w.ppm ∧ w'.sa = w.sa)

/-! ### The Filter VM -/

/-- `FV.LOAD` (R340), `FV.SETREG` (R344), `FV.READ` (R346) and `FV.IDENT` (R347, R314, R315). A byte of `FM` that was loaded
reads as loaded. An unknown well-formed program gives 0 and notes nothing (R315, R393; log entry 16). -/
def Obligations.FilterVmCommands : Prop :=
  ∀ s : State, s.isIdle = true →
    (∀ (o : Word) (b : Byte), o.toNat < 262144 → Sparse.rising s.vm.fm = true →
      ∃ t, exec (.fvLoad o (b.setWidth 32)) s = .next t ∧ t.vm.read o.toNat = b ∧
        (∀ a, a ≠ o.toNat → t.vm.read a = s.vm.read a) ∧
        t = { s with st := { s.st with cmdErr := false }, vm := { s.vm with fm := t.vm.fm } }) ∧
    (∀ (r : Fin 8) (v : Word), exec (.fvSetreg (BitVec.ofNat 32 r.val) v) s =
      .next { s with st := { s.st with cmdErr := false }, vm := { s.vm with regs := s.vm.regs.set r.val v } }) ∧
    (∀ o : Word, o.toNat < 262144 → exec (.fvRead o) s =
      .next { s with st := { s.st with cmdErr := false, result := (s.vm.read o.toNat).setWidth 32 } }) ∧
    (∀ n : Word, n.toNat ≤ 262144 →
      let prog := s.vm.prefixBytes n.toNat
      let bad := prog = [] ∨ prog.headD 0 ≠ (prog.tail.foldl (· ^^^ ·) 0)
      ∃ t, exec (.fvIdent n) s = .next t ∧
        (bad → t.st.result = 0 ∧ t.st.events = s.st.events ||| 64) ∧
        (¬bad → t.st.events = s.st.events ∧
          (∀ e, s.catalogue.find? (fun e => e.bodyLen == prog.tail.length && e.crc == crc32 prog.tail) = some e →
            t.st.result = BitVec.ofNat 32 e.kind.tag) ∧
          (s.catalogue.find? (fun e => e.bodyLen == prog.tail.length && e.crc == crc32 prog.tail) = none →
            t.st.result = 0)) ∧
        t = { s with st := { s.st with cmdErr := false, result := t.st.result, events := t.st.events } })

/-- `FV.EXEC kind, n` (R345) forces `R4` and `R7` and transforms `FM[0..n)`; a filter kind alone (R109, R323) transforms
`FM[0..R4)` under the registers as they stand (log entry 25). The window, the queue and the output are not touched. That
`n = 0` leaves the registers too is the model's reading (log entry 18). -/
def Obligations.FilterKindsTransformFilterMemory : Prop :=
  ∀ (s : State) (k : FilterKind),
    (∀ n : Word, s.isIdle = true → 1 ≤ n.toNat → n.toNat ≤ 262144 →
      ∃ t, exec (.fvExec (BitVec.ofNat 32 k.tag) n) s = .next t ∧
        t.vm.regs = (s.vm.regs.set 4 n).set 7 262144#32 ∧
        (∀ a < n.toNat, t.vm.read a = (transform k t.vm.regs (s.vm.prefixBytes n.toNat)).getD a 0) ∧
        t.vm.fq = s.vm.fq ∧ t.vm.store = s.vm.store ∧
        t = { s with st := { s.st with cmdErr := false }, vm := t.vm }) ∧
    (s.isIdle = true → exec (.fvExec (BitVec.ofNat 32 k.tag) 0) s =
      .next { s with st := { s.st with cmdErr := false } }) ∧
    (∀ n : Word, regAt s.vm.regs 4 = n → 1 ≤ n.toNat → n.toNat ≤ 262144 →
      ∃ t, exec k.instr s = .next t ∧
        (∀ a < n.toNat, t.vm.read a = (transform k s.vm.regs (s.vm.prefixBytes n.toNat)).getD a 0) ∧
        t.vm.regs = s.vm.regs ∧ t.vm.fq = s.vm.fq ∧ t.vm.store = s.vm.store ∧ t = { s with vm := t.vm })

/-- R320: a transform gives as many bytes as it takes. R338: `DELTA`, `RGB` and `AUDIO` pass more than 131072 bytes, or bytes
under registers out of range, through. R324: `NONE` passes everything through. -/
def Obligations.TransformsKeepTheLength : Prop :=
  ∀ (k : FilterKind) (r : Vector Word 8) (src : List Byte),
    (transform k r src).length = src.length ∧ transform .none r src = src ∧
    (131072 < src.length → k ∈ [FilterKind.delta, .rgb, .audio] → transform k r src = src) ∧
    (regAt r 0 = 0 → transform .delta r src = src ∧ transform .audio r src = src) ∧
    (1024 < (regAt r 0).toNat → transform .delta r src = src) ∧
    (128 < (regAt r 0).toNat → transform .audio r src = src) ∧
    (src.length < 3 ∨ src.length < (regAt r 0 - 3).toNat ∨ 2 < (regAt r 1).toNat → transform .rgb r src = src)

/-- The three planar transforms, of a block within their limits (R338): byte `k` of channel `c` is a prediction from the bytes of
the block already made, less the next byte of the channel's plane. `DELTA` (R333): the prediction is the channel's previous
byte. `RGB` (R335): the predictor of the bytes left, above (`stride` back) and above left, before the middle component (`R1 + 1`
modulo 3) is added back to its neighbours. `AUDIO` (R337): the linear predictor whose coefficient the smallest of the seven
error sums lowers or raises at samples 0, 32, 64, ... -/
def Obligations.DeltaSubtractsAlongEachChannel : Prop :=
  (∀ (ch c k : Nat) (src : List Byte), 1 ≤ ch → ch ≤ 1024 → src.length ≤ 131072 → c < ch → c + ch * k < src.length →
    (delta ch src).getD (c + ch * k) 0 =
      (if k = 0 then 0 else (delta ch src).getD (c + ch * (k - 1)) 0) - src.getD (planeStart src.length ch c + k) 0) ∧
  (∀ (r : VmRegs) (src : List Byte), 3 ≤ src.length → src.length ≤ 131072 → (regAt r 0 - 3).toNat ≤ src.length →
    (regAt r 1).toNat ≤ 2 →
    let n := src.length
    let stride := (regAt r 0 - 3).toNat
    let first := (regAt r 1).toNat
    ∃ d : List Byte, d.length = n ∧
      (∀ c k, c < 3 → c + 3 * k < n →
        let i := c + 3 * k
        let made (q : Nat) : Byte := if q % 3 < c ∨ q % 3 = c ∧ q < i then d.getD q 0 else 0
        let left : Byte := if k = 0 then 0 else d.getD (i - 3) 0
        let up := made (i - stride)
        let upleft := made (i - stride - 3)
        let p : Int := left.toNat + up.toNat - upleft.toNat
        let away (x : Byte) : Nat := (p - x.toNat).natAbs
        let predicted :=
          if i < stride + 3 then left
          else if away left ≤ away up ∧ away left ≤ away upleft then left
          else if away up ≤ away upleft then up else upleft
        d.getD i 0 = predicted - src.getD (planeStart n 3 c + k) 0) ∧
      ∀ i < n, (transform .rgb r src).getD i 0 = d.getD i 0 +
        if first ≤ i ∧ (i - first) % 3 = 0 ∧ i + 2 < n then d.getD (i + 1) 0
        else if first ≤ i ∧ (i - first) % 3 = 2 then d.getD (i - 1) 0 else 0) ∧
  (∀ (ch c : Nat) (src : List Byte), 1 ≤ ch → ch ≤ 128 → src.length ≤ 131072 → c < ch →
    let x (k : Nat) : Byte := src.getD (planeStart src.length ch c + k) 0
    let y (k : Nat) : Byte := (audio ch src).getD (c + ch * k) 0
    ∃ (pd d1 d2 : Nat → Int) (coef : Nat → Nat → Int) (sums : Nat → Nat → Nat),
      pd 0 = 0 ∧ d1 0 = 0 ∧ d2 0 = 0 ∧ (∀ j, coef 0 j = 0) ∧ (∀ m, sums 0 m = 0) ∧
      ∀ k, c + ch * k < src.length →
        let prev : Byte := if k = 0 then 0 else y (k - 1)
        let now : List Int := [pd k, pd k - d1 k, d2 k]
        let d : Int := 8 * (x k).toInt
        let errors : List Int := [d, d - pd k, d + pd k, d - (pd k - d1 k), d + (pd k - d1 k), d - d2 k, d + d2 k]
        let total (m : Nat) : Nat := sums k m + (errors.getD m 0).natAbs
        y k = BitVec.ofInt 8 ((8 * prev.toNat + coef k 0 * now.getD 0 0 + coef k 1 * now.getD 1 0 + coef k 2 * now.getD 2 0)
          / 8) - x k ∧
        pd (k + 1) = (y k - prev).toInt ∧ d1 (k + 1) = pd k ∧ d2 (k + 1) = pd k - d1 k ∧
        (k % 32 ≠ 0 → (∀ j, coef (k + 1) j = coef k j) ∧ ∀ m < 7, sums (k + 1) m = total m) ∧
        (k % 32 = 0 → (∀ m < 7, sums (k + 1) m = 0) ∧
          ∀ m < 7, (∀ j < 7, total m ≤ total j) → (∀ j < m, total m < total j) →
            ∀ j < 3, coef (k + 1) j =
              if m = 2 * j + 1 ∧ -16 ≤ coef k j then coef k j - 1
              else if m = 2 * j + 2 ∧ coef k j < 16 then coef k j + 1 else coef k j))

/-- R328, R326: the field that the forward relocation replaces is the field the transform restores; `E8` and `E8E9` leave a
block without opcodes, and any block of fewer than 5 bytes, as it is. At the first opcode with four bytes after it, at `p`, the
field at `p + 1` is rewritten by the rule for the file offset `p + 1 + R6`, and the scan goes on from `p + 5` as on a block of its
own at that file offset. `ITANIUM` (R331, R330): in every bundle with 21 bytes after its first, the 20-bit field of each slot
that the template calls a branch and whose opcode is 5 loses the bundle's number; every other bit of the block stays. -/
def Obligations.RelocationUndoesTheEncoder : Prop :=
  (∀ r off : Word, (r + off).toNat < 2 ^ 24 → relocated (r + off) off = some r) ∧
  (∀ r off : Word, 2 ^ 31 ≤ (r - Config.relocSpan).toNat → (r - Config.relocSpan + off).toNat < 2 ^ 31 →
    relocated (r - Config.relocSpan) off = some r) ∧
  (∀ (fo : Word) (ops src : List Byte), (∀ b ∈ src.take (src.length - 4), b ∉ ops) ∨ src.length < 5 →
    relocate ops fo src = src) ∧
  (∀ (fo : Word) (src : List Byte), relocate [0xE8] fo src = transformE8 (Vector.replicate 8 fo) src ∧
    relocate [0xE8, 0xE9] fo src = transformE8E9 (Vector.replicate 8 fo) src) ∧
  (∀ (fo : Word) (ops before after : List Byte) (op b0 b1 b2 b3 : Byte), (∀ b ∈ before, b ∉ ops) → op ∈ ops →
    let off : Word := BitVec.ofNat 32 (before.length + 1) + fo
    let addr : Word := b3 ++ b2 ++ b1 ++ b0
    let bytes (v : Word) : List Byte :=
      [v.extractLsb' 0 8, v.extractLsb' 8 8, v.extractLsb' 16 8, v.extractLsb' 24 8]
    let field : List Byte :=
      if 2 ^ 31 ≤ addr.toNat then if (addr + off).toNat < 2 ^ 31 then bytes (addr + 0x1000000#32) else [b0, b1, b2, b3]
      else if addr.toNat < 2 ^ 24 then bytes (addr - off) else [b0, b1, b2, b3]
    relocate ops fo (before ++ op :: b0 :: b1 :: b2 :: b3 :: after) =
      before ++ op :: field ++ relocate ops (BitVec.ofNat 32 (before.length + 5) + fo) after) ∧
  (∀ (r : VmRegs) (src : List Byte),
    let out := transform .itanium r src
    let bundle (l : List Byte) (m : Nat) : Nat := ((List.range 16).map fun j => (l.getD (16 * m + j) 0).toNat * 256 ^ j).sum
    let bits (v lo n : Nat) : Nat := v / 2 ^ lo % 2 ^ n
    (∀ a, src.length ≤ 16 * (a / 16) + 21 → out.getD a 0 = src.getD a 0) ∧
    ∀ m, 16 * m + 21 < src.length →
      let v := bundle src m
      let branch (i : Nat) : Prop := 16 ≤ bits v 0 5 ∧
        (([4, 4, 6, 6, 0, 0, 7, 7, 4, 4, 0, 0, 4, 4, 0, 0] : List Nat).getD (bits v 0 5 - 16) 0).testBit i = true ∧
        bits v (41 * i + 42) 4 = 5
      (∀ i < 3, branch i → bits (bundle out m) (41 * i + 18) 20 =
        (bits v (41 * i + 18) 20 + 2 ^ 20 - ((regAt r 6).toNat / 16 + m) % 2 ^ 20) % 2 ^ 20) ∧
      ∀ j < 128, (∀ i < 3, branch i → j < 41 * i + 18 ∨ 41 * i + 38 ≤ j) → (bundle out m).testBit j = v.testBit j)

/-! ### Tokens -/

/-- `LIT` (R200), `PPM.LIT` (R376), `PPM.LITESC` (R377) and an audio delta (R232): one byte at `POS`, every other byte of the
window as before; an audio delta updates its channel's last byte and steps to the next channel. -/
def Obligations.LiteralTokensPutOneByte : Prop :=
  ∀ (s : State) (b : Byte), Memory.wf s.win.mem = true →
    let put (x y : State) (v : Byte) : Prop :=
      Memory.read y.win.mem x.win.pos = v ∧
      (∀ a, a ≠ x.win.pos → Memory.read y.win.mem a = Memory.read x.win.mem a) ∧
      y.win.pos = (x.win.pos + 1) % x.win.w ∧ y.win.tw = x.win.tw + 1 ∧ y.win.w = x.win.w ∧ y.win.tf = x.win.tf ∧
      (y.win.first = true ↔ x.win.first = true ∨ y.win.pos = 0)
    (∃ t, exec (.lit b) s = .next t ∧ put s t b ∧ t = { s with win := t.win }) ∧
    (∃ t, exec (.ppmLit b) s = .next t ∧ put s t b ∧ t = { s with win := t.win }) ∧
    (∃ t, exec .ppmLitesc s = .next t ∧ put s t s.ppm.esc ∧ t = { s with win := t.win }) ∧
    (1 ≤ s.tok.audioCh → s.tok.audioCh ≤ 4 →
      ∃ t, exec (.audDelta b) s = .next t ∧ put s t (s.tok.alast[s.tok.acur] - b) ∧
        t.tok.alast[s.tok.acur] = s.tok.alast[s.tok.acur] - b ∧
        (∀ c : Fin 4, c ≠ s.tok.acur → t.tok.alast[c] = s.tok.alast[c]) ∧
        t.tok.acur.val = (s.tok.acur.val + 1) % s.tok.audioCh ∧
        t = { s with win := t.win, tok := { s.tok with alast := t.tok.alast, acur := t.tok.acur } })

/-- `MATCH s` for every slot (R208, R97): length `LBASE[s] + e1 + 3`, distance `DBASE[d] + e2 + 1`; the distance enters the front
of the first `CACHE_N[g]` entries. `PPM.MATCH` (R380, R106) copies and leaves them. -/
def Obligations.MatchTokensCopyAndRemember : Prop :=
  (∀ (s : State) (slot e1 d e2 : Nat) (i : Instr), Instr.matchSlot slot e1 d e2 = some i →
    e1 < 2 ^ Config.lbits slot → d < 48 → e2 < 2 ^ Config.dbits d → s.ses.verL.toNat ≤ 3 →
    let dist := Config.dbase d + e2 + 1
    let n := Config.lbase slot + e1 + 3
    let cacheN := [3, 3, 4, 4].getD s.ses.verL.toNat 0
    3 ≤ n ∧ n ≤ 258 ∧ 1 ≤ dist ∧ dist ≤ 16777216 ∧
    ∃ t, exec i s = .next t ∧ t.win = s.win.copyMatch dist n ∧ t.win.tw = s.win.tw + n ∧
      t.tok.cacheAt 0 = BitVec.ofNat 32 dist ∧
      (∀ j, 1 ≤ j → j < cacheN → t.tok.cacheAt j = s.tok.cacheAt (j - 1)) ∧
      (∀ j, cacheN ≤ j → t.tok.cacheAt j = s.tok.cacheAt j) ∧
      t.tok.lastLen.toNat = n ∧ t.tok.lastDist.toNat = dist ∧
      t = { s with
        win := t.win, tok := { s.tok with cache := t.tok.cache, lastLen := t.tok.lastLen, lastDist := t.tok.lastDist },
        st := { s.st with events := if s.win.zeroFill dist then s.st.events ||| 1 else s.st.events } }) ∧
  (∀ (s : State) (d2 d1 d0 l : Byte),
    let dist := 65536 * d2.toNat + 256 * d1.toNat + d0.toNat + 1
    ∃ t, exec (.ppmMatch d2 d1 d0 l) s = .next t ∧ t.win = s.win.copyMatch dist (l.toNat + 3) ∧
      t.win.tw = s.win.tw + l.toNat + 3 ∧
      t = { s with
        win := t.win,
        st := { s.st with events := if s.win.zeroFill dist then s.st.events ||| 1 else s.st.events } })

/-- `CACHE k` where the generation has it (R207): the distance of entry `k` moves to the front, length `LBASE[l] + e + 2`. -/
def Obligations.CacheTokensMoveToFront : Prop :=
  ∀ (s : State) (k l e : Nat) (i : Instr), Instr.cacheSlot k l e = some i → l < 28 → e < 2 ^ Config.lbits l →
    s.ses.verL.toNat ≤ 3 → k < [3, 3, 4, 4].getD s.ses.verL.toNat 0 →
    let d := s.tok.cacheAt k
    let n := Config.lbase l + e + 2
    2 ≤ n ∧ n ≤ 257 ∧
    ∃ t, exec i s = .next t ∧ t.win = s.win.copyMatch d.toNat n ∧ t.win.tw = s.win.tw + n ∧
      t.tok.cacheAt 0 = d ∧ (∀ j, 1 ≤ j → j ≤ k → t.tok.cacheAt j = s.tok.cacheAt (j - 1)) ∧
      (∀ j, k < j → t.tok.cacheAt j = s.tok.cacheAt j) ∧ t.tok.lastLen.toNat = n ∧ t.tok.lastDist = d ∧
      t = { s with
        win := t.win, tok := { s.tok with cache := t.tok.cache, lastLen := t.tok.lastLen, lastDist := t.tok.lastDist },
        st := { s.st with events := if s.win.zeroFill d.toNat then s.st.events ||| 1 else s.st.events } }

/-- `REPEAT`, R206 whole: under G4 the last match again, nothing without one; no field follows the symbol; under G1 to G3 the
reserved symbol of R209. -/
def Obligations.RepeatCopiesTheLastMatchAgain : Prop :=
  (∀ rest : List Bool, decode (.lz 3) (natToBits 9 258 ++ rest) = .ok (.repeatLast, rest)) ∧
  ∀ s : State,
    (s.ses.verL = 3 → s.tok.lastLen ≠ 0 →
      ∃ t, exec .repeatLast s = .next t ∧
        t.win = s.win.copyMatch s.tok.lastDist.toNat s.tok.lastLen.toNat ∧
        t.win.tw = s.win.tw + s.tok.lastLen.toNat ∧
        t = { s with
          win := t.win,
          st := { s.st with
            events := if s.win.zeroFill s.tok.lastDist.toNat then s.st.events ||| 1 else s.st.events } }) ∧
    (s.ses.verL = 3 → s.tok.lastLen = 0 → exec .repeatLast s = .next s) ∧
    (s.ses.verL.toNat < 3 →
      exec .repeatLast s = .next { s with st := { s.st with events := s.st.events ||| 32 } })

/-- A symbol the generation reserves, R209: 257 and 258 under G1 to G3, 262 under G1 and G2, note `RESERVED_TOKEN` and change
nothing else; and no field follows the symbol. -/
def Obligations.ReservedSymbolsOnlyNoteTheEvent : Prop :=
  (∀ (s : State) (i : Instr),
    ((∃ t, i = .filter t) ∨ i = .repeatLast) ∧ s.ses.verL.toNat < 3 ∨
    (∃ l e, i = .cache3 l e) ∧ s.ses.verL.toNat < 2 →
    exec i s = .next { s with st := { s.st with events := s.st.events ||| 32 } }) ∧
  (∀ (g : BitVec 3) (rest : List Bool), g.toNat < 3 →
    decode (.lz g) (natToBits 9 257 ++ rest) = .ok (.filter FilterTok.zero, rest) ∧
    decode (.lz g) (natToBits 9 258 ++ rest) = .ok (.repeatLast, rest) ∧
    (g.toNat < 2 → decode (.lz g) (natToBits 9 262 ++ rest) = .ok (.cache3 0 0, rest)))

/-- A filter token (R312, R313, R316 to R318; R205 under G4, R379 in a PPM block): the program store, and the descriptor or the
event `FILTER_DROPPED`. No byte of the window changes. -/
def Obligations.FilterTokensRegisterADescriptor : Prop :=
  ∀ (s : State) (t : FilterTok) (i : Instr),
    i = .filter t ∧ s.ses.verL = 3 ∨ i = .ppmFilter t ∨ i = .filterTok t →
    let slot := t.f0.toNat % 16
    let prog := identify s.catalogue t.prog
    let newProg := 128 ≤ t.f0.toNat
    let store := if newProg then s.vm.store.setIfInBounds slot (some prog.1) else s.vm.store
    let drop := t.len = 0 ∨ 262144 < t.len.toNat ∨ 1024 ≤ s.vm.fq.length
    ∃ u regs, exec i s = .next u ∧
      u = { s with
        vm := { s.vm with
          store := store,
          fq := if drop then s.vm.fq
            else s.vm.fq ++ [⟨s.win.tw + t.start.toNat, t.len.toNat, ((store[slot]?).getD none).getD .none, regs, true⟩] },
        st := { s.st with
          events := (s.st.events ||| if newProg ∧ prog.2 = true then 64 else 0) ||| if drop then 16 else 0 } } ∧
      regAt regs 7 = 0 ∧
      (∀ j < 7, regAt regs j =
        if t.mask.getLsbD j then t.regs.getD ((List.range j).countP fun m => t.mask.getLsbD m) 0 else 0)

/-- The tokens that end a block (R202, R204, R233, R363): a flush, then the next header for `END 00`; new tables for `END 01`,
which under G1 are the reset statistics (R229), with the same dispatcher state and `BLOCK_END` to come back to; the fallback
for a reserved PPM command, which empties the model's list of blocks and keeps the allocator's books (log entry 9). The flush is
that of `FlushLeavesNothingReadyPending`. And the same for a PPM token whose bytes end in a sentinel (R362, R277): `END_SEGMENT`
flushes and seeks the next header, `CORRUPT` takes the fallback, `NOMEM` ends the session; the token has no effect. -/
def Obligations.EndOfBlockTokensFlush : Prop :=
  let fallen (s : State) : State := { s with
    ppm := { s.ppm with alloc := false, arena := [], disabled := true }, st := { s.st with events := s.st.events ||| 8 } }
  (∀ s : State, s.out.answers = [] →
    (∃ u, doFlush false s = .ok () u ∧
      (∀ i ∈ [Instr.end00, .audEnd00], exec i s = .next { u with ses := { u.ses with fsm := .hdr } }) ∧
      (∀ i ∈ [Instr.end01, .audEnd01],
        (s.ses.verL = 0 → exec i s = .next { u with tok := { u.tok with
          g1Ld := ⟨List.range 291, List.replicate 291 0⟩, g1Dd := ⟨List.range 48, List.replicate 48 0⟩,
          g1Rd := ⟨List.range 28, List.replicate 28 0⟩ } }) ∧
        (s.ses.verL ≠ 0 → exec i s = .next { u with
          tabs := { u.tabs with lenPos := 0, lenTot := 0 }, ses := { u.ses with fsm := .tables } }))) ∧
    (∀ c : Byte, ∃ u, doFlush false (fallen s) = .ok () u ∧
      exec (.ppmReserved c) s = .next { u with ses := { u.ses with fsm := .hdr } })) ∧
  (∀ (s u v : State) (c : Cursor) (e : Abort), s.quiet = true → s.par.cancel = false → s.targetReached = false →
    s.ses.fsm = .ppm → refill s.cur = .ok () c → c.pastEnd = false → maybeFlush { s.tick with cur := c } = .ok () u →
    fetchParse noEffectYet (Slot.ppm s.ppm.esc).grammar [] u = .error e v →
    v.win = u.win ∧ v.vm = u.vm ∧ v.out = u.out ∧
    (e = .endSegment → v.out.answers = [] → ∃ w, doFlush false v = .ok () w ∧
      step s = .next { w with ses := { w.ses with fsm := .hdr } }) ∧
    (e = .corrupt → v.out.answers = [] → ∃ w, doFlush false (fallen v) = .ok () w ∧
      step s = .next { w with ses := { w.ses with fsm := .hdr } }) ∧
    (e = .nomem → step s = .next { v with
      st := { v.st with kind := .failure, reason := .corrupt, detail := .nomem, consumed := v.cur.consumedBytes },
      vm := { v.vm with fq := [] }, ses := { v.ses with fsm := .done } }))

/-- The tokens that end the file (R203, R233, R378): a final flush, then `SUCCESS`; `END 11` invalidates the tables. A failing
write ends the session with `WRITE_FAIL` instead (R398, R400). -/
def Obligations.EndOfFileTokensSucceed : Prop :=
  ∀ s : State,
    let finished (u : State) : State := { u with
      st := { u.st with kind := .success, reason := .none, detail := .none, consumed := u.cur.consumedBytes },
      vm := { u.vm with fq := [] }, ses := { u.ses with fsm := .done } }
    (s.out.answers = [] → ∃ u, doFlush true s = .ok () u ∧
      (∀ i ∈ [Instr.end10, .audEnd10, .ppmNewfile], exec i s = .next (finished u))) ∧
    (s.out.answers = [] → ∃ u,
      doFlush true { s with tabs := { s.tabs with tablesValid := false, audioValid := false } } = .ok () u ∧
      (∀ i ∈ [Instr.end11, .audEnd11], exec i s = .next (finished u))) ∧
    (∀ rest, s.out.answers = .error :: rest → s.vm.fq = [] → s.win.tf < s.win.tw → s.st.written < s.ses.targetL →
      let failed : State := { s with
        out := { s.out with answers := rest },
        st := { s.st with kind := .failure, reason := .writeFail, detail := .none, consumed := s.cur.consumedBytes },
        ses := { s.ses with fsm := .done } }
      (∀ i ∈ [Instr.end00, .audEnd00, .end01, .audEnd01, .end10, .audEnd10, .ppmNewfile], exec i s = .next failed) ∧
      ∀ i ∈ [Instr.end11, .audEnd11], exec i s =
        .next { failed with tabs := { s.tabs with tablesValid := false, audioValid := false } })

/-- A byte of a PPM_ONLY stream (R364, R366) goes to the output port if the target leaves room; a failing write ends the session
(R398). A step of PPMONLY does what R364 says with each of the four results of `ppm_decode` (R277): the byte's instruction,
`SUCCESS` at `END_SEGMENT`, `(CORRUPT, PPM_STREAM)`, `(CORRUPT, NOMEM)`. -/
def Obligations.PpmOnlyByteIsWritten : Prop :=
  (∀ (s : State) (b : Byte),
    (s.ses.targetL ≤ s.st.written → exec (.ppmonlyByte b) s = .next s) ∧
    (s.st.written < s.ses.targetL → s.out.answers.head? ∈ [none, some .ok] → exec (.ppmonlyByte b) s =
      .next { s with out := ⟨s.out.bytes ++ [b], s.out.answers.drop 1⟩, st := { s.st with written := s.st.written + 1 } }) ∧
    (∀ rest, s.st.written < s.ses.targetL → s.out.answers = .error :: rest → exec (.ppmonlyByte b) s = .next { s with
      out := { s.out with answers := rest },
      st := { s.st with kind := .failure, reason := .writeFail, detail := .none, consumed := s.cur.consumedBytes },
      vm := { s.vm with fq := [] }, ses := { s.ses with fsm := .done } })) ∧
  (∀ (s v : State) (c : Cursor) (r : PpmResult), s.quiet = true → s.par.cancel = false → s.ses.fsm = .ppmonly →
    s.st.written < s.ses.targetL → refill s.cur = .ok () c → c.pastEnd = false →
    onPpm ppmDecode { s.tick with cur := c } = .ok r v →
    let ended (k : ResultKind) (x : Reason) (d : Detail) : State := { v with
      st := { v.st with kind := k, reason := x, detail := d, consumed := v.cur.consumedBytes },
      vm := { v.vm with fq := [] }, ses := { v.ses with fsm := .done } }
    (∀ b, r = .byte b → step s = exec (.ppmonlyByte b) v) ∧
    (r = .endSegment → step s = .next (ended .success .none .none)) ∧
    (r = .corrupt → step s = .next (ended .failure .corrupt .ppmStream)) ∧
    (r = .nomem → step s = .next (ended .failure .corrupt .nomem)))

/-! ### Stream structures -/

/-- A block header (R84 to R87, R182 to R186, R394): the two failures in their order, then the latches and where the dispatcher
goes: a sub-header, tables (the reset statistics under G1), the missing tables' failure, or tokens. -/
def Obligations.HeaderStartsABlock : Prop :=
  ∀ (s : State) (flags chk : Byte) (size : List Byte),
    let n := (flags.toNat / 8) % 4
    let fail (r : Reason) (d : Detail) : State := { s with
      st := { s.st with kind := .failure, reason := r, detail := d, consumed := s.cur.consumedBytes },
      vm := { s.vm with fq := [] }, ses := { s.ses with fsm := .done } }
    (n = 3 → exec (.hdr flags chk size) s = .next (fail .corrupt .badHeader)) ∧
    (n < 3 → size.length = n + 1 → size.foldl (· ^^^ ·) (0x5A ^^^ flags) ≠ chk →
      exec (.hdr flags chk size) s = .next (fail .hdrChecksum .none)) ∧
    (n < 3 → size.length = n + 1 → size.foldl (· ^^^ ·) (0x5A ^^^ flags) = chk →
      let bytes := (size.zipIdx.map fun p => p.1.toNat * 256 ^ p.2).sum
      let g := s.ses.verL.toNat
      let audio := 64 ≤ flags.toNat % 128 ∧ (g = 1 ∨ g = 2)
      let ppm := 32 ≤ flags.toNat % 64 ∧ g = 3 ∧ s.ppm.disabled = false
      let tables := 128 ≤ flags.toNat
      let next : Fsm := if audio then .aud else .lz
      ∃ t, exec (.hdr flags chk size) s = .next t ∧
        t.ses.blockEnd = s.cur.bitpos + (if bytes = 0 then 0 else 8 * (bytes - 1) + flags.toNat % 8 + 1) ∧
        (t.ses.hTables = true ↔ tables) ∧ (t.ses.hAudio = true ↔ audio) ∧ (t.ses.hPpm = true ↔ ppm) ∧
        t.ses = { s.ses with
          fsm := t.ses.fsm, blockEnd := t.ses.blockEnd, hTables := t.ses.hTables, hAudio := t.ses.hAudio, hPpm := t.ses.hPpm } ∧
        (ppm → t.ses.fsm = .ppmhdr ∧ t = { s with ses := t.ses }) ∧
        (¬ppm → tables → g = 0 → t.ses.fsm = .lz ∧ t = { s with ses := t.ses, tok := { s.tok with
          g1Ld := ⟨List.range 291, List.replicate 291 0⟩, g1Dd := ⟨List.range 48, List.replicate 48 0⟩,
          g1Rd := ⟨List.range 28, List.replicate 28 0⟩ } }) ∧
        (¬ppm → tables → g ≠ 0 → t.ses.fsm = .tables ∧
          t = { s with ses := t.ses, tabs := { s.tabs with lenPos := 0, lenTot := 0 } }) ∧
        (¬ppm → ¬tables →
          (g = 0 ∨ (audio ∧ s.tabs.audioValid = true) ∨ (¬audio ∧ s.tabs.tablesValid = true)) →
          t.ses.fsm = next ∧ t = { s with ses := t.ses }) ∧
        (¬ppm → ¬tables →
          ¬(g = 0 ∨ (audio ∧ s.tabs.audioValid = true) ∨ (¬audio ∧ s.tabs.tablesValid = true)) →
          t.ses.fsm = .done ∧ t = { s with
            st := { s.st with kind := .failure, reason := .corrupt, detail := .noTables, consumed := s.cur.consumedBytes },
            vm := { s.vm with fq := [] }, ses := t.ses }))

/-- One entry of a length sequence (R88): a length below 15, a length 15, or a run of `z + 2` zeros cut short at the end. -/
def Obligations.LengthEntriesFillTheStage : Prop :=
  ∀ s : State, s.tabs.lenPos < s.tabs.lenTot → s.tabs.lenTot ≤ 1028 →
    (∀ v : BitVec 4, exec (.lenV v) s = .next { s with tabs := { s.tabs with
      lenbuf := s.tabs.lenbuf.setIfInBounds s.tabs.lenPos (v.setWidth 8), lenPos := s.tabs.lenPos + 1 } }) ∧
    (exec .len15 s = .next { s with tabs := { s.tabs with
      lenbuf := s.tabs.lenbuf.setIfInBounds s.tabs.lenPos 15, lenPos := s.tabs.lenPos + 1 } }) ∧
    (∀ z : BitVec 4, ∃ t, exec (.lenZrun z) s = .next t ∧
      t.tabs.lenPos = min (s.tabs.lenPos + z.toNat + 2) s.tabs.lenTot ∧
      (∀ j, t.tabs.lenbuf[j]? =
        if s.tabs.lenPos ≤ j ∧ j < t.tabs.lenPos then some 0 else s.tabs.lenbuf[j]?) ∧
      t = { s with tabs := { s.tabs with lenbuf := t.tabs.lenbuf, lenPos := t.tabs.lenPos } })

/-- A whole table set (R89, R188, R231): the tables are built from their parts of the lengths; with lengths of 4 bits none is
rejected (R143). An audio set also resets the channels. The lengths stand in `LENBUF` afterwards (R88), and no set is open. -/
def Obligations.TableSetsBuildTheTables : Prop :=
  ∀ (s : State) (lens : List (BitVec 4)),
    let staged (t : State) : Prop := t.tabs.lenPos = 0 ∧ t.tabs.lenTot = 0 ∧
      ∀ j < 1028, t.tabs.lenbuf[j]? = if j < lens.length then (lens[j]?).map (·.setWidth 8) else s.tabs.lenbuf[j]?
    let part (a n : Nat) : List Byte := ((lens.drop a).take n).map (·.setWidth 8)
    (lens.length = 367 → ∃ t, exec (.lzTables lens) s = .next t ∧
      HuffTable.build (part 0 291) 291 = some t.tabs.ld ∧ HuffTable.build (part 291 48) 48 = some t.tabs.dd ∧
      HuffTable.build (part 339 28) 28 = some t.tabs.rd ∧ t.tabs.tablesValid = true ∧
      t.tabs.md = s.tabs.md ∧ t.tabs.audioValid = s.tabs.audioValid ∧ staged t ∧
      t.ses = { s.ses with fsm := .lz } ∧ t = { s with tabs := t.tabs, ses := t.ses }) ∧
    (∀ ch1 : BitVec 2, lens.length = 257 * (ch1.toNat + 1) → ∃ t, exec (.audioTables ch1 lens) s = .next t ∧
      (∀ c : Fin 4, if c.val ≤ ch1.toNat then HuffTable.build (part (257 * c.val) 257) 257 = some t.tabs.md[c]
        else t.tabs.md[c] = s.tabs.md[c]) ∧
      t.tabs.audioValid = true ∧ t.tabs.ld = s.tabs.ld ∧ t.tabs.dd = s.tabs.dd ∧ t.tabs.rd = s.tabs.rd ∧
      t.tabs.tablesValid = s.tabs.tablesValid ∧ staged t ∧
      t.tok = { s.tok with audioCh := ch1.toNat + 1, acur := 0, alast := Vector.replicate 4 0 } ∧
      t.ses = { s.ses with fsm := .aud } ∧ t = { s with tabs := t.tabs, tok := t.tok, ses := t.ses })

/-- A PPM sub-header (R361, R101, R257): `RESET` creates a model, `NEWESC` sets the escape byte, then the range coder is read;
without a model PPM is disabled, the window flushed and the next header sought. -/
def Obligations.PpmSubHeaderOpensTheBlock : Prop :=
  ∀ (s : State) (p : Byte) (mem esc : Option Byte), (Instr.ppmHdr p mem esc).wf ⟨3, s.ppm.esc⟩ = true →
    let reset := 128 ≤ p.toNat
    let newEsc := (esc.getD s.ppm.esc)
    (s.cur.ready = true → reset ∨ s.ppm.alloc = true → ∃ t, exec (.ppmHdr p mem esc) s = .next t ∧
      t.ses = { s.ses with fsm := .ppm } ∧ t.ppm.alloc = true ∧ t.ppm.esc = newEsc ∧
      t.rc = ⟨0, BitVec.ofNat 32 (s.cur.streamNat 0 32), 0xFFFFFFFF#32⟩ ∧ t.cur.bitpos = s.cur.bitpos + 32 ∧
      (reset → t.ppm.Fresh (min (max (p.toNat % 32 + 1) 2) 16) ∧ t.ppm.disabled = s.ppm.disabled ∧
        t.sa.u = ((mem.getD 0).toNat + 1) * 1048576 / 12 ∧ t.sa.brk = 129 ∧ t.sa.freeBlocks = []) ∧
      (¬reset → t.ppm = { s.ppm with esc := newEsc } ∧ t.sa = s.sa) ∧
      t = { s with cur := t.cur, rc := t.rc, ppm := t.ppm, sa := t.sa, ses := t.ses }) ∧
    (s.out.answers = [] → ¬reset → s.ppm.alloc = false → ∃ u,
      doFlush false { s with
        ppm := { s.ppm with esc := newEsc, disabled := true },
        st := { s.st with events := s.st.events ||| 8 } } = .ok () u ∧
      exec (.ppmHdr p mem esc) s = .next { u with ses := { u.ses with fsm := .hdr } })

/-! ### The flush -/

/-- The outcome of a flush the output port does not fail (R367, R368, R371): nothing ready stays pending; a final flush leaves
no filter; the window's bytes are not changed (R64), and `WRITTEN` counts what went out, never more than the target (R366).
Then `maybe_flush` before a token (R360, R372): it does nothing while at most `W - 258` bytes are pending; else it flushes, and
as long as too much stays pending drops the head of the queue with `FILTER_DROPPED` and flushes again; afterwards at most
`W - 258` bytes are pending, so that a token's 258 overwrite none of them. -/
def Obligations.FlushLeavesNothingReadyPending : Prop :=
  (∀ (s : State) (final : Bool), s.out.answers = [] → s.win.tf ≤ s.win.tw →
    ∃ u more, doFlush final s = .ok () u ∧
      u.out = ⟨s.out.bytes ++ more, []⟩ ∧ u.st.written = s.st.written + more.length ∧
      (s.st.written ≤ s.ses.targetL → u.st.written ≤ u.ses.targetL) ∧
      u.win = { s.win with tf := u.win.tf } ∧ s.win.tf ≤ u.win.tf ∧ u.win.tf ≤ s.win.tw ∧
      (final = true → u.win.tf = s.win.tw ∧ u.vm.fq = []) ∧
      (final = false → (u.win.tf = s.win.tw ∧ ∀ f ∈ u.vm.fq.head?, s.win.tw ≤ f.start) ∨
        ∃ f ∈ u.vm.fq.head?, f.deferred = true ∧ u.win.tf = f.start ∧ f.start < s.win.tw ∧ s.win.tw < f.start + f.len) ∧
      (s.vm.fq = [] → more = (s.win.range s.win.tf (s.win.tw - s.win.tf)).take (s.ses.targetL - s.st.written) ∧
        u.vm = s.vm ∧ u.st.events = s.st.events) ∧
      u.cur = s.cur ∧ u.tabs = s.tabs ∧ u.tok = s.tok ∧ u.par = s.par ∧ u.ppm = s.ppm ∧ u.rc = s.rc ∧ u.sa = s.sa ∧
      u.ses = s.ses ∧ u.host = s.host) ∧
  (∀ s : State, s.out.answers = [] → s.win.tf ≤ s.win.tw → 258 ≤ s.win.w →
    (s.win.tw - s.win.tf ≤ s.win.w - 258 → maybeFlush s = .ok () s) ∧
    (s.win.w - 258 < s.win.tw - s.win.tf → ∃ u, doFlush false s = .ok () u ∧
      (u.win.tw - u.win.tf ≤ u.win.w - 258 → maybeFlush s = .ok () u) ∧
      (u.win.w - 258 < u.win.tw - u.win.tf → ∃ f rest, u.vm.fq = f :: rest ∧
        maybeFlush s = maybeFlush { u with
          vm := { u.vm with fq := rest }, st := { u.st with events := u.st.events ||| 16 } })) ∧
    ∃ u, maybeFlush s = .ok () u ∧ u.win.tw - u.win.tf ≤ u.win.w - 258 ∧ u.win = { s.win with tf := u.win.tf } ∧
      s.win.tf ≤ u.win.tf ∧ u.win.tf ≤ s.win.tw)

/-- What a flush does with the descriptors at the head of the queue (R367, R443). A complete block: the bytes before it go out
as they are, then the block through all filters with its start and length, in queue order, each on the previous one's output
(R321), then the bytes after it; `R4`, `R6`, `R7` are forced (R322); all of it is cut at the target (R366), and `R6` is what had
been written by then. A stale descriptor is dropped and the rest goes on (R369). A block not complete, or not begun, is
dropped at a final flush and its bytes go out as they are (R371); one begun and not complete is deferred by any other, with
only the bytes before it going out (R368). -/
def Obligations.CompleteFilterBlockIsTransformed : Prop :=
  (∀ (s : State) (final : Bool) (start len : Nat) (fs : List FilterDesc) (last : FilterDesc), s.out.answers = [] →
    s.vm.fq = fs ++ [last] → (∀ f ∈ fs ++ [last], f.start = start ∧ f.len = len) → s.win.tf ≤ start →
    start + len ≤ s.win.tw → 1 ≤ len → s.st.written ≤ s.ses.targetL →
    let room := s.ses.targetL - s.st.written
    let before := start - s.win.tf
    let regs (f : FilterDesc) : VmRegs :=
      ((f.regs.set 4 (BitVec.ofNat 32 len)).set 6 (BitVec.ofNat 32 (s.st.written + min before room))).set 7 262144#32
    let block := (fs ++ [last]).foldl (fun b f => transform f.kind (regs f) b) (s.win.range start len)
    ∃ u, doFlush final s = .ok () u ∧ u.win.tf = s.win.tw ∧ u.vm.fq = [] ∧ u.vm.regs = regs last ∧
      u.st.events = s.st.events ∧ u.st.written = s.st.written + min (s.win.tw - s.win.tf) room ∧
      u.out.bytes = s.out.bytes ++ (s.win.range s.win.tf before ++ block ++
        s.win.range (start + len) (s.win.tw - (start + len))).take room) ∧
  (∀ (s : State) (final : Bool) (f : FilterDesc) (rest : List FilterDesc), s.vm.fq = f :: rest → f.start < s.win.tf →
    doFlush final s = doFlush final { s with
      vm := { s.vm with fq := rest }, st := { s.st with events := s.st.events ||| 16 } }) ∧
  (∀ (s : State) (f : FilterDesc), s.out.answers = [] → s.vm.fq = [f] → s.win.tf ≤ f.start → s.win.tf ≤ s.win.tw →
    s.win.tw < f.start + f.len →
    let room := s.ses.targetL - s.st.written
    let raw (n : Nat) : List Byte := (s.win.range s.win.tf n).take room
    (∃ u, doFlush true s = .ok () u ∧ u = { s with
      out := ⟨s.out.bytes ++ raw (s.win.tw - s.win.tf), []⟩, win := { s.win with tf := s.win.tw }, vm := { s.vm with fq := [] },
      st := { s.st with events := s.st.events ||| 16, written := s.st.written + (raw (s.win.tw - s.win.tf)).length } }) ∧
    (f.start < s.win.tw → ∃ u, doFlush false s = .ok () u ∧ u = { s with
      out := ⟨s.out.bytes ++ raw (f.start - s.win.tf), []⟩, win := { s.win with tf := f.start },
      vm := { s.vm with fq := [{ f with deferred := true }] },
      st := { s.st with written := s.st.written + (raw (f.start - s.win.tf)).length } }))

/-! ### The machine -/

/-- The state after reset is sound. -/
def Obligations.ResetIsSound : Prop := State.reset.Sound

/-- Every step from a sound state gives a sound state: the invariants of R121, R161, R25 (`TW - TF ≤ W` among them, R360), R24,
R28, R42, R49, R144, R370 and R392, and the canonical form of the model's memories. -/
def Obligations.EveryStepKeepsSoundness : Prop :=
  ∀ s t : State, s.Sound → step s = .next t → t.Sound

/-- From a sound state the machine always goes on: whatever the stream, the ports and the host do, a step gives a next state
(R390, R402, R431: no failure wedges the CORE). Where the spec does not say how it goes on, that it does is the model's choice: a
link of the PPM model that leads nowhere (log entry 10), `RC_RANGE` divided to 0 (log entry 28), a decode from a table with
`VALID = 0` (log entry 30). -/
def Obligations.SoundStatesAlwaysStep : Prop :=
  ∀ s : State, s.Sound → ∃ t, step s = .next t

/-- Decoding what the encoder wrote gives the instruction back, with every operand, and the bits after it: every well-formed
instruction, in every generation and with every escape byte. -/
def Obligations.DecodeUndoesEncode : Prop :=
  ∀ (c : Ctx) (i : Instr) (rest : List Bool), i.wf c = true → decode (slotOf c i) (encode c i ++ rest) = .ok (i, rest)

/-- A few words written out bit by bit from the tables of spec/30_encoding.md decode to their instructions (R81, R83, R90,
R92, R97, R88, R84, R85, R102, R109). -/
def Obligations.SampleWordsDecode : Prop :=
  decodeCmd 0x110000000C00000000#72 = .ok (.bcPeek 12) ∧
  decodeCmd 0x310000000300000005#72 = .ok (.winCopy 3 5) ∧
  decodeCmd 0xFF0000000000000000#72 = .error (.unknownOp 255) ∧
  -- LD symbol 264 = 1 0000 1000, no length bit, DD symbol 5 = 000101, one distance bit
  decode (.lz 3) [true, false, false, false, false, true, false, false, false, false, false, false, true, false, true, true] =
    .ok (.match1 0 5 1, []) ∧
  -- LD symbol 256, NEWFILE = 1, NEWTABLE = 0
  decode (.lz 0) [true, false, false, false, false, false, false, false, false, true, false] = .ok (.end10, []) ∧
  -- the nibbles 1111 0011: a run of 5 zeros
  decode .len [true, true, true, true, false, false, true, true] = .ok (.lenZrun 3, []) ∧
  -- the bytes 80 FE 24: TABLES, one SIZE byte
  decode .hdr [true, false, false, false, false, false, false, false, true, true, true, true, true, true, true, false,
    false, false, true, false, false, true, false, false] = .ok (.hdr 0x80 0xFE [0x24], []) ∧
  -- the decoded bytes 02 01 with ESC = 2
  decode (.ppm 2) [false, false, false, false, false, false, true, false, false, false, false, false, false, false, false, true] =
    .ok (.ppmLitesc, []) ∧
  decode .fkind [false, true, true] = .ok (.fkItanium, [])

/-- A step runs the instruction it decodes. Clauses (1), (3), (4) and (7) rest on the model's cut of the loop into steps, a DESIGN
CHOICE: when an action of the host is due (log entry 4), a table read cut into its entries and the set, the sub-header a step
of its own (log entry 5). (1) A command of the host that is due. (2) A block header: at the aligned position
the stream holds the bits of a well-formed header. (3) A length entry of an open table set. (4) A complete table set.
(5) A token of a block: past the boundary checks and the flush they may need, what the grammar of the dispatcher's state reads
from the machine's stream. (6) A PPM_ONLY byte; (7) a PPM sub-header. -/
def Obligations.StepRunsTheDecodedInstruction : Prop :=
  (∀ (s : State) (d : Nat) (w : BitVec 72) (rest : List HostEvent) (i : Instr),
    s.host = ⟨d, .cmd w⟩ :: rest → d = 0 ∨ s.isIdle = true → decodeCmd w = .ok i →
    step s = exec i { s with host := rest }) ∧
  (∀ (s : State) (i : Instr) (c : Ctx), s.quiet = true → s.ses.fsm = .hdr → s.par.cancel = false →
    s.targetReached = false → s.cur.Sound → s.cur.ready = true → s.cur.align.bitsLeft ≠ 0 →
    slotOf c i = .hdr → i.wf c = true → s.cur.align.streamBits 0 (encode c i).length = encode c i →
    ∃ cur, cur.bitpos = s.cur.align.bitpos + (encode c i).length ∧
      (∀ k, cur.streamBit k = s.cur.align.streamBit ((encode c i).length + k)) ∧
      step s = exec i { s.tick with cur := cur }) ∧
  (∀ (s : State) (i : Instr) (c : Ctx), s.quiet = true → s.ses.fsm = .tables → s.tabs.lenPos < s.tabs.lenTot →
    s.cur.ready = true → slotOf c i = .len → i.wf c = true →
    s.cur.streamBits 0 (encode c i).length = encode c i →
    ∃ cur, cur.bitpos = s.cur.bitpos + (encode c i).length ∧
      (∀ k, cur.streamBit k = s.cur.streamBit ((encode c i).length + k)) ∧
      step s = exec i { s.tick with cur := cur }) ∧
  (∀ s : State, s.quiet = true → s.ses.fsm = .tables → s.tabs.lenTot ≠ 0 → s.tabs.lenTot ≤ s.tabs.lenPos →
    step s = exec (if s.ses.hAudio then .audioTables (BitVec.ofNat 2 (s.tok.audioCh - 1)) (s.tabs.lens s.tabs.lenTot)
      else .lzTables (s.tabs.lens s.tabs.lenTot)) s.tick) ∧
  (∀ (s u v : State) (c : Cursor) (i : Instr) (sl : Slot), s.quiet = true → s.par.cancel = false →
    s.targetReached = false → refill s.cur = .ok () c →
    ((s.ses.fsm = .lz ∧ sl = .lz s.ses.verL ∨ s.ses.fsm = .aud ∧ sl = .aud) ∧ c.atEnd = false ∧
       c.bitpos < s.ses.blockEnd ∨
     s.ses.fsm = .ppm ∧ sl = .ppm s.ppm.esc ∧ c.pastEnd = false) →
    maybeFlush { s.tick with cur := c } = .ok () u → fetchParse noEffectYet sl.grammar [] u = .ok i v →
    step s = exec i v) ∧
  (∀ (s v : State) (c : Cursor) (i : Instr), s.quiet = true → s.par.cancel = false → s.ses.fsm = .ppmonly →
    s.st.written < s.ses.targetL → refill s.cur = .ok () c → c.pastEnd = false →
    fetchParse noEffectYet Slot.ppmOnly.grammar [] { s.tick with cur := c } = .ok i v → step s = exec i v) ∧
  (∀ (s v : State) (i : Instr), s.quiet = true → s.ses.fsm = .ppmhdr →
    fetchParse noEffectYet Slot.ppmHdr.grammar [] s.tick = .ok i v → step s = exec i v)

/-- The boundary checks (R359, R401, R395): the target first, so that success wins over truncation; then truncation, before a
header, a token, or a PPM token; then, in a Huffman-coded block, the end of the block. Before a PPM_ONLY byte (R364): the
target, with no flush and the port not read; then truncation. An input port that fails there, or while a header, a length
entry, a token or a sub-header is read, ends the session with `(TRUNCATED, READ_FAIL)` and no output (R397, R400). -/
def Obligations.BoundaryChecksComeInOrder : Prop :=
  (∀ (s : State) (c : Cursor), s.quiet = true → s.par.cancel = false → s.out.answers = [] →
    let truncated (t : State) : Prop := t.ses.fsm = .done ∧ t.st.kind = .failure ∧ t.st.reason = .truncated ∧
      t.st.detail = .none ∧ t.out = s.out ∧ t.win = s.win ∧ t.st.written = s.st.written
    (s.targetReached = true → s.ses.fsm ∈ [Fsm.hdr, .lz, .aud, .ppm] →
      ∃ u t, doFlush true s.tick = .ok () u ∧ step s = .next t ∧ t.ses.fsm = .done ∧ t.st.kind = .success ∧
        t.out = u.out ∧ t.win = u.win ∧ t.st.written = u.st.written) ∧
    (s.targetReached = false → s.ses.fsm = .hdr → refill s.cur.align = .ok () c → c.atEnd = true →
      ∃ t, step s = .next t ∧ truncated t) ∧
    (s.targetReached = false → s.ses.fsm ∈ [Fsm.lz, .aud] → refill s.cur = .ok () c → c.atEnd = true →
      ∃ t, step s = .next t ∧ truncated t) ∧
    (s.targetReached = false → s.ses.fsm = .ppm → refill s.cur = .ok () c → c.pastEnd = true →
      ∃ t, step s = .next t ∧ truncated t) ∧
    (s.targetReached = false → s.ses.fsm ∈ [Fsm.lz, .aud] → refill s.cur = .ok () c → c.atEnd = false →
      s.ses.blockEnd ≤ c.bitpos →
      ∃ u, doFlush false { s.tick with cur := c } = .ok () u ∧
        step s = .next { u with ses := { u.ses with fsm := .hdr } }) ∧
    (s.ses.fsm = .ppmonly → s.ses.targetL ≤ s.st.written → step s = .next { s.tick with
      st := { s.st with kind := .success, reason := .none, detail := .none, consumed := s.cur.consumedBytes },
      vm := { s.vm with fq := [] }, ses := { s.ses with fsm := .done } }) ∧
    (s.ses.fsm = .ppmonly → s.st.written < s.ses.targetL → refill s.cur = .ok () c → c.pastEnd = true →
      ∃ t, step s = .next t ∧ truncated t)) ∧
  (∀ (s u v : State) (c : Cursor) (f : Fatal) (sl : Slot), s.quiet = true → s.par.cancel = false →
    let readFailed (t : State) : Prop := t.ses.fsm = .done ∧ t.st.kind = .failure ∧ t.st.reason = .truncated ∧
      t.st.detail = .readFail ∧ t.vm.fq = [] ∧ t.st.consumed = t.cur.consumedBytes
    let unread (t : State) : Prop := readFailed t ∧ t.out = s.out ∧ t.win = s.win ∧ t.st.written = s.st.written
    (s.targetReached = false → s.ses.fsm = .hdr → refill s.cur.align = .error (.fatal f) c →
      ∃ t, step s = .next t ∧ unread t) ∧
    (s.targetReached = false ∧ s.ses.fsm ∈ [Fsm.lz, .aud, .ppm] ∨ s.ses.fsm = .ppmonly ∧ s.st.written < s.ses.targetL →
      refill s.cur = .error (.fatal f) c → ∃ t, step s = .next t ∧ unread t) ∧
    (s.ses.fsm = .tables → s.tabs.lenPos < s.tabs.lenTot → refill s.cur = .error (.fatal f) c →
      ∃ t, step s = .next t ∧ unread t) ∧
    (s.ses.fsm = .ppmhdr → refill s.cur = .error (.fatal f) c → ∃ t, step s = .next t ∧ unread t) ∧
    (s.targetReached = false → refill s.cur = .ok () c →
      ((s.ses.fsm = .lz ∧ sl = .lz s.ses.verL ∨ s.ses.fsm = .aud ∧ sl = .aud) ∧ c.atEnd = false ∧
         c.bitpos < s.ses.blockEnd ∨
       s.ses.fsm = .ppm ∧ sl = .ppm s.ppm.esc ∧ c.pastEnd = false) →
      maybeFlush { s.tick with cur := c } = .ok () u → fetchParse noEffectYet sl.grammar [] u = .error (.halt (.fatal f)) v →
      ∃ t, step s = .next t ∧ readFailed t ∧ t.out = u.out ∧ t.win = u.win ∧ t.st.written = u.st.written))

/-- The parameter/status port (R30 to R45): what every listed register reads as, with `CMD_ERR` cleared; an unlisted index
reads 0 and sets it. A write reaches a parameter register's named bits when idle; while busy only `CTRL`; all else is ignored
with `CMD_ERR`. The model's readings: a write of 0 leaves `CANCEL` set (log entry 13); reads are accepted in every state (log
entry 14); `CMDSTAT` reads as it was before the access clears it (log entry 12). -/
def Obligations.RegisterPortReadsAndWrites : Prop :=
  ∀ (s : State) (d : Nat) (idx : Byte) (rest : List HostEvent), d = 0 ∨ s.isIdle = true →
    (s.host = ⟨d, .regRead idx⟩ :: rest → ∃ t, step s = .next t ∧
      (∀ v, (idx.toNat, v) ∈ [
        (0x00, 0x58410001#32), (0x01, s.par.version.setWidth 32), (0x02, s.par.winsize),
        (0x03, if s.par.solid then 1 else 0), (0x04, s.par.targetLo), (0x05, s.par.targetHi),
        (0x06, s.par.ppmOrder.setWidth 32), (0x07, s.par.ppmMem), (0x08, if s.par.cancel then 1 else 0),
        (0x10, (match s.st.kind with | .none => 0 | .success => 1 | .partialRun => 2 | .failure => 3) +
          if s.isIdle then 0 else 16),
        (0x11, match s.st.reason with | .none => 0 | .hdrChecksum => 1 | .truncated => 2 | .corrupt => 3 | .writeFail => 4),
        (0x12, match s.st.detail with
          | .none => 0 | .badHeader => 1 | .noTables => 2 | .tableRejected => 3 | .nomem => 4 | .readFail => 5
          | .ppmStream => 6),
        (0x13, BitVec.ofNat 32 (s.st.written % 2 ^ 32)), (0x14, BitVec.ofNat 32 (s.st.written / 2 ^ 32)),
        (0x15, BitVec.ofNat 32 (s.cur.consumedBytes % 2 ^ 32)), (0x16, BitVec.ofNat 32 (s.cur.consumedBytes / 2 ^ 32)),
        (0x17, s.st.events), (0x18, if s.st.cmdErr then 1 else 0), (0x19, s.st.result)] →
        t.readData = v ∧ t.st.cmdErr = false) ∧
      (idx.toNat ∉ [0x00, 0x01, 0x02, 0x03, 0x04, 0x05, 0x06, 0x07, 0x08, 0x10, 0x11, 0x12, 0x13, 0x14, 0x15, 0x16, 0x17,
          0x18, 0x19] → t.readData = 0 ∧ t.st.cmdErr = true) ∧
      t.st.consumed = (if idx.toNat = 0x15 ∨ idx.toNat = 0x16 then s.cur.consumedBytes else s.st.consumed) ∧
      t = { s with
        host := rest, readData := t.readData, st := { s.st with cmdErr := t.st.cmdErr, consumed := t.st.consumed } }) ∧
    (∀ v : Word, s.host = ⟨d, .regWrite idx v⟩ :: rest →
      let wrote (p : Params) : State := { s with host := rest, par := p, st := { s.st with cmdErr := false } }
      let ignored : State := { s with host := rest, st := { s.st with cmdErr := true } }
      (idx.toNat = 8 → step s = .next (wrote { s.par with cancel := s.par.cancel || v.getLsbD 0 })) ∧
      (s.isIdle = true →
        (idx.toNat = 1 → step s = .next (wrote { s.par with version := v.extractLsb' 0 3 })) ∧
        (idx.toNat = 2 → step s = .next (wrote { s.par with winsize := v })) ∧
        (idx.toNat = 3 → step s = .next (wrote { s.par with solid := v.getLsbD 0 })) ∧
        (idx.toNat = 4 → step s = .next (wrote { s.par with targetLo := v })) ∧
        (idx.toNat = 5 → step s = .next (wrote { s.par with targetHi := v })) ∧
        (idx.toNat = 6 → step s = .next (wrote { s.par with ppmOrder := v.extractLsb' 0 8 })) ∧
        (idx.toNat = 7 → step s = .next (wrote { s.par with ppmMem := v }))) ∧
      (idx.toNat = 0 ∨ 8 < idx.toNat ∨ (s.isIdle = false ∧ idx.toNat ≠ 8) → step s = .next ignored))

/-- What only the host reaches (R30, R38, R44, R181, R352, R410): no instruction but `START`, `RESET` and `CANCEL` changes a
parameter register; but for `START` and `RESET` none clears an event or changes the latched version, nor, but for `WIN.INIT`,
the window's size or the target; and the CORE's own steps do not either. This is without a `RESET` that comes during a port call
(R430), whose effect `ResetGivesPowerOnValues` says. -/
def Obligations.OnlyTheHostReachesTheParameters : Prop :=
  let kept (s t : State) : Prop :=
    s.st.events &&& t.st.events = s.st.events ∧ t.ses.verL = s.ses.verL ∧ t.catalogue = s.catalogue ∧
    t.readData = s.readData
  let size (s t : State) : Prop := t.win.w = s.win.w ∧ t.ses.targetL = s.ses.targetL ∧ s.win.tw ≤ t.win.tw
  (∀ (i : Instr) (s t : State), s.calm = true → exec i s = .next t →
    (i ∉ [.start, .reset, .cancel] → t.par = s.par) ∧
    (i ∉ [.start, .reset] → kept s t) ∧ (i ∉ [.start, .reset, .winInit] → size s t)) ∧
  (∀ s t : State, s.calm = true → s.quiet = true → step s = .next t → t.par = s.par ∧ kept s t ∧ size s t)

/-- Output only grows (R53, R61, R366): no instruction takes a written byte back, and but for `START`, `RESET` and `WIN.INIT`,
which clear it, and a `RESET` during a port call (R430), `WRITTEN` counts the bytes; so for the CORE's own steps. And no byte is
overwritten before it is flushed (R25, R360, R442): in every step from a sound state that keeps the window, the bytes still
pending after it read as before. -/
def Obligations.OutputOnlyGrows : Prop :=
  (∀ (i : Instr) (s t : State), exec i s = .next t → ∃ more, t.out.bytes = s.out.bytes ++ more ∧
    (s.calm = true → i ∉ [.start, .reset, .winInit] → t.st.written = s.st.written + more.length)) ∧
  (∀ s t : State, s.quiet = true → step s = .next t → ∃ more, t.out.bytes = s.out.bytes ++ more ∧
    (s.calm = true → t.st.written = s.st.written + more.length)) ∧
  (∀ s t : State, s.Sound → step s = .next t → s.win.w = t.win.w → s.win.tw ≤ t.win.tw →
    ∀ a, t.win.tf ≤ a → a < s.win.tw → t.win.byteAt a = s.win.byteAt a)

/-- `BITPOS` never goes back (R21): not in any step of the CORE's own, nor by any instruction but `START`, `RESET` (also one that
comes during a port call, R430) and `BC.ATTACH`, which begin a stream anew. -/
def Obligations.BitposNeverGoesBack : Prop :=
  (∀ (i : Instr) (s t : State), s.calm = true → exec i s = .next t → i ∉ [.start, .reset, .bcAttach] → s.cur.bitpos ≤ t.cur.bitpos) ∧
  (∀ s t : State, s.calm = true → s.quiet = true → step s = .next t → s.cur.bitpos ≤ t.cur.bitpos)
end

