-- ==== Sys2Proof/Laws/Cursor.lean ====
section
/-! SUPPORT. Laws of the bit cursor: what each operation does to `BITPOS`, one lemma that says what `refill`, `peek`, `getbits` can
do, and that the cursor stays sound. -/

namespace Sys2Proof.Machine

theorem Cursor.bitpos_compact (c : Cursor) : c.compact.bitpos = c.bitpos := by
  simp only [Cursor.compact, Cursor.bitpos]
  omega

@[simp] theorem Cursor.bit_compact (c : Cursor) : c.compact.bit = c.bit := rfl
@[simp] theorem Cursor.rd_compact (c : Cursor) : c.compact.rd = 0 := rfl

/-! ### `settle` -/

/-- What `settle` does: nothing where R121's bound holds, else it compacts. -/
theorem Cursor.settle_cases (c : Cursor) :
    (c.eos = true ∨ c.rd ≤ c.top) ∧ c.settle = c ∨ c.eos = false ∧ c.top < c.rd ∧ c.settle = c.compact := by
  by_cases h : c.eos = true ∨ c.rd ≤ c.top
  · exact .inl ⟨h, if_pos (by simpa using h)⟩
  · have h' : c.eos = false ∧ c.top < c.rd := by simpa using h
    exact .inr ⟨h'.1, h'.2, if_neg (by simpa using h)⟩

theorem Cursor.bitpos_settle (c : Cursor) : c.settle.bitpos = c.bitpos := by
  obtain ⟨-, h⟩ | ⟨-, -, h⟩ := c.settle_cases <;> rw [h]
  exact c.bitpos_compact

/-- R121: `RD ≤ TOP` until the end of the stream is known. -/
theorem Cursor.settle_read (c : Cursor) (h : c.settle.eos = false) : c.settle.rd ≤ c.settle.top := by
  obtain ⟨hc, hs⟩ | ⟨-, -, hs⟩ := c.settle_cases
  · rw [hs] at h ⊢
    exact hc.resolve_left (by simp [h])
  · rw [hs]
    exact Nat.zero_le _

@[simp] theorem Cursor.settle_eos (c : Cursor) : c.settle.eos = c.eos := by unfold Cursor.settle; split <;> rfl
@[simp] theorem Cursor.settle_port (c : Cursor) : c.settle.port = c.port := by unfold Cursor.settle; split <;> rfl
@[simp] theorem Cursor.settle_bit (c : Cursor) : c.settle.bit = c.bit := by unfold Cursor.settle; split <;> rfl
@[simp] theorem Cursor.settle_streamLen (c : Cursor) : c.settle.streamLen = c.streamLen := by unfold Cursor.settle; split <;> rfl

/-! ### `consume`, `align`, `attach` -/

theorem Cursor.bitpos_consume (c : Cursor) (n : Nat) : (c.consume n).bitpos = c.bitpos + n := by
  rw [Cursor.consume, Cursor.bitpos_settle]
  simp only [Cursor.bitpos]
  omega

@[simp] theorem Cursor.consume_eos (c : Cursor) (n : Nat) : (c.consume n).eos = c.eos := Cursor.settle_eos _
@[simp] theorem Cursor.consume_port (c : Cursor) (n : Nat) : (c.consume n).port = c.port := Cursor.settle_port _
@[simp] theorem Cursor.consume_streamLen (c : Cursor) (n : Nat) : (c.consume n).streamLen = c.streamLen :=
  Cursor.settle_streamLen _
@[simp] theorem Cursor.attach_port (c : Cursor) : c.attach.port = c.port := rfl
@[simp] theorem Cursor.attach_bitpos (c : Cursor) : c.attach.bitpos = 0 := rfl

/-- `align()` (R128): the next byte boundary. -/
theorem Cursor.bitpos_align (c : Cursor) : c.align.bitpos = 8 * ((c.bitpos + 7) / 8) := by
  have hb := c.bit.isLt
  by_cases h : c.bit.val = 0
  · simp only [Cursor.align, Cursor.bitpos, h, if_true]
    omega
  · simp only [Cursor.align, h, if_false, Cursor.bitpos_settle]
    show 8 * (c.bufbase + (c.rd + 1)) + 0 = _
    simp only [Cursor.bitpos]
    omega

/-! ### `refill` -/

theorem Cursor.bitpos_append (c : Cursor) (l : List Byte) : (c.append l).bitpos = c.bitpos := rfl

/-- The end of the stream moves no bit (R129). -/
theorem Cursor.bitpos_ended (c : Cursor) : c.ended.bitpos = c.bitpos := by
  simp only [Cursor.ended, Cursor.bitpos]
  split <;> omega

@[simp] theorem Cursor.bit_append (c : Cursor) (l : List Byte) : (c.append l).bit = c.bit := rfl

/-- The cursor an operation reached, whether or not the port failed. -/
def resultCursor {α : Type} : EStateM.Result Halt Cursor α → Cursor
  | .ok _ c => c
  | .error _ c => c

theorem Cursor.bitpos_pull (c : Cursor) (port : List PortRead) :
    (resultCursor (c.pull port)).bitpos = c.bitpos := by
  induction port generalizing c with
  | nil => exact c.bitpos_ended
  | cons r rest ih =>
    match r with
    | .error => rfl
    | .reset => rfl
    | .data [] => exact c.bitpos_ended
    | .data (b :: t) =>
      simp only [Cursor.pull]
      split
      · split
        · rfl
        · exact (ih _).trans (Cursor.bitpos_append c (b :: t))
      · rfl

/-- `refill` never moves the cursor (R129). -/
theorem bitpos_refill (c : Cursor) : (resultCursor (refill c)).bitpos = c.bitpos := by
  simp only [refill]
  split
  · rfl
  · exact (Cursor.bitpos_pull _ _).trans (Cursor.bitpos_compact c)

/-! ### Soundness (R121) -/

/-- Compaction makes a cursor sound whose `RD` may have passed `TOP`. -/
theorem Cursor.compact_sound (c : Cursor) (he : c.eos = false) (ht : c.top ≤ Config.inbufSize)
    (hs : 0 < c.skip → c.buf = [] ∧ c.skip ≤ c.bufbase) : c.compact.Sound where
  top := (Nat.le_trans (by simp [Cursor.top, Cursor.compact]) ht)
  read := fun _ => Nat.zero_le _
  skipped := by
    intro h
    simp only [Cursor.compact] at h ⊢
    refine ⟨he, ?_, ?_⟩
    · by_cases h0 : 0 < c.skip
      · simp [(hs h0).1]
      · exact List.drop_eq_nil_of_le (by simp only [Cursor.top] at h; omega)
    · by_cases h0 : 0 < c.skip
      · have := (hs h0).2
        omega
      · omega
  streamLen := fun h => by simp [Cursor.compact, he] at h

theorem Cursor.settle_sound (c : Cursor) (ht : c.top ≤ Config.inbufSize)
    (hs : 0 < c.skip → c.eos = false ∧ c.buf = [] ∧ c.skip ≤ c.bufbase)
    (hl : c.eos = true → c.streamLen = c.bufbase + c.top) : c.settle.Sound := by
  obtain ⟨hc, h⟩ | ⟨he, -, h⟩ := c.settle_cases <;> rw [h]
  · exact ⟨ht, fun he => hc.resolve_left (by simp [he]), hs, hl⟩
  · exact c.compact_sound he ht fun h0 => (hs h0).2

theorem Cursor.consume_sound (c : Cursor) (n : Nat) (h : c.Sound) : (c.consume n).Sound :=
  Cursor.settle_sound _ h.top h.skipped h.streamLen

theorem Cursor.align_sound (c : Cursor) (h : c.Sound) : c.align.Sound := by
  unfold Cursor.align
  split
  · exact h
  · exact Cursor.settle_sound _ h.top h.skipped h.streamLen

theorem Cursor.append_sound (c : Cursor) (l : List Byte) (he : c.eos = false) (h : c.Sound) : (c.append l).Sound where
  top := by
    have := h.top
    simp only [Cursor.top, Cursor.append, List.length_append, List.length_take] at this ⊢
    omega
  read := fun _ => by
    have := h.read he
    simp only [Cursor.top, Cursor.append, List.length_append] at this ⊢
    omega
  skipped := by
    intro hk
    simp only [Cursor.append] at hk ⊢
    obtain ⟨-, hb, hl⟩ := h.skipped (by omega)
    exact ⟨he, by simp [hb, List.drop_eq_nil_of_le (show l.length ≤ c.skip by omega)], by omega⟩
  streamLen := fun h1 => by simp [Cursor.append, he] at h1

theorem Cursor.ended_sound (c : Cursor) (h : c.Sound) : c.ended.Sound :=
  ⟨h.top, fun h1 => by simp [Cursor.ended] at h1, fun h1 => by simp [Cursor.ended] at h1, fun _ => rfl⟩

/-- Soundness does not speak of the port. -/
theorem Cursor.port_sound (c : Cursor) (p : List PortRead) (h : c.Sound) : ({ c with port := p } : Cursor).Sound :=
  ⟨h.top, h.read, h.skipped, h.streamLen⟩

theorem Cursor.pull_sound (c : Cursor) (port : List PortRead) (he : c.eos = false) (h : c.Sound) :
    (resultCursor (c.pull port)).Sound := by
  induction port generalizing c with
  | nil => exact Cursor.port_sound _ _ (c.ended_sound h)
  | cons r rest ih =>
    match r with
    | .error => exact c.port_sound _ h
    | .reset => exact c.port_sound _ h
    | .data [] => exact Cursor.port_sound _ _ (c.ended_sound h)
    | .data (b :: t) =>
      have ha := c.append_sound (b :: t) he h
      simp only [Cursor.pull]
      split
      · split
        · exact Cursor.port_sound _ _ ha
        · exact ih _ he ha
      · exact Cursor.port_sound _ _ ha

/-- `refill` keeps a cursor sound, whether or not the port fails. -/
theorem refill_sound (c : Cursor) (h : c.Sound) : (resultCursor (refill c)).Sound := by
  simp only [refill]
  split
  · exact h
  · rename_i hf
    have he : c.eos = false := by
      cases hc : c.eos
      · rfl
      · simp [hc] at hf
    exact Cursor.pull_sound _ _ he (c.compact_sound he h.top fun h0 => (h.skipped h0).2)

/-- `refill` is abandoned for a failed read (spec/60_exceptions.md R397), or by a `RESET` that is among the port's answers
(spec/70_reset_and_hazards.md R430). -/
theorem pull_error (c c1 : Cursor) (port : List PortRead) (f : Halt) (h : c.pull port = .error f c1) :
    f = .fatal ⟨.truncated, .readFail⟩ ∨ f = .reset ∧ PortRead.reset ∈ port := by
  induction port generalizing c with
  | nil => simp [Cursor.pull] at h
  | cons r rest ih =>
    match r with
    | .error =>
      simp only [Cursor.pull, EStateM.Result.error.injEq] at h
      exact .inl h.1.symm
    | .reset =>
      simp only [Cursor.pull, EStateM.Result.error.injEq] at h
      exact .inr ⟨h.1.symm, List.mem_cons_self⟩
    | .data [] => simp [Cursor.pull] at h
    | .data (b :: t) =>
      simp only [Cursor.pull] at h
      split at h
      · split at h
        · cases h
        · exact (ih _ h).imp_right fun k => ⟨k.1, List.mem_cons_of_mem _ k.2⟩
      · cases h

theorem refill_error (c c1 : Cursor) (f : Halt) (h : refill c = .error f c1) :
    f = .fatal ⟨.truncated, .readFail⟩ ∨ f = .reset ∧ PortRead.reset ∈ c.port := by
  simp only [refill] at h
  split at h
  · cases h
  · exact pull_error _ _ _ _ h

/-- What `peek` does (R124): it refills, and looks at the buffer. -/
theorem peek_eq (n : Nat) (c : Cursor) :
    peek n c = match refill c with
      | .ok _ c1 => .ok (c1.look n) c1
      | .error f c1 => .error f c1 := by
  simp only [peek, bind, EStateM.bind, get, getThe, MonadStateOf.get, EStateM.get, pure, EStateM.pure]
  cases refill c <;> rfl

/-- What `getbits` does (R126): it peeks and consumes. -/
theorem getbits_eq (n : Nat) (c : Cursor) :
    getbits n c = match refill c with
      | .ok _ c1 => .ok (c1.look n) (c1.consume n)
      | .error f c1 => .error f c1 := by
  simp only [getbits, bind, EStateM.bind, peek_eq, modify, modifyGet, MonadStateOf.modifyGet, EStateM.modifyGet, pure,
    EStateM.pure]
  cases refill c <;> rfl

/-- What `exhausted` does (R130). -/
theorem exhausted_eq (c : Cursor) :
    exhausted c = match refill c with
      | .ok _ c1 => .ok c1.atEnd c1
      | .error f c1 => .error f c1 := by
  simp only [exhausted, bind, EStateM.bind, get, getThe, MonadStateOf.get, EStateM.get, pure, EStateM.pure]
  cases refill c <;> rfl

/-- What `overrun` does (R130). -/
theorem overrun_eq (c : Cursor) :
    overrun c = match refill c with
      | .ok _ c1 => .ok c1.pastEnd c1
      | .error f c1 => .error f c1 := by
  simp only [overrun, bind, EStateM.bind, get, getThe, MonadStateOf.get, EStateM.get, pure, EStateM.pure]
  cases refill c <;> rfl

end Sys2Proof.Machine
end

