-- ==== Sys2Proof/Laws/Decode.lean ====
section
/-! SUPPORT. Bits and numbers, and how a grammar reads the bits of one field. -/

namespace Sys2Proof

@[simp] theorem length_natToBits (n v : Nat) : (natToBits n v).length = n := by
  induction n with
  | zero => rfl
  | succ n ih => simp [natToBits, ih]

/-- Reading from an accumulator. -/
theorem foldl_bits (l : List Bool) (a : Nat) :
    l.foldl (fun a b => 2 * a + b.toNat) a = a * 2 ^ l.length + bitsToNat l := by
  unfold bitsToNat
  induction l generalizing a with
  | nil => simp
  | cons x t ih =>
    simp only [List.foldl_cons, List.length_cons]
    rw [ih, ih (2 * 0 + x.toNat), Nat.pow_succ]
    ring

@[simp] theorem bitsToNat_nil : bitsToNat [] = 0 := rfl

theorem bitsToNat_cons (x : Bool) (t : List Bool) : bitsToNat (x :: t) = x.toNat * 2 ^ t.length + bitsToNat t := by
  have := foldl_bits t (2 * 0 + x.toNat)
  simpa [bitsToNat] using this

/-- The low `n` bits of a number, read back. -/
theorem bitsToNat_natToBits (n v : Nat) : bitsToNat (natToBits n v) = v % 2 ^ n := by
  induction n with
  | zero => simp [natToBits, Nat.mod_one]
  | succ n ih =>
    rw [natToBits, bitsToNat_cons, length_natToBits, ih, Nat.mod_pow_succ, Nat.testBit_eq_decide_div_mod_eq, Nat.mul_comm]
    have h := Nat.mod_two_eq_zero_or_one (v / 2 ^ n)
    rcases h with h | h <;> simp [h, Nat.add_comm]

theorem bitsToNat_natToBits_of_lt (n v : Nat) (h : v < 2 ^ n) : bitsToNat (natToBits n v) = v := by
  rw [bitsToNat_natToBits, Nat.mod_eq_of_lt h]

/-- A grammar that reads a field reads its value and goes on with the rest. -/
theorem runBits_field {α : Type} (f : Field) (k : Nat → Parse α) (v : Nat) (l : List Bool) (h : v < 2 ^ f.width) :
    (Parse.field f k).runBits (natToBits f.width v ++ l) = (k v).runBits l := by
  have hl : (natToBits f.width v ++ l).length = f.width + l.length := by simp
  rw [Parse.runBits, if_neg (by omega), List.take_left' (length_natToBits _ _), List.drop_left' (length_natToBits _ _),
    bitsToNat_natToBits_of_lt _ _ h]

@[simp] theorem runBits_ret {α : Type} (a : α) (l : List Bool) : (Parse.ret a).runBits l = .ok (a, l) := rfl
@[simp] theorem runBits_fail {α : Type} (r : Reject) (l : List Bool) : (Parse.fail r : Parse α).runBits l = .error r := rfl

/-- A byte written and read. -/
theorem runBits_byte {α : Type} (b : Byte) (k : Nat → Parse α) (l : List Bool) :
    (Parse.field .byte k).runBits (encByte b ++ l) = (k b.toNat).runBits l :=
  runBits_field .byte k b.toNat l b.isLt

@[simp] theorem toByte_toNat (b : Byte) : toByte b.toNat = b := by simp [toByte]

/-- Bytes written and read. -/
theorem runBits_bytes {α : Type} (bs : List Byte) (k : List Byte → Parse α) (l : List Bool) :
    (Parse.bytes .byte bs.length k).runBits (encBytes bs ++ l) = (k bs).runBits l := by
  induction bs generalizing k with
  | nil => rfl
  | cons b t ih =>
    rw [List.length_cons, Parse.bytes]
    have : encBytes (b :: t) ++ l = encByte b ++ (encBytes t ++ l) := by simp [encBytes]
    rw [this, runBits_byte, ih, toByte_toNat]

end Sys2Proof
end

