-- ==== Sys2Proof/Laws/State.lean ====
section
/-! SUPPORT. One lemma for each field of the state and each update: what the field is after the update. -/

namespace Sys2Proof.Machine.State

variable (s : State)

@[simp] theorem setCur_cur (x : Cursor) : (s.setCur x).cur = x := rfl
@[simp] theorem setCur_win (x : Cursor) : (s.setCur x).win = s.win := rfl
@[simp] theorem setCur_tabs (x : Cursor) : (s.setCur x).tabs = s.tabs := rfl
@[simp] theorem setCur_tok (x : Cursor) : (s.setCur x).tok = s.tok := rfl
@[simp] theorem setCur_par (x : Cursor) : (s.setCur x).par = s.par := rfl
@[simp] theorem setCur_st (x : Cursor) : (s.setCur x).st = s.st := rfl
@[simp] theorem setCur_ppm (x : Cursor) : (s.setCur x).ppm = s.ppm := rfl
@[simp] theorem setCur_rc (x : Cursor) : (s.setCur x).rc = s.rc := rfl
@[simp] theorem setCur_sa (x : Cursor) : (s.setCur x).sa = s.sa := rfl
@[simp] theorem setCur_vm (x : Cursor) : (s.setCur x).vm = s.vm := rfl
@[simp] theorem setCur_ses (x : Cursor) : (s.setCur x).ses = s.ses := rfl
@[simp] theorem setCur_out (x : Cursor) : (s.setCur x).out = s.out := rfl
@[simp] theorem setCur_host (x : Cursor) : (s.setCur x).host = s.host := rfl
@[simp] theorem setCur_readData (x : Cursor) : (s.setCur x).readData = s.readData := rfl
@[simp] theorem setCur_catalogue (x : Cursor) : (s.setCur x).catalogue = s.catalogue := rfl

@[simp] theorem setWin_cur (x : Window) : (s.setWin x).cur = s.cur := rfl
@[simp] theorem setWin_win (x : Window) : (s.setWin x).win = x := rfl
@[simp] theorem setWin_tabs (x : Window) : (s.setWin x).tabs = s.tabs := rfl
@[simp] theorem setWin_tok (x : Window) : (s.setWin x).tok = s.tok := rfl
@[simp] theorem setWin_par (x : Window) : (s.setWin x).par = s.par := rfl
@[simp] theorem setWin_st (x : Window) : (s.setWin x).st = s.st := rfl
@[simp] theorem setWin_ppm (x : Window) : (s.setWin x).ppm = s.ppm := rfl
@[simp] theorem setWin_rc (x : Window) : (s.setWin x).rc = s.rc := rfl
@[simp] theorem setWin_sa (x : Window) : (s.setWin x).sa = s.sa := rfl
@[simp] theorem setWin_vm (x : Window) : (s.setWin x).vm = s.vm := rfl
@[simp] theorem setWin_ses (x : Window) : (s.setWin x).ses = s.ses := rfl
@[simp] theorem setWin_out (x : Window) : (s.setWin x).out = s.out := rfl
@[simp] theorem setWin_host (x : Window) : (s.setWin x).host = s.host := rfl
@[simp] theorem setWin_readData (x : Window) : (s.setWin x).readData = s.readData := rfl
@[simp] theorem setWin_catalogue (x : Window) : (s.setWin x).catalogue = s.catalogue := rfl

@[simp] theorem setTabs_cur (x : Tables) : (s.setTabs x).cur = s.cur := rfl
@[simp] theorem setTabs_win (x : Tables) : (s.setTabs x).win = s.win := rfl
@[simp] theorem setTabs_tabs (x : Tables) : (s.setTabs x).tabs = x := rfl
@[simp] theorem setTabs_tok (x : Tables) : (s.setTabs x).tok = s.tok := rfl
@[simp] theorem setTabs_par (x : Tables) : (s.setTabs x).par = s.par := rfl
@[simp] theorem setTabs_st (x : Tables) : (s.setTabs x).st = s.st := rfl
@[simp] theorem setTabs_ppm (x : Tables) : (s.setTabs x).ppm = s.ppm := rfl
@[simp] theorem setTabs_rc (x : Tables) : (s.setTabs x).rc = s.rc := rfl
@[simp] theorem setTabs_sa (x : Tables) : (s.setTabs x).sa = s.sa := rfl
@[simp] theorem setTabs_vm (x : Tables) : (s.setTabs x).vm = s.vm := rfl
@[simp] theorem setTabs_ses (x : Tables) : (s.setTabs x).ses = s.ses := rfl
@[simp] theorem setTabs_out (x : Tables) : (s.setTabs x).out = s.out := rfl
@[simp] theorem setTabs_host (x : Tables) : (s.setTabs x).host = s.host := rfl
@[simp] theorem setTabs_readData (x : Tables) : (s.setTabs x).readData = s.readData := rfl
@[simp] theorem setTabs_catalogue (x : Tables) : (s.setTabs x).catalogue = s.catalogue := rfl

@[simp] theorem setTok_cur (x : TokenState) : (s.setTok x).cur = s.cur := rfl
@[simp] theorem setTok_win (x : TokenState) : (s.setTok x).win = s.win := rfl
@[simp] theorem setTok_tabs (x : TokenState) : (s.setTok x).tabs = s.tabs := rfl
@[simp] theorem setTok_tok (x : TokenState) : (s.setTok x).tok = x := rfl
@[simp] theorem setTok_par (x : TokenState) : (s.setTok x).par = s.par := rfl
@[simp] theorem setTok_st (x : TokenState) : (s.setTok x).st = s.st := rfl
@[simp] theorem setTok_ppm (x : TokenState) : (s.setTok x).ppm = s.ppm := rfl
@[simp] theorem setTok_rc (x : TokenState) : (s.setTok x).rc = s.rc := rfl
@[simp] theorem setTok_sa (x : TokenState) : (s.setTok x).sa = s.sa := rfl
@[simp] theorem setTok_vm (x : TokenState) : (s.setTok x).vm = s.vm := rfl
@[simp] theorem setTok_ses (x : TokenState) : (s.setTok x).ses = s.ses := rfl
@[simp] theorem setTok_out (x : TokenState) : (s.setTok x).out = s.out := rfl
@[simp] theorem setTok_host (x : TokenState) : (s.setTok x).host = s.host := rfl
@[simp] theorem setTok_readData (x : TokenState) : (s.setTok x).readData = s.readData := rfl
@[simp] theorem setTok_catalogue (x : TokenState) : (s.setTok x).catalogue = s.catalogue := rfl

@[simp] theorem setPar_cur (x : Params) : (s.setPar x).cur = s.cur := rfl
@[simp] theorem setPar_win (x : Params) : (s.setPar x).win = s.win := rfl
@[simp] theorem setPar_tabs (x : Params) : (s.setPar x).tabs = s.tabs := rfl
@[simp] theorem setPar_tok (x : Params) : (s.setPar x).tok = s.tok := rfl
@[simp] theorem setPar_par (x : Params) : (s.setPar x).par = x := rfl
@[simp] theorem setPar_st (x : Params) : (s.setPar x).st = s.st := rfl
@[simp] theorem setPar_ppm (x : Params) : (s.setPar x).ppm = s.ppm := rfl
@[simp] theorem setPar_rc (x : Params) : (s.setPar x).rc = s.rc := rfl
@[simp] theorem setPar_sa (x : Params) : (s.setPar x).sa = s.sa := rfl
@[simp] theorem setPar_vm (x : Params) : (s.setPar x).vm = s.vm := rfl
@[simp] theorem setPar_ses (x : Params) : (s.setPar x).ses = s.ses := rfl
@[simp] theorem setPar_out (x : Params) : (s.setPar x).out = s.out := rfl
@[simp] theorem setPar_host (x : Params) : (s.setPar x).host = s.host := rfl
@[simp] theorem setPar_readData (x : Params) : (s.setPar x).readData = s.readData := rfl
@[simp] theorem setPar_catalogue (x : Params) : (s.setPar x).catalogue = s.catalogue := rfl

@[simp] theorem setSt_cur (x : Status) : (s.setSt x).cur = s.cur := rfl
@[simp] theorem setSt_win (x : Status) : (s.setSt x).win = s.win := rfl
@[simp] theorem setSt_tabs (x : Status) : (s.setSt x).tabs = s.tabs := rfl
@[simp] theorem setSt_tok (x : Status) : (s.setSt x).tok = s.tok := rfl
@[simp] theorem setSt_par (x : Status) : (s.setSt x).par = s.par := rfl
@[simp] theorem setSt_st (x : Status) : (s.setSt x).st = x := rfl
@[simp] theorem setSt_ppm (x : Status) : (s.setSt x).ppm = s.ppm := rfl
@[simp] theorem setSt_rc (x : Status) : (s.setSt x).rc = s.rc := rfl
@[simp] theorem setSt_sa (x : Status) : (s.setSt x).sa = s.sa := rfl
@[simp] theorem setSt_vm (x : Status) : (s.setSt x).vm = s.vm := rfl
@[simp] theorem setSt_ses (x : Status) : (s.setSt x).ses = s.ses := rfl
@[simp] theorem setSt_out (x : Status) : (s.setSt x).out = s.out := rfl
@[simp] theorem setSt_host (x : Status) : (s.setSt x).host = s.host := rfl
@[simp] theorem setSt_readData (x : Status) : (s.setSt x).readData = s.readData := rfl
@[simp] theorem setSt_catalogue (x : Status) : (s.setSt x).catalogue = s.catalogue := rfl

@[simp] theorem setPpm_cur (x : PpmModel) : (s.setPpm x).cur = s.cur := rfl
@[simp] theorem setPpm_win (x : PpmModel) : (s.setPpm x).win = s.win := rfl
@[simp] theorem setPpm_tabs (x : PpmModel) : (s.setPpm x).tabs = s.tabs := rfl
@[simp] theorem setPpm_tok (x : PpmModel) : (s.setPpm x).tok = s.tok := rfl
@[simp] theorem setPpm_par (x : PpmModel) : (s.setPpm x).par = s.par := rfl
@[simp] theorem setPpm_st (x : PpmModel) : (s.setPpm x).st = s.st := rfl
@[simp] theorem setPpm_ppm (x : PpmModel) : (s.setPpm x).ppm = x := rfl
@[simp] theorem setPpm_rc (x : PpmModel) : (s.setPpm x).rc = s.rc := rfl
@[simp] theorem setPpm_sa (x : PpmModel) : (s.setPpm x).sa = s.sa := rfl
@[simp] theorem setPpm_vm (x : PpmModel) : (s.setPpm x).vm = s.vm := rfl
@[simp] theorem setPpm_ses (x : PpmModel) : (s.setPpm x).ses = s.ses := rfl
@[simp] theorem setPpm_out (x : PpmModel) : (s.setPpm x).out = s.out := rfl
@[simp] theorem setPpm_host (x : PpmModel) : (s.setPpm x).host = s.host := rfl
@[simp] theorem setPpm_readData (x : PpmModel) : (s.setPpm x).readData = s.readData := rfl
@[simp] theorem setPpm_catalogue (x : PpmModel) : (s.setPpm x).catalogue = s.catalogue := rfl

@[simp] theorem setRc_cur (x : RangeCoder) : (s.setRc x).cur = s.cur := rfl
@[simp] theorem setRc_win (x : RangeCoder) : (s.setRc x).win = s.win := rfl
@[simp] theorem setRc_tabs (x : RangeCoder) : (s.setRc x).tabs = s.tabs := rfl
@[simp] theorem setRc_tok (x : RangeCoder) : (s.setRc x).tok = s.tok := rfl
@[simp] theorem setRc_par (x : RangeCoder) : (s.setRc x).par = s.par := rfl
@[simp] theorem setRc_st (x : RangeCoder) : (s.setRc x).st = s.st := rfl
@[simp] theorem setRc_ppm (x : RangeCoder) : (s.setRc x).ppm = s.ppm := rfl
@[simp] theorem setRc_rc (x : RangeCoder) : (s.setRc x).rc = x := rfl
@[simp] theorem setRc_sa (x : RangeCoder) : (s.setRc x).sa = s.sa := rfl
@[simp] theorem setRc_vm (x : RangeCoder) : (s.setRc x).vm = s.vm := rfl
@[simp] theorem setRc_ses (x : RangeCoder) : (s.setRc x).ses = s.ses := rfl
@[simp] theorem setRc_out (x : RangeCoder) : (s.setRc x).out = s.out := rfl
@[simp] theorem setRc_host (x : RangeCoder) : (s.setRc x).host = s.host := rfl
@[simp] theorem setRc_readData (x : RangeCoder) : (s.setRc x).readData = s.readData := rfl
@[simp] theorem setRc_catalogue (x : RangeCoder) : (s.setRc x).catalogue = s.catalogue := rfl

@[simp] theorem setSa_cur (x : SubAlloc) : (s.setSa x).cur = s.cur := rfl
@[simp] theorem setSa_win (x : SubAlloc) : (s.setSa x).win = s.win := rfl
@[simp] theorem setSa_tabs (x : SubAlloc) : (s.setSa x).tabs = s.tabs := rfl
@[simp] theorem setSa_tok (x : SubAlloc) : (s.setSa x).tok = s.tok := rfl
@[simp] theorem setSa_par (x : SubAlloc) : (s.setSa x).par = s.par := rfl
@[simp] theorem setSa_st (x : SubAlloc) : (s.setSa x).st = s.st := rfl
@[simp] theorem setSa_ppm (x : SubAlloc) : (s.setSa x).ppm = s.ppm := rfl
@[simp] theorem setSa_rc (x : SubAlloc) : (s.setSa x).rc = s.rc := rfl
@[simp] theorem setSa_sa (x : SubAlloc) : (s.setSa x).sa = x := rfl
@[simp] theorem setSa_vm (x : SubAlloc) : (s.setSa x).vm = s.vm := rfl
@[simp] theorem setSa_ses (x : SubAlloc) : (s.setSa x).ses = s.ses := rfl
@[simp] theorem setSa_out (x : SubAlloc) : (s.setSa x).out = s.out := rfl
@[simp] theorem setSa_host (x : SubAlloc) : (s.setSa x).host = s.host := rfl
@[simp] theorem setSa_readData (x : SubAlloc) : (s.setSa x).readData = s.readData := rfl
@[simp] theorem setSa_catalogue (x : SubAlloc) : (s.setSa x).catalogue = s.catalogue := rfl

@[simp] theorem setVm_cur (x : FilterVm) : (s.setVm x).cur = s.cur := rfl
@[simp] theorem setVm_win (x : FilterVm) : (s.setVm x).win = s.win := rfl
@[simp] theorem setVm_tabs (x : FilterVm) : (s.setVm x).tabs = s.tabs := rfl
@[simp] theorem setVm_tok (x : FilterVm) : (s.setVm x).tok = s.tok := rfl
@[simp] theorem setVm_par (x : FilterVm) : (s.setVm x).par = s.par := rfl
@[simp] theorem setVm_st (x : FilterVm) : (s.setVm x).st = s.st := rfl
@[simp] theorem setVm_ppm (x : FilterVm) : (s.setVm x).ppm = s.ppm := rfl
@[simp] theorem setVm_rc (x : FilterVm) : (s.setVm x).rc = s.rc := rfl
@[simp] theorem setVm_sa (x : FilterVm) : (s.setVm x).sa = s.sa := rfl
@[simp] theorem setVm_vm (x : FilterVm) : (s.setVm x).vm = x := rfl
@[simp] theorem setVm_ses (x : FilterVm) : (s.setVm x).ses = s.ses := rfl
@[simp] theorem setVm_out (x : FilterVm) : (s.setVm x).out = s.out := rfl
@[simp] theorem setVm_host (x : FilterVm) : (s.setVm x).host = s.host := rfl
@[simp] theorem setVm_readData (x : FilterVm) : (s.setVm x).readData = s.readData := rfl
@[simp] theorem setVm_catalogue (x : FilterVm) : (s.setVm x).catalogue = s.catalogue := rfl

@[simp] theorem setSes_cur (x : Session) : (s.setSes x).cur = s.cur := rfl
@[simp] theorem setSes_win (x : Session) : (s.setSes x).win = s.win := rfl
@[simp] theorem setSes_tabs (x : Session) : (s.setSes x).tabs = s.tabs := rfl
@[simp] theorem setSes_tok (x : Session) : (s.setSes x).tok = s.tok := rfl
@[simp] theorem setSes_par (x : Session) : (s.setSes x).par = s.par := rfl
@[simp] theorem setSes_st (x : Session) : (s.setSes x).st = s.st := rfl
@[simp] theorem setSes_ppm (x : Session) : (s.setSes x).ppm = s.ppm := rfl
@[simp] theorem setSes_rc (x : Session) : (s.setSes x).rc = s.rc := rfl
@[simp] theorem setSes_sa (x : Session) : (s.setSes x).sa = s.sa := rfl
@[simp] theorem setSes_vm (x : Session) : (s.setSes x).vm = s.vm := rfl
@[simp] theorem setSes_ses (x : Session) : (s.setSes x).ses = x := rfl
@[simp] theorem setSes_out (x : Session) : (s.setSes x).out = s.out := rfl
@[simp] theorem setSes_host (x : Session) : (s.setSes x).host = s.host := rfl
@[simp] theorem setSes_readData (x : Session) : (s.setSes x).readData = s.readData := rfl
@[simp] theorem setSes_catalogue (x : Session) : (s.setSes x).catalogue = s.catalogue := rfl

@[simp] theorem setOut_cur (x : OutPort) : (s.setOut x).cur = s.cur := rfl
@[simp] theorem setOut_win (x : OutPort) : (s.setOut x).win = s.win := rfl
@[simp] theorem setOut_tabs (x : OutPort) : (s.setOut x).tabs = s.tabs := rfl
@[simp] theorem setOut_tok (x : OutPort) : (s.setOut x).tok = s.tok := rfl
@[simp] theorem setOut_par (x : OutPort) : (s.setOut x).par = s.par := rfl
@[simp] theorem setOut_st (x : OutPort) : (s.setOut x).st = s.st := rfl
@[simp] theorem setOut_ppm (x : OutPort) : (s.setOut x).ppm = s.ppm := rfl
@[simp] theorem setOut_rc (x : OutPort) : (s.setOut x).rc = s.rc := rfl
@[simp] theorem setOut_sa (x : OutPort) : (s.setOut x).sa = s.sa := rfl
@[simp] theorem setOut_vm (x : OutPort) : (s.setOut x).vm = s.vm := rfl
@[simp] theorem setOut_ses (x : OutPort) : (s.setOut x).ses = s.ses := rfl
@[simp] theorem setOut_out (x : OutPort) : (s.setOut x).out = x := rfl
@[simp] theorem setOut_host (x : OutPort) : (s.setOut x).host = s.host := rfl
@[simp] theorem setOut_readData (x : OutPort) : (s.setOut x).readData = s.readData := rfl
@[simp] theorem setOut_catalogue (x : OutPort) : (s.setOut x).catalogue = s.catalogue := rfl

@[simp] theorem setHost_cur (x : List HostEvent) : (s.setHost x).cur = s.cur := rfl
@[simp] theorem setHost_win (x : List HostEvent) : (s.setHost x).win = s.win := rfl
@[simp] theorem setHost_tabs (x : List HostEvent) : (s.setHost x).tabs = s.tabs := rfl
@[simp] theorem setHost_tok (x : List HostEvent) : (s.setHost x).tok = s.tok := rfl
@[simp] theorem setHost_par (x : List HostEvent) : (s.setHost x).par = s.par := rfl
@[simp] theorem setHost_st (x : List HostEvent) : (s.setHost x).st = s.st := rfl
@[simp] theorem setHost_ppm (x : List HostEvent) : (s.setHost x).ppm = s.ppm := rfl
@[simp] theorem setHost_rc (x : List HostEvent) : (s.setHost x).rc = s.rc := rfl
@[simp] theorem setHost_sa (x : List HostEvent) : (s.setHost x).sa = s.sa := rfl
@[simp] theorem setHost_vm (x : List HostEvent) : (s.setHost x).vm = s.vm := rfl
@[simp] theorem setHost_ses (x : List HostEvent) : (s.setHost x).ses = s.ses := rfl
@[simp] theorem setHost_out (x : List HostEvent) : (s.setHost x).out = s.out := rfl
@[simp] theorem setHost_host (x : List HostEvent) : (s.setHost x).host = x := rfl
@[simp] theorem setHost_readData (x : List HostEvent) : (s.setHost x).readData = s.readData := rfl
@[simp] theorem setHost_catalogue (x : List HostEvent) : (s.setHost x).catalogue = s.catalogue := rfl

@[simp] theorem setReadData_cur (x : Word) : (s.setReadData x).cur = s.cur := rfl
@[simp] theorem setReadData_win (x : Word) : (s.setReadData x).win = s.win := rfl
@[simp] theorem setReadData_tabs (x : Word) : (s.setReadData x).tabs = s.tabs := rfl
@[simp] theorem setReadData_tok (x : Word) : (s.setReadData x).tok = s.tok := rfl
@[simp] theorem setReadData_par (x : Word) : (s.setReadData x).par = s.par := rfl
@[simp] theorem setReadData_st (x : Word) : (s.setReadData x).st = s.st := rfl
@[simp] theorem setReadData_ppm (x : Word) : (s.setReadData x).ppm = s.ppm := rfl
@[simp] theorem setReadData_rc (x : Word) : (s.setReadData x).rc = s.rc := rfl
@[simp] theorem setReadData_sa (x : Word) : (s.setReadData x).sa = s.sa := rfl
@[simp] theorem setReadData_vm (x : Word) : (s.setReadData x).vm = s.vm := rfl
@[simp] theorem setReadData_ses (x : Word) : (s.setReadData x).ses = s.ses := rfl
@[simp] theorem setReadData_out (x : Word) : (s.setReadData x).out = s.out := rfl
@[simp] theorem setReadData_host (x : Word) : (s.setReadData x).host = s.host := rfl
@[simp] theorem setReadData_readData (x : Word) : (s.setReadData x).readData = x := rfl
@[simp] theorem setReadData_catalogue (x : Word) : (s.setReadData x).catalogue = s.catalogue := rfl

end Sys2Proof.Machine.State
end

