-- ==== Sys2Proof/Laws/Ops.lean ====
section
/-! SUPPORT. Laws of the shared operations over the whole state: the parts each leaves alone, and one lemma for each that says
what it can do. -/

namespace Sys2Proof.Machine

/-! ### The parts each update leaves alone -/

@[simp] theorem State.note_cur (s : State) (e : Event) : (s.note e).cur = s.cur := rfl
@[simp] theorem State.note_win (s : State) (e : Event) : (s.note e).win = s.win := rfl
@[simp] theorem State.note_tabs (s : State) (e : Event) : (s.note e).tabs = s.tabs := rfl
@[simp] theorem State.note_tok (s : State) (e : Event) : (s.note e).tok = s.tok := rfl
@[simp] theorem State.note_par (s : State) (e : Event) : (s.note e).par = s.par := rfl
@[simp] theorem State.note_ppm (s : State) (e : Event) : (s.note e).ppm = s.ppm := rfl
@[simp] theorem State.note_rc (s : State) (e : Event) : (s.note e).rc = s.rc := rfl
@[simp] theorem State.note_sa (s : State) (e : Event) : (s.note e).sa = s.sa := rfl
@[simp] theorem State.note_vm (s : State) (e : Event) : (s.note e).vm = s.vm := rfl
@[simp] theorem State.note_ses (s : State) (e : Event) : (s.note e).ses = s.ses := rfl
@[simp] theorem State.note_out (s : State) (e : Event) : (s.note e).out = s.out := rfl
@[simp] theorem State.note_host (s : State) (e : Event) : (s.note e).host = s.host := rfl
@[simp] theorem State.note_readData (s : State) (e : Event) : (s.note e).readData = s.readData := rfl
@[simp] theorem State.note_catalogue (s : State) (e : Event) : (s.note e).catalogue = s.catalogue := rfl

@[simp] theorem State.noteIf_cur (s : State) (b : Bool) (e : Event) : (s.noteIf b e).cur = s.cur := by cases b <;> rfl
@[simp] theorem State.noteIf_win (s : State) (b : Bool) (e : Event) : (s.noteIf b e).win = s.win := by cases b <;> rfl
@[simp] theorem State.noteIf_tabs (s : State) (b : Bool) (e : Event) : (s.noteIf b e).tabs = s.tabs := by cases b <;> rfl
@[simp] theorem State.noteIf_tok (s : State) (b : Bool) (e : Event) : (s.noteIf b e).tok = s.tok := by cases b <;> rfl
@[simp] theorem State.noteIf_par (s : State) (b : Bool) (e : Event) : (s.noteIf b e).par = s.par := by cases b <;> rfl
@[simp] theorem State.noteIf_ppm (s : State) (b : Bool) (e : Event) : (s.noteIf b e).ppm = s.ppm := by cases b <;> rfl
@[simp] theorem State.noteIf_rc (s : State) (b : Bool) (e : Event) : (s.noteIf b e).rc = s.rc := by cases b <;> rfl
@[simp] theorem State.noteIf_sa (s : State) (b : Bool) (e : Event) : (s.noteIf b e).sa = s.sa := by cases b <;> rfl
@[simp] theorem State.noteIf_vm (s : State) (b : Bool) (e : Event) : (s.noteIf b e).vm = s.vm := by cases b <;> rfl
@[simp] theorem State.noteIf_ses (s : State) (b : Bool) (e : Event) : (s.noteIf b e).ses = s.ses := by cases b <;> rfl
@[simp] theorem State.noteIf_out (s : State) (b : Bool) (e : Event) : (s.noteIf b e).out = s.out := by cases b <;> rfl
@[simp] theorem State.noteIf_host (s : State) (b : Bool) (e : Event) : (s.noteIf b e).host = s.host := by cases b <;> rfl
@[simp] theorem State.noteIf_readData (s : State) (b : Bool) (e : Event) : (s.noteIf b e).readData = s.readData := by cases b <;> rfl
@[simp] theorem State.noteIf_catalogue (s : State) (b : Bool) (e : Event) : (s.noteIf b e).catalogue = s.catalogue := by cases b <;> rfl

@[simp] theorem State.setCmdErr_cur (s : State) (b : Bool) : (s.setCmdErr b).cur = s.cur := rfl
@[simp] theorem State.setCmdErr_win (s : State) (b : Bool) : (s.setCmdErr b).win = s.win := rfl
@[simp] theorem State.setCmdErr_tabs (s : State) (b : Bool) : (s.setCmdErr b).tabs = s.tabs := rfl
@[simp] theorem State.setCmdErr_tok (s : State) (b : Bool) : (s.setCmdErr b).tok = s.tok := rfl
@[simp] theorem State.setCmdErr_par (s : State) (b : Bool) : (s.setCmdErr b).par = s.par := rfl
@[simp] theorem State.setCmdErr_ppm (s : State) (b : Bool) : (s.setCmdErr b).ppm = s.ppm := rfl
@[simp] theorem State.setCmdErr_rc (s : State) (b : Bool) : (s.setCmdErr b).rc = s.rc := rfl
@[simp] theorem State.setCmdErr_sa (s : State) (b : Bool) : (s.setCmdErr b).sa = s.sa := rfl
@[simp] theorem State.setCmdErr_vm (s : State) (b : Bool) : (s.setCmdErr b).vm = s.vm := rfl
@[simp] theorem State.setCmdErr_ses (s : State) (b : Bool) : (s.setCmdErr b).ses = s.ses := rfl
@[simp] theorem State.setCmdErr_out (s : State) (b : Bool) : (s.setCmdErr b).out = s.out := rfl
@[simp] theorem State.setCmdErr_host (s : State) (b : Bool) : (s.setCmdErr b).host = s.host := rfl
@[simp] theorem State.setCmdErr_readData (s : State) (b : Bool) : (s.setCmdErr b).readData = s.readData := rfl
@[simp] theorem State.setCmdErr_catalogue (s : State) (b : Bool) : (s.setCmdErr b).catalogue = s.catalogue := rfl

@[simp] theorem State.refuse_cur (s : State) : (s.refuse).cur = s.cur := rfl
@[simp] theorem State.refuse_win (s : State) : (s.refuse).win = s.win := rfl
@[simp] theorem State.refuse_tabs (s : State) : (s.refuse).tabs = s.tabs := rfl
@[simp] theorem State.refuse_tok (s : State) : (s.refuse).tok = s.tok := rfl
@[simp] theorem State.refuse_par (s : State) : (s.refuse).par = s.par := rfl
@[simp] theorem State.refuse_ppm (s : State) : (s.refuse).ppm = s.ppm := rfl
@[simp] theorem State.refuse_rc (s : State) : (s.refuse).rc = s.rc := rfl
@[simp] theorem State.refuse_sa (s : State) : (s.refuse).sa = s.sa := rfl
@[simp] theorem State.refuse_vm (s : State) : (s.refuse).vm = s.vm := rfl
@[simp] theorem State.refuse_ses (s : State) : (s.refuse).ses = s.ses := rfl
@[simp] theorem State.refuse_out (s : State) : (s.refuse).out = s.out := rfl
@[simp] theorem State.refuse_host (s : State) : (s.refuse).host = s.host := rfl
@[simp] theorem State.refuse_readData (s : State) : (s.refuse).readData = s.readData := rfl
@[simp] theorem State.refuse_catalogue (s : State) : (s.refuse).catalogue = s.catalogue := rfl

@[simp] theorem State.accept_cur (s : State) : (s.accept).cur = s.cur := rfl
@[simp] theorem State.accept_win (s : State) : (s.accept).win = s.win := rfl
@[simp] theorem State.accept_tabs (s : State) : (s.accept).tabs = s.tabs := rfl
@[simp] theorem State.accept_tok (s : State) : (s.accept).tok = s.tok := rfl
@[simp] theorem State.accept_par (s : State) : (s.accept).par = s.par := rfl
@[simp] theorem State.accept_ppm (s : State) : (s.accept).ppm = s.ppm := rfl
@[simp] theorem State.accept_rc (s : State) : (s.accept).rc = s.rc := rfl
@[simp] theorem State.accept_sa (s : State) : (s.accept).sa = s.sa := rfl
@[simp] theorem State.accept_vm (s : State) : (s.accept).vm = s.vm := rfl
@[simp] theorem State.accept_ses (s : State) : (s.accept).ses = s.ses := rfl
@[simp] theorem State.accept_out (s : State) : (s.accept).out = s.out := rfl
@[simp] theorem State.accept_host (s : State) : (s.accept).host = s.host := rfl
@[simp] theorem State.accept_readData (s : State) : (s.accept).readData = s.readData := rfl
@[simp] theorem State.accept_catalogue (s : State) : (s.accept).catalogue = s.catalogue := rfl

@[simp] theorem State.setResult_cur (s : State) (v : Word) : (s.setResult v).cur = s.cur := rfl
@[simp] theorem State.setResult_win (s : State) (v : Word) : (s.setResult v).win = s.win := rfl
@[simp] theorem State.setResult_tabs (s : State) (v : Word) : (s.setResult v).tabs = s.tabs := rfl
@[simp] theorem State.setResult_tok (s : State) (v : Word) : (s.setResult v).tok = s.tok := rfl
@[simp] theorem State.setResult_par (s : State) (v : Word) : (s.setResult v).par = s.par := rfl
@[simp] theorem State.setResult_ppm (s : State) (v : Word) : (s.setResult v).ppm = s.ppm := rfl
@[simp] theorem State.setResult_rc (s : State) (v : Word) : (s.setResult v).rc = s.rc := rfl
@[simp] theorem State.setResult_sa (s : State) (v : Word) : (s.setResult v).sa = s.sa := rfl
@[simp] theorem State.setResult_vm (s : State) (v : Word) : (s.setResult v).vm = s.vm := rfl
@[simp] theorem State.setResult_ses (s : State) (v : Word) : (s.setResult v).ses = s.ses := rfl
@[simp] theorem State.setResult_out (s : State) (v : Word) : (s.setResult v).out = s.out := rfl
@[simp] theorem State.setResult_host (s : State) (v : Word) : (s.setResult v).host = s.host := rfl
@[simp] theorem State.setResult_readData (s : State) (v : Word) : (s.setResult v).readData = s.readData := rfl
@[simp] theorem State.setResult_catalogue (s : State) (v : Word) : (s.setResult v).catalogue = s.catalogue := rfl

@[simp] theorem State.setFsm_cur (s : State) (f : Fsm) : (s.setFsm f).cur = s.cur := rfl
@[simp] theorem State.setFsm_win (s : State) (f : Fsm) : (s.setFsm f).win = s.win := rfl
@[simp] theorem State.setFsm_tabs (s : State) (f : Fsm) : (s.setFsm f).tabs = s.tabs := rfl
@[simp] theorem State.setFsm_tok (s : State) (f : Fsm) : (s.setFsm f).tok = s.tok := rfl
@[simp] theorem State.setFsm_par (s : State) (f : Fsm) : (s.setFsm f).par = s.par := rfl
@[simp] theorem State.setFsm_st (s : State) (f : Fsm) : (s.setFsm f).st = s.st := rfl
@[simp] theorem State.setFsm_ppm (s : State) (f : Fsm) : (s.setFsm f).ppm = s.ppm := rfl
@[simp] theorem State.setFsm_rc (s : State) (f : Fsm) : (s.setFsm f).rc = s.rc := rfl
@[simp] theorem State.setFsm_sa (s : State) (f : Fsm) : (s.setFsm f).sa = s.sa := rfl
@[simp] theorem State.setFsm_vm (s : State) (f : Fsm) : (s.setFsm f).vm = s.vm := rfl
@[simp] theorem State.setFsm_out (s : State) (f : Fsm) : (s.setFsm f).out = s.out := rfl
@[simp] theorem State.setFsm_host (s : State) (f : Fsm) : (s.setFsm f).host = s.host := rfl
@[simp] theorem State.setFsm_readData (s : State) (f : Fsm) : (s.setFsm f).readData = s.readData := rfl
@[simp] theorem State.setFsm_catalogue (s : State) (f : Fsm) : (s.setFsm f).catalogue = s.catalogue := rfl

@[simp] theorem State.put_cur (s : State) (b : Byte) : (s.put b).cur = s.cur := rfl
@[simp] theorem State.put_tabs (s : State) (b : Byte) : (s.put b).tabs = s.tabs := rfl
@[simp] theorem State.put_tok (s : State) (b : Byte) : (s.put b).tok = s.tok := rfl
@[simp] theorem State.put_par (s : State) (b : Byte) : (s.put b).par = s.par := rfl
@[simp] theorem State.put_st (s : State) (b : Byte) : (s.put b).st = s.st := rfl
@[simp] theorem State.put_ppm (s : State) (b : Byte) : (s.put b).ppm = s.ppm := rfl
@[simp] theorem State.put_rc (s : State) (b : Byte) : (s.put b).rc = s.rc := rfl
@[simp] theorem State.put_sa (s : State) (b : Byte) : (s.put b).sa = s.sa := rfl
@[simp] theorem State.put_vm (s : State) (b : Byte) : (s.put b).vm = s.vm := rfl
@[simp] theorem State.put_ses (s : State) (b : Byte) : (s.put b).ses = s.ses := rfl
@[simp] theorem State.put_out (s : State) (b : Byte) : (s.put b).out = s.out := rfl
@[simp] theorem State.put_host (s : State) (b : Byte) : (s.put b).host = s.host := rfl
@[simp] theorem State.put_readData (s : State) (b : Byte) : (s.put b).readData = s.readData := rfl
@[simp] theorem State.put_catalogue (s : State) (b : Byte) : (s.put b).catalogue = s.catalogue := rfl

@[simp] theorem State.setTf_cur (s : State) (a : Nat) : (s.setTf a).cur = s.cur := rfl
@[simp] theorem State.setTf_tabs (s : State) (a : Nat) : (s.setTf a).tabs = s.tabs := rfl
@[simp] theorem State.setTf_tok (s : State) (a : Nat) : (s.setTf a).tok = s.tok := rfl
@[simp] theorem State.setTf_par (s : State) (a : Nat) : (s.setTf a).par = s.par := rfl
@[simp] theorem State.setTf_st (s : State) (a : Nat) : (s.setTf a).st = s.st := rfl
@[simp] theorem State.setTf_ppm (s : State) (a : Nat) : (s.setTf a).ppm = s.ppm := rfl
@[simp] theorem State.setTf_rc (s : State) (a : Nat) : (s.setTf a).rc = s.rc := rfl
@[simp] theorem State.setTf_sa (s : State) (a : Nat) : (s.setTf a).sa = s.sa := rfl
@[simp] theorem State.setTf_vm (s : State) (a : Nat) : (s.setTf a).vm = s.vm := rfl
@[simp] theorem State.setTf_ses (s : State) (a : Nat) : (s.setTf a).ses = s.ses := rfl
@[simp] theorem State.setTf_out (s : State) (a : Nat) : (s.setTf a).out = s.out := rfl
@[simp] theorem State.setTf_host (s : State) (a : Nat) : (s.setTf a).host = s.host := rfl
@[simp] theorem State.setTf_readData (s : State) (a : Nat) : (s.setTf a).readData = s.readData := rfl
@[simp] theorem State.setTf_catalogue (s : State) (a : Nat) : (s.setTf a).catalogue = s.catalogue := rfl

@[simp] theorem State.setFq_cur (s : State) (q : List FilterDesc) : (s.setFq q).cur = s.cur := rfl
@[simp] theorem State.setFq_win (s : State) (q : List FilterDesc) : (s.setFq q).win = s.win := rfl
@[simp] theorem State.setFq_tabs (s : State) (q : List FilterDesc) : (s.setFq q).tabs = s.tabs := rfl
@[simp] theorem State.setFq_tok (s : State) (q : List FilterDesc) : (s.setFq q).tok = s.tok := rfl
@[simp] theorem State.setFq_par (s : State) (q : List FilterDesc) : (s.setFq q).par = s.par := rfl
@[simp] theorem State.setFq_st (s : State) (q : List FilterDesc) : (s.setFq q).st = s.st := rfl
@[simp] theorem State.setFq_ppm (s : State) (q : List FilterDesc) : (s.setFq q).ppm = s.ppm := rfl
@[simp] theorem State.setFq_rc (s : State) (q : List FilterDesc) : (s.setFq q).rc = s.rc := rfl
@[simp] theorem State.setFq_sa (s : State) (q : List FilterDesc) : (s.setFq q).sa = s.sa := rfl
@[simp] theorem State.setFq_ses (s : State) (q : List FilterDesc) : (s.setFq q).ses = s.ses := rfl
@[simp] theorem State.setFq_out (s : State) (q : List FilterDesc) : (s.setFq q).out = s.out := rfl
@[simp] theorem State.setFq_host (s : State) (q : List FilterDesc) : (s.setFq q).host = s.host := rfl
@[simp] theorem State.setFq_readData (s : State) (q : List FilterDesc) : (s.setFq q).readData = s.readData := rfl
@[simp] theorem State.setFq_catalogue (s : State) (q : List FilterDesc) : (s.setFq q).catalogue = s.catalogue := rfl

@[simp] theorem State.copyMatch_cur (s : State) (d n : Nat) : (s.copyMatch d n).cur = s.cur := by
  simp [State.copyMatch]
@[simp] theorem State.copyMatch_tabs (s : State) (d n : Nat) : (s.copyMatch d n).tabs = s.tabs := by
  simp [State.copyMatch]
@[simp] theorem State.copyMatch_tok (s : State) (d n : Nat) : (s.copyMatch d n).tok = s.tok := by
  simp [State.copyMatch]
@[simp] theorem State.copyMatch_par (s : State) (d n : Nat) : (s.copyMatch d n).par = s.par := by
  simp [State.copyMatch]
@[simp] theorem State.copyMatch_ppm (s : State) (d n : Nat) : (s.copyMatch d n).ppm = s.ppm := by
  simp [State.copyMatch]
@[simp] theorem State.copyMatch_rc (s : State) (d n : Nat) : (s.copyMatch d n).rc = s.rc := by
  simp [State.copyMatch]
@[simp] theorem State.copyMatch_sa (s : State) (d n : Nat) : (s.copyMatch d n).sa = s.sa := by
  simp [State.copyMatch]
@[simp] theorem State.copyMatch_vm (s : State) (d n : Nat) : (s.copyMatch d n).vm = s.vm := by
  simp [State.copyMatch]
@[simp] theorem State.copyMatch_ses (s : State) (d n : Nat) : (s.copyMatch d n).ses = s.ses := by
  simp [State.copyMatch]
@[simp] theorem State.copyMatch_out (s : State) (d n : Nat) : (s.copyMatch d n).out = s.out := by
  simp [State.copyMatch]
@[simp] theorem State.copyMatch_host (s : State) (d n : Nat) : (s.copyMatch d n).host = s.host := by
  simp [State.copyMatch]
@[simp] theorem State.copyMatch_readData (s : State) (d n : Nat) : (s.copyMatch d n).readData = s.readData := by
  simp [State.copyMatch]
@[simp] theorem State.copyMatch_catalogue (s : State) (d n : Nat) : (s.copyMatch d n).catalogue = s.catalogue := by
  simp [State.copyMatch]
@[simp] theorem State.copyMatch_win (s : State) (d n : Nat) : (s.copyMatch d n).win = s.win.copyMatch d n := by
  simp [State.copyMatch]

@[simp] theorem State.finish_cur (s : State) (k : ResultKind) (r : Reason) (d : Detail) : (s.finish k r d).cur = s.cur := rfl
@[simp] theorem State.finish_win (s : State) (k : ResultKind) (r : Reason) (d : Detail) : (s.finish k r d).win = s.win := rfl
@[simp] theorem State.finish_tabs (s : State) (k : ResultKind) (r : Reason) (d : Detail) : (s.finish k r d).tabs = s.tabs := rfl
@[simp] theorem State.finish_tok (s : State) (k : ResultKind) (r : Reason) (d : Detail) : (s.finish k r d).tok = s.tok := rfl
@[simp] theorem State.finish_par (s : State) (k : ResultKind) (r : Reason) (d : Detail) : (s.finish k r d).par = s.par := rfl
@[simp] theorem State.finish_ppm (s : State) (k : ResultKind) (r : Reason) (d : Detail) : (s.finish k r d).ppm = s.ppm := rfl
@[simp] theorem State.finish_rc (s : State) (k : ResultKind) (r : Reason) (d : Detail) : (s.finish k r d).rc = s.rc := rfl
@[simp] theorem State.finish_sa (s : State) (k : ResultKind) (r : Reason) (d : Detail) : (s.finish k r d).sa = s.sa := rfl
@[simp] theorem State.finish_out (s : State) (k : ResultKind) (r : Reason) (d : Detail) : (s.finish k r d).out = s.out := rfl
@[simp] theorem State.finish_host (s : State) (k : ResultKind) (r : Reason) (d : Detail) : (s.finish k r d).host = s.host := rfl
@[simp] theorem State.finish_readData (s : State) (k : ResultKind) (r : Reason) (d : Detail) : (s.finish k r d).readData = s.readData := rfl
@[simp] theorem State.finish_catalogue (s : State) (k : ResultKind) (r : Reason) (d : Detail) : (s.finish k r d).catalogue = s.catalogue := rfl

@[simp] theorem State.put_win (s : State) (b : Byte) : (s.put b).win = s.win.put b := rfl
@[simp] theorem State.setFsm_fsm (s : State) (f : Fsm) : (s.setFsm f).ses.fsm = f := rfl
@[simp] theorem State.finish_fsm (s : State) (k : ResultKind) (r : Reason) (d : Detail) :
    (s.finish k r d).ses.fsm = .done := rfl
@[simp] theorem State.finish_fq (s : State) (k : ResultKind) (r : Reason) (d : Detail) : (s.finish k r d).vm.fq = [] := rfl

/-! ### What each operation can do -/

/-- An instruction run by `runOp` always gives a next state: its own, or the one an abandoned operation leads to. -/
theorem runOp_next (x : M Unit) (s : State) :
    (∃ t, x s = .ok () t ∧ runOp x s = .next t) ∨
    (∃ h t, x s = .error h t ∧ runOp x s = .next (t.halted h)) := by
  cases h : x s with
  | ok a t => exact .inl ⟨t, rfl, by simp [runOp, h]⟩
  | error f t => exact .inr ⟨f, t, rfl, by simp [runOp, h]⟩

@[simp] theorem State.halted_fatal (s : State) (f : Fatal) : s.halted (.fatal f) = s.raiseFatal f.reason f.detail := rfl
@[simp] theorem State.halted_reset (s : State) : s.halted .reset = s.hardReset := rfl

/-- An idle command either has its effect or is refused (R82). -/
theorem idleCommand_cases (c : Bool) (f : State → State) (s : State) :
    (s.isIdle = true ∧ c = true ∧ idleCommand c f s = .next (f s.accept)) ∨
    ((s.isIdle = false ∨ c = false) ∧ idleCommand c f s = .next s.refuse) := by
  cases hi : s.isIdle <;> cases c <;> simp [idleCommand, hi]

theorem idleCommand_accept (f : State → State) (s : State) (c : Bool) (hi : s.isIdle = true) (hc : c = true) :
    idleCommand c f s = .next (f s.accept) := by simp [idleCommand, hi, hc]

theorem idleCommand_refuse (f : State → State) (s : State) (c : Bool) (h : s.isIdle = false ∨ c = false) :
    idleCommand c f s = .next s.refuse := by
  rcases h with h | h <;> simp [idleCommand, h]

/-- A command that may meet a port error (R82, R134): refused, done with or without a value, refused after the port call
with the cursor's change, or ended by a `RESET` that came during the call (R430). -/
theorem portCommand_cases (c : Bool) (x : M (Option Word)) (s : State) :
    ((s.isIdle = false ∨ c = false) ∧ portCommand c x s = .next s.refuse) ∨
    (s.isIdle = true ∧ c = true ∧
      ((∃ v t, x s.accept = .ok (some v) t ∧ portCommand c x s = .next (t.setResult v)) ∨
       (∃ t, x s.accept = .ok none t ∧ portCommand c x s = .next t) ∨
       (∃ f t, x s.accept = .error (.fatal f) t ∧ portCommand c x s = .next (s.setCur t.cur).refuse) ∨
       (∃ t, x s.accept = .error .reset t ∧ portCommand c x s = .next t.hardReset))) := by
  cases hi : s.isIdle with
  | false => exact .inl ⟨.inl rfl, by simp [portCommand, hi]⟩
  | true =>
    cases c with
    | false => exact .inl ⟨.inr rfl, by simp [portCommand]⟩
    | true =>
      refine .inr ⟨rfl, rfl, ?_⟩
      match h : x s.accept with
      | .ok (some v) t => exact .inl ⟨v, t, rfl, by simp [portCommand, hi, h]⟩
      | .ok none t => exact .inr (.inl ⟨t, rfl, by simp [portCommand, hi, h]⟩)
      | .error (.fatal f) t => exact .inr (.inr (.inl ⟨f, t, rfl, by simp [portCommand, hi, h]⟩))
      | .error .reset t => exact .inr (.inr (.inr ⟨t, rfl, by simp [portCommand, hi, h]⟩))

/-- `emit` (R366): nothing to write, a failed write (R398), a `RESET` during the write (R430), or the bytes that fit accepted
and counted. -/
theorem emit_cases (bytes : List Byte) (s : State) :
    (s.fitting bytes = [] ∧ emit bytes s = .ok () s) ∨
    (s.out.answers.head? = some .error ∧
      emit bytes s = .error (.fatal ⟨.writeFail, .none⟩) (s.setOut (s.out.broken false (s.fitting bytes)))) ∨
    (∃ b, s.out.answers.head? = some (.reset b) ∧
      emit bytes s = .error .reset (s.setOut (s.out.broken b (s.fitting bytes)))) ∨
    emit bytes s = .ok () (s.accepted (s.fitting bytes)) := by
  by_cases h : (s.fitting bytes).isEmpty = true
  · exact .inl ⟨List.isEmpty_iff.1 h, by simp [emit, h]⟩
  · match h2 : s.out.answers.head? with
    | some .error => exact .inr (.inl ⟨rfl, by simp [emit, h, h2]⟩)
    | some (.reset b) => exact .inr (.inr (.inl ⟨b, rfl, by simp [emit, h, h2]⟩))
    | some .ok => exact .inr (.inr (.inr (by simp [emit, h, h2])))
    | none => exact .inr (.inr (.inr (by simp [emit, h, h2])))

/-- A cursor operation touches the cursor only. -/
theorem onCur_ok {α : Type} (x : CurM α) (s t : State) (a : α) (h : onCur x s = .ok a t) :
    ∃ c, x s.cur = .ok a c ∧ t = s.setCur c := by
  unfold onCur at h
  split at h
  · cases h
    exact ⟨_, ‹_›, rfl⟩
  · cases h

end Sys2Proof.Machine
end

