-- ==== Sys2Proof/Laws/Flush.lean ====
section
/-! SUPPORT. What a flush can do (spec/48_session.md R360, R366 to R372), said once: `FlushFrame s t` holds between the state
before and the state after `emit`, the flush loop, a flush and the dropping loop, whether they end well or with a failed write.
-/

namespace Sys2Proof.Machine

/-- Only `TF`, the Filter VM, the events, `WRITTEN` and the output port change; the output grows and `WRITTEN` counts it within
the target unless a `RESET` comes during a write; no event is cleared; the filter store stays. -/
structure FlushFrame (s t : State) : Prop where
  cur : t.cur = s.cur
  tabs : t.tabs = s.tabs
  tok : t.tok = s.tok
  par : t.par = s.par
  ppm : t.ppm = s.ppm
  rc : t.rc = s.rc
  sa : t.sa = s.sa
  ses : t.ses = s.ses
  host : t.host = s.host
  readData : t.readData = s.readData
  catalogue : t.catalogue = s.catalogue
  win : t.win = { s.win with tf := t.win.tf }
  st : t.st = { s.st with events := t.st.events, written := t.st.written }
  events : s.st.events &&& t.st.events = s.st.events
  store : t.vm.store = s.vm.store
  queue : t.vm.fq.length ≤ s.vm.fq.length
  grows : ∃ more, t.out.bytes = s.out.bytes ++ more
  counted : s.out.answers.all PortWrite.calm = true → t.out.answers.all PortWrite.calm = true ∧
    t.st.written + s.out.bytes.length = s.st.written + t.out.bytes.length
  target : s.st.written ≤ s.ses.targetL → t.st.written ≤ t.ses.targetL

theorem FlushFrame.refl (s : State) : FlushFrame s s :=
  ⟨rfl, rfl, rfl, rfl, rfl, rfl, rfl, rfl, rfl, rfl, rfl, rfl, rfl, by simp, rfl, Nat.le_refl _, ⟨[], by simp⟩, fun h => ⟨h, rfl⟩, id⟩

theorem FlushFrame.trans {s t u : State} (h : FlushFrame s t) (k : FlushFrame t u) : FlushFrame s u where
  cur := k.cur.trans h.cur
  tabs := k.tabs.trans h.tabs
  tok := k.tok.trans h.tok
  par := k.par.trans h.par
  ppm := k.ppm.trans h.ppm
  rc := k.rc.trans h.rc
  sa := k.sa.trans h.sa
  ses := k.ses.trans h.ses
  host := k.host.trans h.host
  readData := k.readData.trans h.readData
  catalogue := k.catalogue.trans h.catalogue
  win := by rw [k.win, h.win]
  st := by rw [k.st, h.st]
  events := by
    have h1 := h.events
    have h2 := k.events
    rw [← h1, BitVec.and_assoc, h2]
  store := k.store.trans h.store
  queue := Nat.le_trans k.queue h.queue
  grows := by
    obtain ⟨a, ha⟩ := h.grows
    obtain ⟨c, hc⟩ := k.grows
    exact ⟨a ++ c, by rw [hc, ha, List.append_assoc]⟩
  counted := fun hs => by
    obtain ⟨ht, h1⟩ := h.counted hs
    obtain ⟨hu, h2⟩ := k.counted ht
    exact ⟨hu, by omega⟩
  target := fun h1 => k.target (h.target h1)

/-- The state an operation ends in, well or not. -/
def endState {α : Type} : EStateM.Result Halt State α → State
  | .ok _ s => s
  | .error _ s => s

/-- `note` sets an event and clears none. -/
theorem and_note (s : State) (e : Event) : s.st.events &&& (s.note e).st.events = s.st.events := by
  show s.st.events &&& (s.st.events ||| _) = s.st.events
  ext i hi
  simp
  tauto

theorem FlushFrame.setTf (s : State) (a : Nat) : FlushFrame s (s.setTf a) :=
  ⟨rfl, rfl, rfl, rfl, rfl, rfl, rfl, rfl, rfl, rfl, rfl, rfl, rfl, by simp, rfl, Nat.le_refl _, ⟨[], by simp⟩, fun h => ⟨h, rfl⟩, id⟩

/-- Changing the Filter VM without its store, with no longer a queue. -/
theorem FlushFrame.setVm (s : State) (v : FilterVm) (hs : v.store = s.vm.store) (hq : v.fq.length ≤ s.vm.fq.length) :
    FlushFrame s (s.setVm v) :=
  ⟨rfl, rfl, rfl, rfl, rfl, rfl, rfl, rfl, rfl, rfl, rfl, rfl, rfl, by simp, hs, hq, ⟨[], by simp⟩, fun h => ⟨h, rfl⟩, id⟩

theorem FlushFrame.note (s : State) (e : Event) : FlushFrame s (s.note e) :=
  ⟨rfl, rfl, rfl, rfl, rfl, rfl, rfl, rfl, rfl, rfl, rfl, rfl, rfl, and_note s e, rfl, Nat.le_refl _, ⟨[], by simp [State.note]⟩,
   fun h => ⟨h, rfl⟩, id⟩

/-- The answers after the first are calm if all are. -/
theorem calm_drop {l : List PortWrite} (h : l.all PortWrite.calm = true) : (l.drop 1).all PortWrite.calm = true := by
  cases l with
  | nil => rfl
  | cons a t => exact (Bool.and_eq_true_iff.1 h).2

/-- Among calm answers none brings a `RESET`. -/
theorem not_calm_head {l : List PortWrite} {b : Bool} (h : l.all PortWrite.calm = true) (hb : l.head? = some (.reset b)) :
    False := by
  cases l with
  | nil => cases hb
  | cons a t =>
    cases hb
    exact absurd (Bool.and_eq_true_iff.1 h).1 (by simp [PortWrite.calm])

/-- `emit` (R366). -/
theorem FlushFrame.emit (bytes : List Byte) (s : State) : FlushFrame s (endState (emit bytes s)) := by
  rcases emit_cases bytes s with ⟨-, h⟩ | ⟨-, h⟩ | ⟨b, hb, h⟩ | h <;> rw [h]
  · exact .refl s
  · exact ⟨rfl, rfl, rfl, rfl, rfl, rfl, rfl, rfl, rfl, rfl, rfl, rfl, rfl, by simp [endState], rfl, Nat.le_refl _,
      ⟨[], by simp [endState, OutPort.broken]⟩,
      fun k => ⟨calm_drop k, by simp [endState, OutPort.broken]⟩, id⟩
  · exact ⟨rfl, rfl, rfl, rfl, rfl, rfl, rfl, rfl, rfl, rfl, rfl, rfl, rfl, by simp [endState], rfl, Nat.le_refl _, ⟨_, rfl⟩,
      fun k => (not_calm_head k hb).elim, id⟩
  · refine ⟨rfl, rfl, rfl, rfl, rfl, rfl, rfl, rfl, rfl, rfl, rfl, rfl, rfl, by simp [endState, State.accepted], rfl,
      Nat.le_refl _, ⟨s.fitting bytes, rfl⟩, fun k => ⟨calm_drop k, ?_⟩, fun h1 => ?_⟩
    · show s.st.written + (s.fitting bytes).length + s.out.bytes.length =
        s.st.written + (s.out.bytes ++ s.fitting bytes).length
      rw [List.length_append]
      omega
    · show s.st.written + (bytes.take (s.ses.targetL - s.st.written)).length ≤ s.ses.targetL
      rw [List.length_take]
      omega

/-- Sequencing: the frame of the whole from the frames of the parts. -/
theorem FlushFrame.bind {α β : Type} {x : M α} {f : α → M β} {s : State} (hx : FlushFrame s (endState (x s)))
    (hf : ∀ a t, x s = .ok a t → FlushFrame t (endState (f a t))) : FlushFrame s (endState ((x >>= f) s)) := by
  cases h : x s with
  | ok a t =>
    have : (x >>= f) s = f a t := by simp only [Bind.bind, EStateM.bind, h]
    rw [h] at hx
    rw [this]
    exact hx.trans (hf a t h)
  | error e t =>
    have : (x >>= f) s = .error e t := by simp only [Bind.bind, EStateM.bind, h]
    rw [h] at hx
    rw [this]
    exact hx

/-- Setting the state. -/
theorem FlushFrame.ofSet {s t : State} (h : FlushFrame s t) : FlushFrame s (endState ((set t : M Unit) s)) := h

/-- `emit(win(TF, a - TF)); TF <- a`. -/
theorem FlushFrame.emitUpTo (a : Nat) (s : State) : FlushFrame s (endState (emitUpTo a s)) := by
  refine .bind (.refl s) fun x t h => ?_
  cases h
  exact .bind (.emit _ _) fun _ t _ => .setTf t a

/-- A stack of filters takes descriptors from the head of the queue. -/
theorem runStack_length (start len written : Nat) (q : List FilterDesc) (buf : List Byte) (regs : Vector Word 8) :
    (runStack start len written q buf regs).1.length ≤ q.length := by
  induction q generalizing buf regs with
  | nil => exact Nat.le_refl _
  | cons g t ih =>
    unfold runStack
    split
    · exact Nat.le_succ_of_le (ih _ _)
    · exact Nat.le_refl _

/-- `emitUpTo` leaves the Filter VM. -/
theorem emitUpTo_vm {a : Nat} {s t : State} {r : Unit} (h : emitUpTo a s = .ok r t) : t.vm = s.vm := by
  have e : emitUpTo a s = (do Machine.emit (s.win.range s.win.tf (a - s.win.tf)); modify (·.setTf a) : M Unit) s := rfl
  rw [e] at h
  rcases emit_cases (s.win.range s.win.tf (a - s.win.tf)) s with ⟨-, k⟩ | ⟨-, k⟩ | ⟨_, -, k⟩ | k <;>
    simp only [Bind.bind, EStateM.bind, k, modify, modifyGet, MonadStateOf.modifyGet, EStateM.modifyGet] at h <;>
    cases h <;> rfl

/-- A descriptor dropped from the queue, with the event. -/
theorem FlushFrame.drop (s : State) (q : List FilterDesc) (h : q.length ≤ s.vm.fq.length) (e : Event) :
    FlushFrame s ((s.setFq q).note e) :=
  FlushFrame.trans (t := s.setFq q) (.setVm s { s.vm with fq := q } rfl h) (.note _ _)

/-- The loop of `do_flush` (R367). -/
theorem FlushFrame.flushLoop (final : Bool) (b fuel : Nat) (s : State) :
    FlushFrame s (endState (flushLoop final b fuel s)) := by
  induction fuel generalizing s with
  | zero => exact .refl s
  | succ fuel ih =>
    refine .bind (.refl s) fun x t h => ?_
    cases h
    cases hq : s.vm.fq with
    | nil => exact .refl s
    | cons f rest =>
      have hlen : rest.length ≤ s.vm.fq.length := by rw [hq]; exact Nat.le_succ _
      simp only
      by_cases h1 : f.start < s.win.tf
      · rw [if_pos h1]
        exact .bind (.ofSet (.drop s rest hlen _)) fun _ t _ => ih t
      · rw [if_neg h1]
        by_cases h2 : b ≤ f.start
        · rw [if_pos h2]; exact .refl s
        · rw [if_neg h2]
          refine .bind (.emitUpTo _ _) fun _ t ht => ?_
          have hvm := emitUpTo_vm ht
          refine .bind (.refl t) fun x u h => ?_
          cases h
          by_cases h3 : b < f.start + f.len
          · rw [if_pos h3]
            cases final
            · exact .bind (.ofSet (.setVm t { t.vm with fq := { f with deferred := true } :: rest } rfl
                (by rw [hvm, hq]; exact Nat.le_refl _))) fun _ t _ => .refl t
            · exact .bind (.ofSet (.drop t rest (hvm ▸ hlen) _)) fun _ t _ => ih t
          · rw [if_neg h3]
            exact .bind (.ofSet (.setVm t _ rfl (runStack_length _ _ _ _ _ _))) fun _ t _ =>
              .bind (.emit _ _) fun _ t _ => .bind (.setTf t _) fun _ t _ => ih t

/-- `do_flush` (R367). -/
theorem FlushFrame.doFlush (final : Bool) (s : State) : FlushFrame s (endState (doFlush final s)) := by
  refine .bind (.refl s) fun x t h => ?_
  cases h
  refine .bind (.flushLoop _ _ _ _) fun go t _ => ?_
  cases go
  · exact .refl t
  · refine .bind (.emitUpTo _ _) fun _ t _ => .bind (.refl t) fun x u h => ?_
    cases h
    by_cases hc : (final && !t.vm.fq.isEmpty) = true
    · rw [if_pos hc]
      exact .ofSet (.drop t [] (Nat.zero_le _) _)
    · rw [if_neg hc]
      exact .refl t

/-- The dropping loop (R360, R372). -/
theorem FlushFrame.dropUntilFits (fuel : Nat) (s : State) : FlushFrame s (endState (dropUntilFits fuel s)) := by
  induction fuel generalizing s with
  | zero => exact .refl s
  | succ fuel ih =>
    refine .bind (.refl s) fun x t h => ?_
    cases h
    by_cases hc : (s.windowFull && !s.vm.fq.isEmpty) = true
    · rw [if_pos hc]
      exact .bind (.ofSet (.drop s s.vm.fq.tail (by simp) _)) fun _ t _ => .bind (.doFlush _ _) fun _ t _ => ih t
    · rw [if_neg hc]
      exact .refl s

/-- `maybe_flush` (R360). -/
theorem FlushFrame.maybeFlush (s : State) : FlushFrame s (endState (maybeFlush s)) := by
  refine .bind (.refl s) fun x t h => ?_
  cases h
  by_cases hc : s.windowFull = true
  · rw [if_pos hc]
    refine .bind (.doFlush _ _) fun _ t _ => .bind (.refl t) fun x u h => ?_
    cases h
    exact .dropUntilFits _ _
  · rw [if_neg hc]
    exact .refl s

end Sys2Proof.Machine
end

