-- ==== Sys2Proof/Laws/Huffman.lean ====
section
/-! SUPPORT. Laws of the Huffman decoder: one lemma that says what `decode` does, and that its symbol is of the alphabet. -/

namespace Sys2Proof.Machine

/-- What `decode` does (R147, R149; log entry 30 for a table with `VALID = 0`): the lone symbol, or a `peek` and what is found for
it. -/
theorem HuffTable.decode_eq (t : HuffTable) (n : Nat) (c : Cursor) :
    t.decode n c = match t.fake with
      | some (s, l) => .ok (s, false) (c.consume l)
      | none => match refill c with
        | .ok _ c1 =>
          let f := if t.valid then t.lookup (c1.look 16) else invalidFound n (c1.look 16)
          .ok (f.sym, f.clamp) (c1.consume f.len)
        | .error h c1 => .error h c1 := by
  unfold HuffTable.decode
  cases t.fake with
  | some p => rfl
  | none =>
    simp only [bind, EStateM.bind, peek_eq]
    cases refill c <;> rfl

/-- An entry of a list of symbols, or 0 beyond it, is of the alphabet. -/
theorem getD_lt {l : List Nat} {n : Nat} (hl : ∀ x ∈ l, x < n) (hn : 0 < n) (i : Nat) : l.getD i 0 < n := by
  rw [List.getD_eq_getElem?_getD]
  cases h : l[i]? with
  | none => exact hn
  | some x => exact hl x (List.mem_of_getElem? h)

/-- A lookup in a table of an alphabet stays in the alphabet (R144, R148). -/
theorem HuffTable.lookup_sym_lt (t : HuffTable) (n v : Nat) (ht : t.Below n) (hn : 0 < n) : (t.lookup v).sym < n := by
  unfold HuffTable.lookup
  dsimp only
  split
  · exact getD_lt ht.quick hn _
  · show (if _ then t.sym.getD _ 0 else 0) < n
    split
    · exact getD_lt ht.sym hn _
    · exact hn

/-- A decode gives a symbol of the alphabet, also from a table with `VALID = 0`. -/
theorem HuffTable.decode_sym_lt (t : HuffTable) (n : Nat) (c c1 : Cursor) (r : Nat × Bool) (ht : t.Below n) (hn : 0 < n)
    (h : t.decode n c = .ok r c1) : r.1 < n := by
  rw [HuffTable.decode_eq] at h
  split at h
  · rename_i s l hf
    cases h
    exact ht.fake _ hf
  · split at h
    · cases h
      dsimp only
      split
      · exact t.lookup_sym_lt n _ ht hn
      · exact Nat.mod_lt _ hn
    · cases h

end Sys2Proof.Machine
end

