-- ==== Sys2Proof/Laws/Memory.lean ====
section
/-! SUPPORT. Laws of sparse memory: reading after writing, and every operation keeps the canonical form. -/

namespace Sys2Proof.Machine

variable {β : Type}

theorem Sparse.find_put_self (l : List (Nat × β)) (k : Nat) (v : β) : Sparse.find (Sparse.put l k v) k = some v := by
  induction l with
  | nil => simp [Sparse.put, Sparse.find]
  | cons h t ih =>
    obtain ⟨a, w⟩ := h
    by_cases h1 : a = k
    · simp [Sparse.put, Sparse.find, h1]
    · by_cases h2 : k < a
      · simp [Sparse.put, Sparse.find, h1, h2]
      · simp [Sparse.put, Sparse.find, h1, h2, ih]

theorem Sparse.find_put_ne (l : List (Nat × β)) (k j : Nat) (v : β) (hj : j ≠ k) :
    Sparse.find (Sparse.put l k v) j = Sparse.find l j := by
  induction l with
  | nil => simp [Sparse.put, Sparse.find, hj.symm]
  | cons h t ih =>
    obtain ⟨a, w⟩ := h
    by_cases h1 : a = k
    · subst h1
      simp [Sparse.put, Sparse.find, hj.symm]
    · by_cases h2 : k < a
      · simp only [Sparse.put, h1, h2, if_true, if_false, Sparse.find, hj.symm]
        by_cases h3 : j < k
        · simp [h3, show j < a by omega, show a ≠ j by omega]
        · simp [h3]
      · simp only [Sparse.put, h1, h2, if_false, Sparse.find, ih]

/-- What `rising` says of a list with a head. -/
theorem Sparse.rising_cons (a : Nat) (w : β) (t : List (Nat × β)) :
    Sparse.rising ((a, w) :: t) = true ↔ (∀ c ∈ t, a < c.1) ∧ Sparse.rising t = true := by
  induction t generalizing a w with
  | nil => simp [Sparse.rising]
  | cons h t ih =>
    obtain ⟨b, x⟩ := h
    simp only [Sparse.rising, Bool.and_eq_true, decide_eq_true_eq, List.mem_cons, forall_eq_or_imp]
    constructor
    · rintro ⟨h1, h2⟩
      exact ⟨⟨h1, fun c hc => Nat.lt_trans h1 (((ih b x).1 h2).1 c hc)⟩, h2⟩
    · rintro ⟨⟨h1, _⟩, h2⟩
      exact ⟨h1, h2⟩

theorem Sparse.find_eq_none_of_lt (l : List (Nat × β)) (k : Nat) (h : ∀ c ∈ l, k < c.1) : Sparse.find l k = none := by
  cases l with
  | nil => rfl
  | cons c t =>
    obtain ⟨a, w⟩ := c
    have : k < a := h (a, w) (by simp)
    simp [Sparse.find, this, show a ≠ k by omega]

theorem Sparse.find_erase_self (l : List (Nat × β)) (k : Nat) (h : Sparse.rising l = true) :
    Sparse.find (Sparse.erase l k) k = none := by
  induction l with
  | nil => simp [Sparse.erase, Sparse.find]
  | cons c t ih =>
    obtain ⟨a, w⟩ := c
    obtain ⟨h3, h4⟩ := (Sparse.rising_cons a w t).1 h
    by_cases h1 : a = k
    · subst h1
      simpa [Sparse.erase] using Sparse.find_eq_none_of_lt t a h3
    · by_cases h2 : k < a
      · simp [Sparse.erase, Sparse.find, h1, h2]
      · simp [Sparse.erase, Sparse.find, h1, h2, ih h4]

theorem Sparse.find_erase_ne (l : List (Nat × β)) (k j : Nat) (h : Sparse.rising l = true) (hj : j ≠ k) :
    Sparse.find (Sparse.erase l k) j = Sparse.find l j := by
  induction l with
  | nil => simp [Sparse.erase]
  | cons c t ih =>
    obtain ⟨a, w⟩ := c
    obtain ⟨h3, h4⟩ := (Sparse.rising_cons a w t).1 h
    by_cases h1 : a = k
    · subst h1
      by_cases h5 : j < a
      · simpa [Sparse.erase, Sparse.find, hj.symm, h5] using
          Sparse.find_eq_none_of_lt t j fun c hc => Nat.lt_trans h5 (h3 c hc)
      · simp [Sparse.erase, Sparse.find, hj.symm, h5]
    · by_cases h2 : k < a
      · simp [Sparse.erase, Sparse.find, h1, h2]
      · simp [Sparse.erase, Sparse.find, h1, h2, ih h4]

theorem Sparse.mem_put {l : List (Nat × β)} {k : Nat} {v : β} {c : Nat × β} (h : c ∈ Sparse.put l k v) :
    c = (k, v) ∨ c ∈ l := by
  induction l with
  | nil => simpa [Sparse.put] using h
  | cons d t ih =>
    obtain ⟨a, w⟩ := d
    by_cases h1 : a = k
    · simp only [Sparse.put, h1, if_true, List.mem_cons] at h
      rcases h with h | h
      · exact .inl h
      · exact .inr (List.mem_cons_of_mem _ h)
    · by_cases h2 : k < a
      · simp only [Sparse.put, h1, h2, if_true, if_false, List.mem_cons] at h
        rcases h with h | h | h
        · exact .inl h
        · exact .inr (by simp [h])
        · exact .inr (List.mem_cons_of_mem _ h)
      · simp only [Sparse.put, h1, h2, if_false, List.mem_cons] at h
        rcases h with h | h
        · exact .inr (by simp [h])
        · rcases ih h with h | h
          · exact .inl h
          · exact .inr (List.mem_cons_of_mem _ h)

theorem Sparse.mem_erase {l : List (Nat × β)} {k : Nat} {c : Nat × β} (h : c ∈ Sparse.erase l k) : c ∈ l := by
  induction l with
  | nil => simp [Sparse.erase] at h
  | cons d t ih =>
    obtain ⟨a, w⟩ := d
    by_cases h1 : a = k
    · simp only [Sparse.erase, h1, if_true] at h
      exact List.mem_cons_of_mem _ h
    · by_cases h2 : k < a
      · simpa only [Sparse.erase, h1, h2, if_true, if_false] using h
      · simp only [Sparse.erase, h1, h2, if_false, List.mem_cons] at h
        rcases h with h | h
        · simp [h]
        · exact List.mem_cons_of_mem _ (ih h)

/-- A write keeps the addresses rising. -/
theorem Sparse.rising_put (l : List (Nat × β)) (k : Nat) (v : β) (h : Sparse.rising l = true) :
    Sparse.rising (Sparse.put l k v) = true := by
  induction l with
  | nil => simp [Sparse.put, Sparse.rising]
  | cons c t ih =>
    obtain ⟨a, w⟩ := c
    obtain ⟨h3, h4⟩ := (Sparse.rising_cons a w t).1 h
    by_cases h1 : a = k
    · subst h1
      simp only [Sparse.put, if_true]
      exact (Sparse.rising_cons _ _ _).2 ⟨h3, h4⟩
    · by_cases h2 : k < a
      · simp only [Sparse.put, h1, h2, if_true, if_false]
        refine (Sparse.rising_cons _ _ _).2 ⟨?_, h⟩
        intro c hc
        rcases List.mem_cons.1 hc with rfl | hc
        · exact h2
        · exact Nat.lt_trans h2 (h3 c hc)
      · simp only [Sparse.put, h1, h2, if_false]
        refine (Sparse.rising_cons _ _ _).2 ⟨?_, ih h4⟩
        intro c hc
        rcases Sparse.mem_put hc with rfl | hc
        · show a < k
          omega
        · exact h3 c hc

/-- An erasure keeps the addresses rising. -/
theorem Sparse.rising_erase (l : List (Nat × β)) (k : Nat) (h : Sparse.rising l = true) :
    Sparse.rising (Sparse.erase l k) = true := by
  induction l with
  | nil => simp [Sparse.erase, Sparse.rising]
  | cons c t ih =>
    obtain ⟨a, w⟩ := c
    obtain ⟨h3, h4⟩ := (Sparse.rising_cons a w t).1 h
    by_cases h1 : a = k
    · simpa only [Sparse.erase, h1, if_true] using h4
    · by_cases h2 : k < a
      · simpa only [Sparse.erase, h1, h2, if_true, if_false] using h
      · simp only [Sparse.erase, h1, h2, if_false]
        exact (Sparse.rising_cons _ _ _).2 ⟨fun c hc => h3 c (Sparse.mem_erase hc), ih h4⟩

theorem Sparse.rising_putBytes (m : List Host.Cell) (a : Nat) (l : List Byte) (h : Sparse.rising m = true) :
    Sparse.rising (Sparse.putBytes m a l) = true := by
  induction l generalizing m a with
  | nil => simpa [Sparse.putBytes] using h
  | cons b t ih => exact ih _ _ (Sparse.rising_put m a b h)

/-- A write reads back. -/
theorem Memory.read_write_self (m : List Host.Cell) (a : Nat) (b : Byte) (h : Sparse.rising m = true) :
    Memory.read (Memory.write m a b) a = b := by
  by_cases hb : b = 0
  · simp [Memory.read, Memory.write, hb, Sparse.find_erase_self m a h]
  · rw [Memory.read, Memory.write, if_neg hb, Sparse.find_put_self, Option.getD_some]

/-- A write leaves every other address alone. -/
theorem Memory.read_write_ne (m : List Host.Cell) (a c : Nat) (b : Byte) (h : Sparse.rising m = true) (hc : c ≠ a) :
    Memory.read (Memory.write m a b) c = Memory.read m c := by
  by_cases hb : b = 0
  · simp [Memory.read, Memory.write, hb, Sparse.find_erase_ne m a c h hc]
  · rw [Memory.read, Memory.read, Memory.write, if_neg hb, Sparse.find_put_ne m a c b hc]

/-- A write keeps the canonical form. -/
theorem Memory.wf_write (m : List Host.Cell) (a : Nat) (b : Byte) (h : Memory.wf m = true) :
    Memory.wf (Memory.write m a b) = true := by
  simp only [Memory.wf, Bool.and_eq_true, List.all_eq_true, bne_iff_ne] at h ⊢
  by_cases hb : b = 0
  · simp only [Memory.write, hb, if_true]
    exact ⟨Sparse.rising_erase m a h.1, fun c hc => h.2 c (Sparse.mem_erase hc)⟩
  · simp only [Memory.write, hb, if_false]
    refine ⟨Sparse.rising_put m a b h.1, fun c hc => ?_⟩
    rcases Sparse.mem_put hc with rfl | hc
    · exact hb
    · exact h.2 c hc

/-- Reset's window is canonical. -/
theorem Memory.wf_reset : Memory.wf State.reset.win.mem = true := rfl

/-- `put` keeps the window canonical. -/
theorem Window.wf_put (x : Window) (b : Byte) (h : Memory.wf x.mem = true) : Memory.wf (x.put b).mem = true :=
  Memory.wf_write x.mem x.pos b h

theorem Window.wf_copySteps (zero : Bool) (d n : Nat) (x : Window) (h : Memory.wf x.mem = true) :
    Memory.wf (Window.copySteps zero d n x).mem = true := by
  induction n generalizing x with
  | zero => simpa [Window.copySteps] using h
  | succ n ih => exact ih _ (Window.wf_put x _ h)

/-- `copyMatch` keeps the window canonical. -/
theorem Window.wf_copyMatch (x : Window) (d n : Nat) (h : Memory.wf x.mem = true) :
    Memory.wf (x.copyMatch d n).mem = true := Window.wf_copySteps _ d n x h

end Sys2Proof.Machine
end

