-- ==== Sys2Proof/Laws/PerInstr.lean ====
section
/-! SUPPORT. The family `EncodingLength`: how many bits the encoding of each instruction has (spec/30_encoding.md R80, R81,
R84, R88, R92, R107, R109), one lemma for each constructor. -/

namespace Sys2Proof.Laws

/-- How many bits the encoding of an instruction read from `sl` can have: 72 for a command, at least the symbol for a token,
at least the leading bytes for a stream structure, 3 for a filter kind. -/
def EncodingLength.fits : Slot → Nat → Prop
  | .cmd, n => n = 72
  | .lz _, n => 9 ≤ n
  | .aud, n => 9 ≤ n ∧ n ≤ 11
  | .ppm _, n => 8 ≤ n ∧ n % 8 = 0
  | .ppmOnly, n => n = 8
  | .hdr, n => 16 ≤ n ∧ n % 8 = 0
  | .len, n => n = 4 ∨ n = 8
  | .audioTables, n => n % 4 = 2
  | .lzTables, n => n % 4 = 0
  | .ppmHdr, n => n = 8 ∨ n = 16 ∨ n = 24
  | .filterTok, n => 64 ≤ n ∧ n % 8 = 0
  | .fkind, n => n = 3

/-- The statement of the family. -/
def EncodingLength.Statement (i : Instr) : Prop := ∀ c : Ctx, EncodingLength.fits (slotOf c i) (encode c i).length

@[simp] theorem natToBits_length (n v : Nat) : (natToBits n v).length = n := by
  induction n with
  | zero => rfl
  | succ n ih => simp [natToBits, ih]

@[simp] theorem encCmd_length (op : Nat) (a b : Word) : (encCmd op a b).length = 72 := by simp [encCmd]

@[simp] theorem encByte_length (b : Byte) : (encByte b).length = 8 := by simp [encByte]

@[simp] theorem encLe_length (n v : Nat) : (encLe n v).length = 8 * n := by
  induction n generalizing v with
  | zero => rfl
  | succ n ih => simp only [encLe, List.length_append, natToBits_length, ih]; omega

@[simp] theorem encBytes_length (l : List Byte) : (encBytes l).length = 8 * l.length := by
  induction l with
  | nil => rfl
  | cons b t ih => simp only [encBytes, List.flatMap_cons, List.length_append, encByte_length, List.length_cons] at *; omega

theorem encFilter_length (t : FilterTok) : 64 ≤ (encFilter t).length ∧ (encFilter t).length % 8 = 0 := by
  simp only [encFilter, List.length_append, encByte_length, encLe_length]
  cases t.f0.getLsbD 6 <;> cases t.f0.getLsbD 7 <;>
    simp <;> omega

theorem encLens_length (l : List (BitVec 4)) : (encLens l).length % 4 = 0 := by
  induction l with
  | nil => rfl
  | cons v t ih =>
    simp only [encLens, List.flatMap_cons, List.length_append] at *
    split <;> simp only [List.length_append, natToBits_length] <;> omega

theorem encCache_length (c : Ctx) (k s e : Nat) : 9 ≤ (encCache c k s e).length := by
  simp [encCache, encLd]

theorem encMatch_length (s e1 d e2 : Nat) : 9 ≤ (encMatch s e1 d e2).length := by
  simp only [encMatch, encLd, List.length_append, natToBits_length]
  omega

theorem encLd_append (sym : Nat) (l : List Bool) : 9 ≤ (encLd sym ++ l).length := by
  simp only [encLd, List.length_append, natToBits_length]
  omega

theorem encAud_end (f : Nat) : 9 ≤ (natToBits 9 256 ++ natToBits 2 f).length ∧ (natToBits 9 256 ++ natToBits 2 f).length ≤ 11 := by
  simp only [List.length_append, natToBits_length]
  omega

theorem encByte_fits (b : Byte) : 8 ≤ (encByte b).length ∧ (encByte b).length % 8 = 0 := by simp

theorem encByte_append (l : List Bool) (b : Byte) (h : l.length % 8 = 0) :
    8 ≤ (l ++ encByte b).length ∧ (l ++ encByte b).length % 8 = 0 := by
  simp only [List.length_append, encByte_length]
  omega

theorem encBytes_flat (b0 b1 b2 b3 b4 : Byte) :
    (encByte b0 ++ encByte b1 ++ encByte b2 ++ encByte b3 ++ encByte b4).length % 8 = 0 := by simp

theorem EncodingLength.nop : EncodingLength.Statement (.nop) := fun _ => encCmd_length _ _ _

theorem EncodingLength.reset : EncodingLength.Statement (.reset) := fun _ => encCmd_length _ _ _

theorem EncodingLength.start : EncodingLength.Statement (.start) := fun _ => encCmd_length _ _ _

theorem EncodingLength.cancel : EncodingLength.Statement (.cancel) := fun _ => encCmd_length _ _ _

theorem EncodingLength.bcAttach : EncodingLength.Statement (.bcAttach) := fun _ => encCmd_length _ _ _

theorem EncodingLength.bcPeek (n : Word) : EncodingLength.Statement (.bcPeek n) := fun _ => encCmd_length _ _ _

theorem EncodingLength.bcConsume (n : Word) : EncodingLength.Statement (.bcConsume n) := fun _ => encCmd_length _ _ _

theorem EncodingLength.bcRefill : EncodingLength.Statement (.bcRefill) := fun _ => encCmd_length _ _ _

theorem EncodingLength.bcAlign : EncodingLength.Statement (.bcAlign) := fun _ => encCmd_length _ _ _

theorem EncodingLength.bcExhausted : EncodingLength.Statement (.bcExhausted) := fun _ => encCmd_length _ _ _

theorem EncodingLength.hufSetlen (index length : Word) : EncodingLength.Statement (.hufSetlen index length) := fun _ => encCmd_length _ _ _

theorem EncodingLength.hufBuild (id count : Word) : EncodingLength.Statement (.hufBuild id count) := fun _ => encCmd_length _ _ _

theorem EncodingLength.hufDecode (id : Word) : EncodingLength.Statement (.hufDecode id) := fun _ => encCmd_length _ _ _

theorem EncodingLength.winPut (byte : Word) : EncodingLength.Statement (.winPut byte) := fun _ => encCmd_length _ _ _

theorem EncodingLength.winCopy (distance length : Word) : EncodingLength.Statement (.winCopy distance length) := fun _ => encCmd_length _ _ _

theorem EncodingLength.winRead (index : Word) : EncodingLength.Statement (.winRead index) := fun _ => encCmd_length _ _ _

theorem EncodingLength.winFlush : EncodingLength.Statement (.winFlush) := fun _ => encCmd_length _ _ _

theorem EncodingLength.winStat : EncodingLength.Statement (.winStat) := fun _ => encCmd_length _ _ _

theorem EncodingLength.winInit : EncodingLength.Statement (.winInit) := fun _ => encCmd_length _ _ _

theorem EncodingLength.ppmInit (order bytes : Word) : EncodingLength.Statement (.ppmInit order bytes) := fun _ => encCmd_length _ _ _

theorem EncodingLength.ppmDecode : EncodingLength.Statement (.ppmDecode) := fun _ => encCmd_length _ _ _

theorem EncodingLength.saAlloc (n : Word) : EncodingLength.Statement (.saAlloc n) := fun _ => encCmd_length _ _ _

theorem EncodingLength.saFree (index n : Word) : EncodingLength.Statement (.saFree index n) := fun _ => encCmd_length _ _ _

theorem EncodingLength.rcInit : EncodingLength.Statement (.rcInit) := fun _ => encCmd_length _ _ _

theorem EncodingLength.saInit (units : Word) : EncodingLength.Statement (.saInit units) := fun _ => encCmd_length _ _ _

theorem EncodingLength.fvLoad (off byte : Word) : EncodingLength.Statement (.fvLoad off byte) := fun _ => encCmd_length _ _ _

theorem EncodingLength.fvSetreg (reg value : Word) : EncodingLength.Statement (.fvSetreg reg value) := fun _ => encCmd_length _ _ _

theorem EncodingLength.fvExec (kind len : Word) : EncodingLength.Statement (.fvExec kind len) := fun _ => encCmd_length _ _ _

theorem EncodingLength.fvRead (off : Word) : EncodingLength.Statement (.fvRead off) := fun _ => encCmd_length _ _ _

theorem EncodingLength.fvIdent (plen : Word) : EncodingLength.Statement (.fvIdent plen) := fun _ => encCmd_length _ _ _

theorem EncodingLength.lit (b : Byte) : EncodingLength.Statement (.lit b) := fun _ => (natToBits_length 9 _).ge

theorem EncodingLength.end00 : EncodingLength.Statement (.end00) := fun _ => encLd_append _ _

theorem EncodingLength.end01 : EncodingLength.Statement (.end01) := fun _ => encLd_append _ _

theorem EncodingLength.end10 : EncodingLength.Statement (.end10) := fun _ => encLd_append _ _

theorem EncodingLength.end11 : EncodingLength.Statement (.end11) := fun _ => encLd_append _ _

theorem EncodingLength.filter (t : FilterTok) : EncodingLength.Statement (.filter t) := fun _ => encLd_append _ _

theorem EncodingLength.repeatLast : EncodingLength.Statement (.repeatLast) := fun _ => (natToBits_length 9 _).ge

theorem EncodingLength.cache0 (s e : Nat) : EncodingLength.Statement (.cache0 s e) := fun ctx => encCache_length ctx 0 s e

theorem EncodingLength.cache1 (s e : Nat) : EncodingLength.Statement (.cache1 s e) := fun ctx => encCache_length ctx 1 s e

theorem EncodingLength.cache2 (s e : Nat) : EncodingLength.Statement (.cache2 s e) := fun ctx => encCache_length ctx 2 s e

theorem EncodingLength.cache3 (s e : Nat) : EncodingLength.Statement (.cache3 s e) := fun ctx => encCache_length ctx 3 s e

theorem EncodingLength.match0 (e1 d e2 : Nat) : EncodingLength.Statement (.match0 e1 d e2) := fun _ => encMatch_length 0 e1 d e2

theorem EncodingLength.match1 (e1 d e2 : Nat) : EncodingLength.Statement (.match1 e1 d e2) := fun _ => encMatch_length 1 e1 d e2

theorem EncodingLength.match2 (e1 d e2 : Nat) : EncodingLength.Statement (.match2 e1 d e2) := fun _ => encMatch_length 2 e1 d e2

theorem EncodingLength.match3 (e1 d e2 : Nat) : EncodingLength.Statement (.match3 e1 d e2) := fun _ => encMatch_length 3 e1 d e2

theorem EncodingLength.match4 (e1 d e2 : Nat) : EncodingLength.Statement (.match4 e1 d e2) := fun _ => encMatch_length 4 e1 d e2

theorem EncodingLength.match5 (e1 d e2 : Nat) : EncodingLength.Statement (.match5 e1 d e2) := fun _ => encMatch_length 5 e1 d e2

theorem EncodingLength.match6 (e1 d e2 : Nat) : EncodingLength.Statement (.match6 e1 d e2) := fun _ => encMatch_length 6 e1 d e2

theorem EncodingLength.match7 (e1 d e2 : Nat) : EncodingLength.Statement (.match7 e1 d e2) := fun _ => encMatch_length 7 e1 d e2

theorem EncodingLength.match8 (e1 d e2 : Nat) : EncodingLength.Statement (.match8 e1 d e2) := fun _ => encMatch_length 8 e1 d e2

theorem EncodingLength.match9 (e1 d e2 : Nat) : EncodingLength.Statement (.match9 e1 d e2) := fun _ => encMatch_length 9 e1 d e2

theorem EncodingLength.match10 (e1 d e2 : Nat) : EncodingLength.Statement (.match10 e1 d e2) := fun _ => encMatch_length 10 e1 d e2

theorem EncodingLength.match11 (e1 d e2 : Nat) : EncodingLength.Statement (.match11 e1 d e2) := fun _ => encMatch_length 11 e1 d e2

theorem EncodingLength.match12 (e1 d e2 : Nat) : EncodingLength.Statement (.match12 e1 d e2) := fun _ => encMatch_length 12 e1 d e2

theorem EncodingLength.match13 (e1 d e2 : Nat) : EncodingLength.Statement (.match13 e1 d e2) := fun _ => encMatch_length 13 e1 d e2

theorem EncodingLength.match14 (e1 d e2 : Nat) : EncodingLength.Statement (.match14 e1 d e2) := fun _ => encMatch_length 14 e1 d e2

theorem EncodingLength.match15 (e1 d e2 : Nat) : EncodingLength.Statement (.match15 e1 d e2) := fun _ => encMatch_length 15 e1 d e2

theorem EncodingLength.match16 (e1 d e2 : Nat) : EncodingLength.Statement (.match16 e1 d e2) := fun _ => encMatch_length 16 e1 d e2

theorem EncodingLength.match17 (e1 d e2 : Nat) : EncodingLength.Statement (.match17 e1 d e2) := fun _ => encMatch_length 17 e1 d e2

theorem EncodingLength.match18 (e1 d e2 : Nat) : EncodingLength.Statement (.match18 e1 d e2) := fun _ => encMatch_length 18 e1 d e2

theorem EncodingLength.match19 (e1 d e2 : Nat) : EncodingLength.Statement (.match19 e1 d e2) := fun _ => encMatch_length 19 e1 d e2

theorem EncodingLength.match20 (e1 d e2 : Nat) : EncodingLength.Statement (.match20 e1 d e2) := fun _ => encMatch_length 20 e1 d e2

theorem EncodingLength.match21 (e1 d e2 : Nat) : EncodingLength.Statement (.match21 e1 d e2) := fun _ => encMatch_length 21 e1 d e2

theorem EncodingLength.match22 (e1 d e2 : Nat) : EncodingLength.Statement (.match22 e1 d e2) := fun _ => encMatch_length 22 e1 d e2

theorem EncodingLength.match23 (e1 d e2 : Nat) : EncodingLength.Statement (.match23 e1 d e2) := fun _ => encMatch_length 23 e1 d e2

theorem EncodingLength.match24 (e1 d e2 : Nat) : EncodingLength.Statement (.match24 e1 d e2) := fun _ => encMatch_length 24 e1 d e2

theorem EncodingLength.match25 (e1 d e2 : Nat) : EncodingLength.Statement (.match25 e1 d e2) := fun _ => encMatch_length 25 e1 d e2

theorem EncodingLength.match26 (e1 d e2 : Nat) : EncodingLength.Statement (.match26 e1 d e2) := fun _ => encMatch_length 26 e1 d e2

theorem EncodingLength.match27 (e1 d e2 : Nat) : EncodingLength.Statement (.match27 e1 d e2) := fun _ => encMatch_length 27 e1 d e2

theorem EncodingLength.audDelta (d : Byte) : EncodingLength.Statement (.audDelta d) := fun _ => ⟨(natToBits_length 9 _).ge, (natToBits_length 9 _).le.trans (by decide)⟩

theorem EncodingLength.audEnd00 : EncodingLength.Statement (.audEnd00) := fun _ => encAud_end _

theorem EncodingLength.audEnd01 : EncodingLength.Statement (.audEnd01) := fun _ => encAud_end _

theorem EncodingLength.audEnd10 : EncodingLength.Statement (.audEnd10) := fun _ => encAud_end _

theorem EncodingLength.audEnd11 : EncodingLength.Statement (.audEnd11) := fun _ => encAud_end _

theorem EncodingLength.ppmLit (s : Byte) : EncodingLength.Statement (.ppmLit s) := fun _ => encByte_fits s

theorem EncodingLength.ppmLitesc : EncodingLength.Statement (.ppmLitesc) := fun ctx => encByte_append _ _ (encByte_fits ctx.esc).2

theorem EncodingLength.ppmNewfile : EncodingLength.Statement (.ppmNewfile) := fun ctx => encByte_append _ _ (encByte_fits ctx.esc).2

theorem EncodingLength.ppmFilter (t : FilterTok) : EncodingLength.Statement (.ppmFilter t) := by
  intro ctx
  have h := encFilter_length t
  simp only [slotOf, encode, EncodingLength.fits, List.length_append, encByte_length]
  omega

theorem EncodingLength.ppmMatch (d2 d1 d0 l : Byte) : EncodingLength.Statement (.ppmMatch d2 d1 d0 l) := fun _ => encByte_append _ _ (encBytes_flat _ _ _ _ _)

theorem EncodingLength.ppmReserved (c : Byte) : EncodingLength.Statement (.ppmReserved c) := fun ctx => encByte_append _ _ (encByte_fits ctx.esc).2

theorem EncodingLength.ppmonlyByte (s : Byte) : EncodingLength.Statement (.ppmonlyByte s) := fun _ => encByte_length _

theorem EncodingLength.hdr (flags chk : Byte) (size : List Byte) : EncodingLength.Statement (.hdr flags chk size) := by
  intro ctx
  simp only [slotOf, encode, EncodingLength.fits, List.length_append, encByte_length, encBytes_length]
  omega

theorem EncodingLength.lenV (v : BitVec 4) : EncodingLength.Statement (.lenV v) := fun _ => .inl (natToBits_length 4 _)

theorem EncodingLength.len15 : EncodingLength.Statement (.len15) := fun _ => .inr rfl

theorem EncodingLength.lenZrun (z : BitVec 4) : EncodingLength.Statement (.lenZrun z) := fun _ => .inr rfl

theorem EncodingLength.audioTables (ch1 : BitVec 2) (lens : List (BitVec 4)) : EncodingLength.Statement (.audioTables ch1 lens) := by
  intro ctx
  have h := encLens_length lens
  simp only [slotOf, encode, EncodingLength.fits, List.length_append, natToBits_length]
  omega

theorem EncodingLength.lzTables (lens : List (BitVec 4)) : EncodingLength.Statement (.lzTables lens) := fun _ => encLens_length lens

theorem EncodingLength.ppmHdr (p : Byte) (mem esc : Option Byte) : EncodingLength.Statement (.ppmHdr p mem esc) := by
  intro ctx
  cases mem <;> cases esc <;> simp [slotOf, encode, EncodingLength.fits]

theorem EncodingLength.filterTok (t : FilterTok) : EncodingLength.Statement (.filterTok t) := fun _ => encFilter_length t

theorem EncodingLength.fkNone : EncodingLength.Statement (.fkNone) := fun _ => rfl

theorem EncodingLength.fkE8 : EncodingLength.Statement (.fkE8) := fun _ => rfl

theorem EncodingLength.fkE8E9 : EncodingLength.Statement (.fkE8E9) := fun _ => rfl

theorem EncodingLength.fkItanium : EncodingLength.Statement (.fkItanium) := fun _ => rfl

theorem EncodingLength.fkDelta : EncodingLength.Statement (.fkDelta) := fun _ => rfl

theorem EncodingLength.fkRgb : EncodingLength.Statement (.fkRgb) := fun _ => rfl

theorem EncodingLength.fkAudio : EncodingLength.Statement (.fkAudio) := fun _ => rfl

end Sys2Proof.Laws
end

