-- ==== Sys2Proof/Laws/Window.lean ====
section
/-! SUPPORT. What `put` and `copyMatch` do to the window (spec/42_window.md R160 to R167): what they keep, how they count, and
that they keep a window sound. -/

namespace Sys2Proof.Machine

@[simp] theorem Window.put_w (x : Window) (b : Byte) : (x.put b).w = x.w := rfl
@[simp] theorem Window.put_tf (x : Window) (b : Byte) : (x.put b).tf = x.tf := rfl
@[simp] theorem Window.put_tw (x : Window) (b : Byte) : (x.put b).tw = x.tw + 1 := rfl
@[simp] theorem Window.put_pos (x : Window) (b : Byte) : (x.put b).pos = (x.pos + 1) % x.w := rfl

/-- A `put` changes the byte at `POS` and no other. -/
theorem Window.read_put (x : Window) (b : Byte) (a : Nat) (h : Sparse.rising x.mem = true) :
    Memory.read (x.put b).mem a = if a = x.pos then b else Memory.read x.mem a := by
  by_cases ha : a = x.pos
  · rw [if_pos ha, ha]; exact Memory.read_write_self x.mem x.pos b h
  · rw [if_neg ha]; exact Memory.read_write_ne x.mem x.pos a b h ha

theorem Window.copySteps_w (zero : Bool) (d n : Nat) (x : Window) : (Window.copySteps zero d n x).w = x.w := by
  induction n generalizing x with
  | zero => rfl
  | succ n ih => exact ih _

theorem Window.copySteps_tf (zero : Bool) (d n : Nat) (x : Window) : (Window.copySteps zero d n x).tf = x.tf := by
  induction n generalizing x with
  | zero => rfl
  | succ n ih => exact ih _

theorem Window.copySteps_tw (zero : Bool) (d n : Nat) (x : Window) : (Window.copySteps zero d n x).tw = x.tw + n := by
  induction n generalizing x with
  | zero => rfl
  | succ n ih => rw [Window.copySteps, ih, Window.put_tw]; omega

@[simp] theorem Window.copyMatch_w (x : Window) (d n : Nat) : (x.copyMatch d n).w = x.w := copySteps_w _ _ _ _
@[simp] theorem Window.copyMatch_tf (x : Window) (d n : Nat) : (x.copyMatch d n).tf = x.tf := copySteps_tf _ _ _ _
@[simp] theorem Window.copyMatch_tw (x : Window) (d n : Nat) : (x.copyMatch d n).tw = x.tw + n := copySteps_tw _ _ _ _
@[simp] theorem Window.copyMatch_zero (x : Window) (d : Nat) : x.copyMatch d 0 = x := rfl

/-- A write inside the window leaves the listed addresses inside it. -/
theorem Memory.mem_write_lt {m : List Host.Cell} {a w : Nat} {b : Byte} (ha : a < w) (h : ∀ c ∈ m, c.1 < w) :
    ∀ c ∈ Memory.write m a b, c.1 < w := by
  intro c hc
  unfold Memory.write at hc
  split at hc
  · exact h c (Sparse.mem_erase hc)
  · rcases Sparse.mem_put hc with rfl | hc
    · exact ha
    · exact h c hc

/-- `put` keeps a window in use sound. -/
theorem Window.put_sound {x : Window} (b : Byte) (h : x.Sound) (hw : x.w ≠ 0) : (x.put b).Sound where
  canonical := Window.wf_put x b h.canonical
  inside := fun _ => Memory.mem_write_lt (h.pos ▸ Nat.mod_lt _ (Nat.pos_of_ne_zero hw)) (h.inside hw)
  pos := by simp [h.pos, Nat.add_mod]
  first := by
    intro _
    have hp : (x.put b).pos = (x.tw + 1) % x.w := by simp [h.pos, Nat.add_mod]
    have hf := h.first hw
    have hfirst : (x.put b).first = (x.first || (x.put b).pos == 0) := rfl
    rw [hfirst, hp, put_w, put_tw]
    simp only [Bool.or_eq_true, beq_iff_eq, hf]
    constructor
    · rintro (h1 | h1)
      · omega
      · exact Nat.le_of_dvd (by omega) (Nat.dvd_of_mod_eq_zero h1)
    · intro h1
      rcases Nat.lt_or_ge x.tw x.w with h2 | h2
      · right
        have : x.tw + 1 = x.w := by omega
        rw [this, Nat.mod_self]
      · exact .inl h2
  flushed := Nat.le_succ_of_le h.flushed

/-- `copyMatch` keeps a window in use sound. -/
theorem Window.copyMatch_sound {x : Window} (d n : Nat) (h : x.Sound) (hw : x.w ≠ 0) : (x.copyMatch d n).Sound := by
  unfold Window.copyMatch
  generalize x.zeroFill d = zero
  induction n generalizing x with
  | zero => exact h
  | succ n ih => exact ih (put_sound _ h hw) hw

/-- A range has as many bytes as were asked for. -/
@[simp] theorem Window.length_range (x : Window) (a n : Nat) : (x.range a n).length = n := by
  induction n generalizing a with
  | zero => rfl
  | succ n ih => simp [Window.range, ih]

/-- A range in two parts. -/
theorem Window.range_add (x : Window) (a m n : Nat) : x.range a (m + n) = x.range a m ++ x.range (a + m) n := by
  induction m generalizing a with
  | zero => simp [Window.range]
  | succ m ih => rw [Nat.succ_add, Window.range, ih, Window.range, Nat.add_right_comm]; rfl

/-- A range reads the bytes at its offsets. -/
theorem Window.getElem?_range (x : Window) (a n k : Nat) (h : k < n) : (x.range a n)[k]? = some (x.byteAt (a + k)) := by
  induction n generalizing a k with
  | zero => omega
  | succ n ih =>
    cases k with
    | zero => rfl
    | succ k => rw [Window.range, List.getElem?_cons_succ, ih _ _ (by omega)]; congr 2; omega

end Sys2Proof.Machine
end

