-- ==== Sys2Proof/Tests/Slice0.lean ====
section
/-! SUPPORT. Tests, each a named theorem: an ill-formed term for each check of WellFormed; a word for every constructor,
written out from the tables of spec/30_encoding.md; one step of each instruction, its expected result from
spec/95_test_vectors.md (named in the docstring) or from hand calculation with the rule named; and for each obligation states
and operands that meet its hypotheses, at the boundaries of its clauses. -/

namespace Sys2Proof.Tests

set_option Elab.async false

open Sys2Proof Sys2Proof.Machine

/-! ### Helpers -/

/-- The outcome is a next state of which `p` holds. -/
def gives (o : Out) (p : State → Bool) : Bool :=
  match o with
  | .next t => p t
  | _ => false

/-- The bits are read as this instruction, with nothing left. -/
def reads (sl : Slot) (l : List Bool) (i : Instr) : Bool :=
  match decode sl l with
  | .ok (j, r) => decide (j = i) && r.isEmpty
  | .error _ => false

/-- `b`: the `n` bits of `v`, as one writes them. -/
abbrev b (n v : Nat) : List Bool := natToBits n v

/-- The bytes of the stream at an idle CORE. -/
def withStream (bytes : List Byte) : State := State.reset.setCur { State.reset.cur with port := [.data bytes] }

/-- The CORE in a block of generation `g`, the dispatcher in state `f`, the smallest window, this stream ahead. -/
def inBlock (g : BitVec 3) (f : Fsm) (bytes : List Byte) : State :=
  let s := withStream bytes
  (s.setSes { s.ses with fsm := f, verL := g, blockEnd := 1000, targetL := 1000 }).setWin { s.win with w := 262144 }

/-- A state whose window has taken these bytes. -/
def holding (s : State) (bytes : List Byte) : State := s.setWin (bytes.foldl Window.put { s.win with w := 262144 })

/-- The bytes a flush would give. -/
def tail (s : State) (a n : Nat) : List Byte := s.win.range a n

/-- A context: generation and escape byte. -/
def g4 : Ctx := ⟨3, 2⟩

/-! ### WellFormed: a term each check refuses -/

/-- R107: `MASK` without `HASREGS`; too few registers; a program without `NEWPROG`. -/
theorem test_wf_filter :
    Instr.wf g4 (.filterTok ⟨0x00, 0, 0, 1, [0], []⟩) = false ∧ Instr.wf g4 (.filterTok ⟨0x40, 0, 0, 3, [0], []⟩) = false ∧
    Instr.wf g4 (.ppmFilter ⟨0x00, 0, 0, 0, [], [1]⟩) = false ∧
    Instr.wf ⟨2, 2⟩ (.filter ⟨0x40, 0, 0, 1, [0], []⟩) = false := by decide +kernel

/-- R107: `PLEN` is a 16-bit field. -/
theorem test_wf_program_length (p : List Byte) (h : p.length = 65536) : FilterTok.wf ⟨0x80, 0, 0, 0, [], p⟩ = false := by
  simp [FilterTok.wf, h]

/-- R97: an extra-bit value or a symbol beyond its field; R209: operands of a reserved symbol. -/
theorem test_wf_tokens :
    Instr.wf g4 (.cache0 28 0) = false ∧ Instr.wf g4 (.cache1 0 1) = false ∧ Instr.wf g4 (.cache2 27 32) = false ∧
    Instr.wf g4 (.cache3 8 2) = false ∧ Instr.wf ⟨1, 2⟩ (.cache3 0 1) = false ∧ Instr.wf ⟨1, 2⟩ (.cache3 1 0) = false ∧
    Instr.wf g4 (.match0 1 0 0) = false ∧ Instr.wf g4 (.match27 32 0 0) = false ∧ Instr.wf g4 (.match5 0 48 0) = false ∧
    Instr.wf g4 (.match5 0 47 (2 ^ 22)) = false := by decide +kernel

/-- R102: the escape byte is no literal; 1 to 4 are no reserved commands. -/
theorem test_wf_ppm :
    Instr.wf g4 (.ppmLit 2) = false ∧ Instr.wf g4 (.ppmReserved 1) = false ∧ Instr.wf g4 (.ppmReserved 4) = false := by
  decide +kernel

/-- R84, R85, R88, R89, R101: field counts and values of the stream structures. -/
theorem test_wf_structures :
    Instr.wf g4 (.hdr 0x08 0 [0]) = false ∧ Instr.wf g4 (.hdr 0x18 0 [0]) = false ∧ Instr.wf g4 (.lenV 15) = false ∧
    Instr.wf g4 (.lenZrun 0) = false ∧ Instr.wf g4 (.audioTables 1 (List.replicate 257 0)) = false ∧
    Instr.wf g4 (.lzTables (List.replicate 366 0)) = false ∧ Instr.wf g4 (.ppmHdr 0x80 none none) = false ∧
    Instr.wf g4 (.ppmHdr 0x00 none (some 1)) = false := by decide +kernel

/-! ### Decoding: a word for every constructor -/

/-- R83: every command, its word written as `op`, `a`, `b`. -/
theorem test_decode_commands :
    ([(0x000000000000000000#72, .nop), (0x010000000000000000#72, .reset), (0x020000000000000000#72, .start),
      (0x030000000000000000#72, .cancel), (0x100000000000000000#72, .bcAttach), (0x110000002000000000#72, .bcPeek 32),
      (0x120000000500000000#72, .bcConsume 5), (0x130000000000000000#72, .bcRefill), (0x140000000000000000#72, .bcAlign),
      (0x150000000000000000#72, .bcExhausted), (0x200000000000000001#72, .hufSetlen 0 1),
      (0x210000000200000003#72, .hufBuild 2 3), (0x220000000200000000#72, .hufDecode 2),
      (0x300000004100000000#72, .winPut 0x41), (0x310000000300000005#72, .winCopy 3 5),
      (0x320000000600000000#72, .winRead 6), (0x330000000000000000#72, .winFlush), (0x340000000000000000#72, .winStat),
      (0x350000000000000000#72, .winInit), (0x4000000003000007C8#72, .ppmInit 3 1992),
      (0x410000000000000000#72, .ppmDecode), (0x420000000400000000#72, .saAlloc 4), (0x430000000100000004#72, .saFree 1 4),
      (0x440000000000000000#72, .rcInit), (0x450000000400000000#72, .saInit 4), (0x500000000200000041#72, .fvLoad 2 0x41),
      (0x510000000600000100#72, .fvSetreg 6 0x100), (0x520000000400000006#72, .fvExec 4 6),
      (0x530000000500000000#72, .fvRead 5), (0x540000000900000000#72, .fvIdent 9)] : List (BitVec 72 × Instr)).all
      (fun p => reads .cmd (b 72 p.1.toNat) p.2) = true := by decide +kernel

/-- R82: a word whose `op` is not listed is no command; the operand bits a command does not use are ignored (R83). -/
theorem test_decode_other_commands :
    (decodeCmd 0x040000000000000000#72).toOption = none ∧ (decodeCmd 0x550000000000000000#72).toOption = none ∧
    (decodeCmd 0x00FFFFFFFF12345678#72).toOption = some .nop := by decide +kernel

/-- R90, R92, R97: `LD` symbols of 9 bits and the fields after them. -/
theorem test_decode_lz :
    reads (.lz 3) (b 9 0b001000001) (.lit 0x41) = true ∧
    reads (.lz 3) (b 9 0b100000000 ++ b 2 0b00) .end00 = true ∧
    reads (.lz 3) (b 9 0b100000000 ++ b 2 0b01) .end01 = true ∧
    reads (.lz 3) (b 9 0b100000000 ++ b 2 0b10) .end10 = true ∧
    reads (.lz 3) (b 9 0b100000000 ++ b 2 0b11) .end11 = true ∧
    reads (.lz 3) (b 9 0b100000010) .repeatLast = true ∧
    reads (.lz 3) (b 9 0b100000011 ++ b 5 0b00000) (.cache0 0 0) = true ∧
    reads (.lz 3) (b 9 0b100000100 ++ b 5 0b01000 ++ b 1 0b1) (.cache1 8 1) = true ∧
    reads (.lz 3) (b 9 0b100000101 ++ b 5 0b01100 ++ b 2 0b10) (.cache2 12 2) = true ∧
    reads (.lz 3) (b 9 0b100000110 ++ b 5 0b11011 ++ b 5 0b11111) (.cache3 27 31) = true := by decide +kernel

/-- R107, the filter token of program P2 after symbol 257: `c0 00000000 060000 01 02000000 0900` and the program. -/
theorem test_decode_filter :
    let bits := b 8 0xC0 ++ b 32 0 ++ b 24 0x060000 ++ b 8 0x01 ++ b 32 0x02000000 ++ b 16 0x0900 ++ b 72 0x6C58412D44454C5441
    let t : FilterTok := ⟨0xC0, 0, 6, 1, [2], [0x6C, 0x58, 0x41, 0x2D, 0x44, 0x45, 0x4C, 0x54, 0x41]⟩
    reads (.lz 3) (b 9 0b100000001 ++ bits) (.filter t) = true ∧ reads .filterTok bits (.filterTok t) = true ∧
    reads (.ppm 2) (b 8 0x02 ++ b 8 0x03 ++ bits) (.ppmFilter t) = true := by decide +kernel

/-- R97, R95, R96: `MATCH s` for every slot, all its length bits set, then `DD` symbol 6 with its two bits `01`. -/
theorem test_decode_match :
    ([(0, 0, .match0 0 6 1), (1, 0, .match1 0 6 1), (2, 0, .match2 0 6 1), (3, 0, .match3 0 6 1), (4, 0, .match4 0 6 1),
      (5, 0, .match5 0 6 1), (6, 0, .match6 0 6 1), (7, 0, .match7 0 6 1), (8, 1, .match8 1 6 1), (9, 1, .match9 1 6 1),
      (10, 1, .match10 1 6 1), (11, 1, .match11 1 6 1), (12, 2, .match12 3 6 1), (13, 2, .match13 3 6 1),
      (14, 2, .match14 3 6 1), (15, 2, .match15 3 6 1), (16, 3, .match16 7 6 1), (17, 3, .match17 7 6 1),
      (18, 3, .match18 7 6 1), (19, 3, .match19 7 6 1), (20, 4, .match20 15 6 1), (21, 4, .match21 15 6 1),
      (22, 4, .match22 15 6 1), (23, 4, .match23 15 6 1), (24, 5, .match24 31 6 1), (25, 5, .match25 31 6 1),
      (26, 5, .match26 31 6 1), (27, 5, .match27 31 6 1)] : List (Nat × Nat × Instr)).all
      (fun p => reads (.lz 3) (b 9 (0b100000111 + p.1) ++ b p.2.1 (2 ^ p.2.1 - 1) ++ b 6 0b000110 ++ b 2 0b01) p.2.2) =
      true := by decide +kernel

/-- R209: a symbol the generation reserves has no field after it. -/
theorem test_decode_reserved :
    reads (.lz 2) (b 9 257) (.filter .zero) = true ∧ reads (.lz 1) (b 9 262) (.cache3 0 0) = true ∧
    reads (.lz 0) (b 9 258) .repeatLast = true := by decide +kernel

/-- R100: audio symbols. -/
theorem test_decode_aud :
    reads .aud (b 9 0b011111111) (.audDelta 255) = true ∧ reads .aud (b 9 0b100000000 ++ b 2 0b00) .audEnd00 = true ∧
    reads .aud (b 9 0b100000000 ++ b 2 0b01) .audEnd01 = true ∧ reads .aud (b 9 0b100000000 ++ b 2 0b10) .audEnd10 = true ∧
    reads .aud (b 9 0b100000000 ++ b 2 0b11) .audEnd11 = true := by decide +kernel

/-- R102, R106, V-PPM3: the decoded bytes of PPM tokens with `ESC = 2`; `02 05` is reserved; R114. -/
theorem test_decode_ppm :
    reads (.ppm 2) (b 8 0x68) (.ppmLit 0x68) = true ∧ reads (.ppm 2) (b 16 0x0201) .ppmLitesc = true ∧
    reads (.ppm 2) (b 16 0x0202) .ppmNewfile = true ∧ reads (.ppm 2) (b 48 0x020400000501) (.ppmMatch 0 0 5 1) = true ∧
    reads (.ppm 2) (b 16 0x0205) (.ppmReserved 5) = true ∧ reads (.ppm 2) (b 16 0x0200) (.ppmReserved 0) = true ∧
    reads .ppmOnly (b 8 0x02) (.ppmonlyByte 2) = true := by decide +kernel

/-- V-HDR3 (two `SIZE` bytes), V-HDR4 (`18 42`), R88's entries, the sub-header of program P3. -/
theorem test_decode_structures :
    reads .hdr (b 32 0x8FF82C01) (.hdr 0x8F 0xF8 [0x2C, 0x01]) = true ∧ reads .hdr (b 16 0x1842) (.hdr 0x18 0x42 []) = true ∧
    reads .len (b 4 0x3) (.lenV 3) = true ∧ reads .len (b 8 0xF0) .len15 = true ∧ reads .len (b 8 0xF2) (.lenZrun 2) = true ∧
    reads .ppmHdr (b 16 0x8200) (.ppmHdr 0x82 (some 0) none) = true ∧
    reads .ppmHdr (b 24 0xC20005) (.ppmHdr 0xC2 (some 0) (some 5)) = true := by decide +kernel

/-- V-LEN3: the 58 nibbles of program P1 hold 367 lengths; V-LEN2: the last run of a set is cut short. -/
theorem test_decode_lz_tables :
    reads .lzTables (b 232 0xFFFFFFFC3333444444FFFFFFFFFFFFFFFFFFFFF94F44FFFE1FFFFFFFF0)
      (.lzTables (List.replicate 65 0 ++ List.replicate 4 3 ++ List.replicate 6 4 ++ List.replicate 181 0 ++ [4] ++
        List.replicate 6 0 ++ [4] ++ List.replicate 33 0 ++ [1] ++ List.replicate 69 0)) = true ∧
    reads .audioTables (b 2 0b00 ++ (List.replicate 15 (b 8 0xFF)).flatten ++ b 8 0xFF) (.audioTables 0 (List.replicate 257 0)) =
      true := by decide +kernel

/-- R109: the tags of the filter kinds. -/
theorem test_decode_kinds :
    reads .fkind (b 3 0b000) .fkNone = true ∧ reads .fkind (b 3 0b001) .fkE8 = true ∧
    reads .fkind (b 3 0b010) .fkE8E9 = true ∧ reads .fkind (b 3 0b011) .fkItanium = true ∧
    reads .fkind (b 3 0b100) .fkDelta = true ∧ reads .fkind (b 3 0b101) .fkRgb = true ∧
    reads .fkind (b 3 0b110) .fkAudio = true ∧ (decode .fkind (b 3 0b111)).toOption = none := by decide +kernel

/-- The words of the opcode table, and the step that runs each (log entry 20). -/
theorem test_table_words :
    decodeTableWord 72 0x310000000000000000 = some (.winCopy 0 0) ∧ decodeTableWord 16 0x41 = some (.lit 0x41) ∧
    decodeTableWord 16 0b10000000010 = some .end10 ∧ decodeTableWord 16 270 = some (.match7 0 0 0) ∧
    decodeTableWord 8 6 = some .fkAudio ∧ decodeTableWord 8 0xF0 = some .len15 ∧ decodeTableWord 16 291 = none ∧
    gives (step (State.reset.withFetchWord 72 0x510000000300000009)) (fun t => regAt t.vm.regs 3 == 9) = true ∧
    gives (step (State.reset.withFetchWord 16 0x41)) (fun t => tail t 0 1 == [0x41]) = true ∧
    gives (step (State.reset.withFetchWord 16 0b10000000010)) (fun t => t.st.kind == .success) = true ∧
    gives (step (State.reset.withFetchWord 8 0xF2)) (fun t => t.tabs.lenPos == 4) = true := by decide +kernel

/-! ### One step of each instruction -/

/-- The state after these instructions; where one gives no next state, the state stays. -/
def after (l : List Instr) (s : State) : State :=
  l.foldl (fun s i => match exec i s with | .next t => t | _ => s) s

/-- Six bytes in filter memory (V-DELTA1). -/
def loaded (bytes : List Byte) (regs : List (Nat × Word)) : State :=
  let s := State.reset
  s.setVm { s.vm with
    fm := Sparse.putBytes [] 0 bytes,
    regs := regs.foldl (fun r p => r.setIfInBounds p.1 p.2) s.vm.regs }

/-- The bytes `FM[0..n)`. -/
def fmBytes (s : State) (n : Nat) : List Byte := s.vm.prefixBytes n

/-- The test value of `ALAST`, `ACUR`, `AUDIO_CH` under V-AUD1 after one symbol: channel 0 holds `FF`. -/
def twoChannels (s : State) : State := s.setTok { s.tok with audioCh := 2, acur := 1, alast := #v[0xFF, 0, 0, 0] }

/-- R104: `NOP` clears `CMD_ERR`. -/
theorem test_nop :
    gives (exec .nop (inBlock 3 .lz []).refuse) (fun t => !t.st.cmdErr && t.ses.fsm == .lz && t.st.result == 0) = true := by
  decide +kernel

/-- R430, R432: `RESET` in a running session. -/
theorem test_reset :
    gives (exec .reset (holding (inBlock 3 .lz []) [1, 2])) (fun t =>
      t.ses.fsm == .idle && t.ses.verL == 7 && t.win.w == 0 && t.win.tw == 0 && t.par.version == 3) = true := by
  decide +kernel

/-- R430: a `RESET` while a port call is blocked. The read's bytes are lost and the command has no result; the bytes the output
port took are out, and no more follow. -/
theorem test_reset_in_port_call :
    gives (exec (.bcPeek 8) ((withStream []).setCur { State.reset.cur with port := [.reset, .data [7]] })) (fun t =>
      t.cur.port == [.data [7]] && t.st.result == 0 && t.par.version == 3 && t.ses.fsm == .idle) = true ∧
    gives (exec .end10 ((holding (inBlock 3 .lz []) [1, 2]).setOut ⟨[], [.reset true, .ok]⟩)) (fun t =>
      t.out == ⟨[1, 2], [.ok]⟩ && t.st.written == 0 && t.st.kind == .none && t.ses.fsm == .idle && t.win.w == 0) = true := by
  decide +kernel

/-- V-SES4: `WINSIZE = 0x20000` is raised to `W_MIN`; `VERSION = 5` is refused. -/
theorem test_start :
    let s := State.reset.setPar { State.reset.par with winsize := 0x20000#32 }
    gives (exec .start s) (fun t => t.win.w == 262144 && t.ses.fsm == .hdr && t.ses.verL == 3 && !t.st.cmdErr) = true ∧
    gives (exec .start (s.setPar { s.par with version := 5 })) (fun t => t.st.cmdErr && t.ses.fsm == .idle) = true := by
  decide +kernel

/-- R83, R357: `CANCEL` while a session runs only sets the flag. -/
theorem test_cancel :
    gives (exec .cancel (inBlock 3 .lz [])) (fun t => t.par.cancel && t.ses.fsm == .lz && !t.st.cmdErr) = true := by
  decide +kernel

/-- R133. -/
theorem test_bcAttach :
    gives (exec .bcAttach (after [.bcPeek 8, .bcConsume 3] (withStream [0xFF, 0, 0x80]))) (fun t =>
      t.cur.bitpos == 0 && t.cur.top == 0 && !t.cur.eos) = true := by decide +kernel

/-- V-BC3; V-BC5: `BC.PEEK 33` is refused. -/
theorem test_bcPeek :
    gives (exec (.bcPeek 32) (after [.bcConsume 4] (withStream [0x12, 0x34, 0x56, 0x78, 0x9A]))) (fun t =>
      t.st.result == 0x23456789#32 && t.cur.bitpos == 4) = true ∧
    gives (exec (.bcPeek 33) (withStream [0x12])) (fun t => t.st.cmdErr && t.cur.bitpos == 0 && t.st.result == 0) = true := by
  decide +kernel

/-- V-BC1: `consume(9)`, then `consume(8)`. R121, R126: past an empty buffer the bytes are skipped when they come. -/
theorem test_bcConsume :
    gives (exec (.bcConsume 8) (after [.bcConsume 9] (withStream [0xFF, 0, 0x80]))) (fun t =>
      t.cur.bitpos == 17 && decide (t.cur.rd ≤ t.cur.top)) = true ∧
    gives (exec (.bcPeek 8) (after [.bcConsume 12] (withStream [0x12, 0x34, 0x56]))) (fun t =>
      t.st.result == 0x45 && t.cur.bitpos == 12 && t.cur.skip == 0) = true ∧
    gives (exec .bcExhausted (after [.bcConsume 32] (withStream [0x12, 0x34, 0x56]))) (fun t =>
      t.st.result == 2 && t.cur.bitpos == 32 && t.cur.streamLen == 3 && t.cur.consumedBytes == 3) = true := by
  decide +kernel

/-- R129: fewer than 30 bytes and the end of the stream. -/
theorem test_bcRefill :
    gives (exec .bcRefill (withStream [0xFF, 0, 0x80])) (fun t =>
      t.cur.buf == [0xFF, 0, 0x80] && t.cur.eos && t.cur.streamLen == 3 && t.cur.bitpos == 0) = true := by decide +kernel

/-- V-BC3: 12 becomes 16, and 16 stays. -/
theorem test_bcAlign :
    gives (exec .bcAlign (after [.bcConsume 12] (withStream [0x12, 0x34]))) (fun t => t.cur.bitpos == 16) = true ∧
    gives (exec .bcAlign (after [.bcConsume 16] (withStream [0x12, 0x34]))) (fun t => t.cur.bitpos == 16) = true := by
  decide +kernel

/-- V-BC4: the empty stream. -/
theorem test_bcExhausted :
    gives (exec .bcExhausted (withStream [])) (fun t => t.st.result == 1) = true ∧
    gives (exec .bcExhausted (after [.bcConsume 1] (withStream []))) (fun t => t.st.result == 2) = true := by decide +kernel

/-- V-HUF5: the staged lengths. -/
theorem test_hufSetlen :
    gives (exec (.hufSetlen 1 2) State.reset) (fun t => t.tabs.lenbuf[1] == 2 && t.tabs.lenbuf[0] == 0) = true ∧
    gives (exec (.hufSetlen 1028 2) State.reset) (fun t => t.st.cmdErr) = true := by decide +kernel

/-- V-HUF5: accepted with the arrays of V-HUF1; R155 case d: rejected. -/
theorem test_hufBuild :
    gives (exec (.hufBuild 2 3) (after [.hufSetlen 0 1, .hufSetlen 1 2, .hufSetlen 2 2] State.reset)) (fun t =>
      t.st.result == 1 && t.tabs.rd.valid && t.tabs.rd.cnt.take 3 == [0, 1, 2] &&
      t.tabs.rd.limit.take 4 == [0, 32768, 65536, 65536] && t.tabs.rd.sym == [0, 1, 2]) = true ∧
    gives (exec (.hufBuild 2 2) (after [.hufSetlen 0 17, .hufSetlen 1 1] State.reset)) (fun t =>
      t.st.result == 0 && !t.tabs.rd.valid && !t.st.cmdErr) = true := by decide +kernel

/-- V-HUF5: the second symbol of stream `58`. -/
theorem test_hufDecode :
    gives (exec (.hufDecode 2)
      (after [.hufSetlen 0 1, .hufSetlen 1 2, .hufSetlen 2 2, .hufBuild 2 3, .hufDecode 2] (withStream [0x58]))) (fun t =>
      t.st.result == 1 && t.cur.bitpos == 3) = true ∧
    gives (exec (.hufDecode 0) State.reset) (fun t => t.st.cmdErr) = true := by decide +kernel

/-- Program P8, its first commands. -/
def p8 : State :=
  after [.winInit, .winPut 0x41, .winPut 0x42, .winPut 0x43, .winCopy 3 5]
    (State.reset.setPar { State.reset.par with targetLo := 100 })

/-- V-WIN5: `WIN.PUT 0x41`; 256 is refused. -/
theorem test_winPut :
    gives (exec (.winPut 0x41) (after [.winInit] State.reset)) (fun t => tail t 0 1 == [0x41] && t.win.pos == 1) = true ∧
    gives (exec (.winPut 256) (after [.winInit] State.reset)) (fun t => t.st.cmdErr && t.win.tw == 0) = true := by
  decide +kernel

/-- P8: the overlapping copy, and the zero-filled one. -/
theorem test_winCopy :
    tail p8 0 8 = [0x41, 0x42, 0x43, 0x41, 0x42, 0x43, 0x41, 0x42] ∧
    gives (exec (.winCopy 12 2) p8) (fun t => tail t 7 3 == [0x42, 0, 0] && t.st.events == 1) = true := by decide +kernel

/-- P8. -/
theorem test_winRead : gives (exec (.winRead 6) p8) (fun t => t.st.result == 0x41#32) = true := by decide +kernel

/-- P8; with the reset value of `TARGET` nothing goes out (R366). -/
theorem test_winFlush :
    gives (exec .winFlush p8) (fun t =>
      t.out.bytes == [0x41, 0x42, 0x43, 0x41, 0x42, 0x43, 0x41, 0x42] && t.st.written == 8 && t.win.tf == 8) = true ∧
    gives (exec .winFlush (after [.winInit, .winPut 1] State.reset)) (fun t =>
      t.out.bytes.isEmpty && t.st.written == 0 && t.win.tf == 1) = true := by decide +kernel

/-- P8 and V-WIN5. -/
theorem test_winStat :
    gives (exec .winStat p8) (fun t => t.st.result == 8) = true ∧
    gives (exec .winStat (p8.setWin { p8.win with pos := 0, first := true })) (fun t => t.st.result == 0x80000000#32) =
      true := by decide +kernel

/-- R172, R352. -/
theorem test_winInit :
    gives (exec .winInit p8) (fun t => t.win == Window.fresh 262144 && t.ses.targetL == 100) = true ∧
    gives (exec .winInit (State.reset.setPar { State.reset.par with winsize := 0x30000#32 })) (fun t => t.st.cmdErr) = true := by
  decide +kernel

/-- V-PPM2: 129 units are enough, 128 are not; order 40 is 16. -/
theorem test_ppmInit :
    gives (exec (.ppmInit 40 1548) State.reset) (fun t =>
      t.st.result == 1 && t.ppm.alloc && t.ppm.order == 16 && t.sa.u == 129) = true ∧
    gives (exec (.ppmInit 2 1536) State.reset) (fun t => t.st.result == 0 && !t.ppm.alloc && !t.st.cmdErr) = true := by
  decide +kernel

/-- V-PPM1 in unit commands: the first byte is `a`; without a model the command is refused. -/
theorem test_ppmDecode :
    gives (exec .ppmDecode (after [.ppmInit 3 1992, .bcAttach, .rcInit] (withStream [0x5E, 0x6D, 0x04, 0x8B, 0xFC, 0x89])))
      (fun t => t.st.result == 0x61#32) = true ∧
    gives (exec .ppmDecode State.reset) (fun t => t.st.cmdErr) = true := by decide +kernel

/-- V-SA2. -/
theorem test_saAlloc :
    gives (exec (.saAlloc 1) (after [.saInit 4, .saAlloc 4, .saFree 0 4] State.reset)) (fun t =>
      t.st.result == 0 && t.sa.bucket 3 == [1]) = true ∧
    gives (exec (.saAlloc 1) (after [.saInit 4, .saAlloc 4] State.reset)) (fun t => t.st.result == 0xFFFFFFFF#32) = true := by
  decide +kernel

/-- V-SA2: the freed block is on its stack; R303: beyond `BRK` it is refused. -/
theorem test_saFree :
    gives (exec (.saFree 0 4) (after [.saInit 4, .saAlloc 4] State.reset)) (fun t => t.sa.bucket 4 == [0]) = true ∧
    gives (exec (.saFree 1 4) (after [.saInit 4, .saAlloc 4] State.reset)) (fun t => t.st.cmdErr) = true := by decide +kernel

/-- V-RC3. -/
theorem test_rcInit :
    gives (exec .rcInit (after [.bcConsume 3] (withStream [0x12, 0x34, 0x56, 0x78, 0x9A, 0xBC]))) (fun t =>
      t.rc == ⟨0, 0x3456789A#32, 0xFFFFFFFF#32⟩ && t.cur.bitpos == 40) = true := by decide +kernel

/-- R300: the model is destroyed, the books are empty. -/
theorem test_saInit :
    gives (exec (.saInit 4) (after [.ppmInit 2 1548] State.reset)) (fun t =>
      !t.ppm.alloc && t.sa.u == 4 && t.sa.brk == 0) = true := by decide +kernel

/-- R340, R346. -/
theorem test_fvLoad :
    gives (exec (.fvLoad 5 0xCB) State.reset) (fun t => t.vm.read 5 == 0xCB) = true ∧
    gives (exec (.fvLoad 262144 1) State.reset) (fun t => t.st.cmdErr) = true := by decide +kernel

/-- R344. -/
theorem test_fvSetreg :
    gives (exec (.fvSetreg 6 0x100) State.reset) (fun t => regAt t.vm.regs 6 == 0x100 && regAt t.vm.regs 5 == 0) = true ∧
    gives (exec (.fvSetreg 8 1) State.reset) (fun t => t.st.cmdErr) = true := by decide +kernel

/-- V-DELTA1, R345; V-NONE1: kind 7 is refused. -/
theorem test_fvExec :
    gives (exec (.fvExec 4 6) (loaded [0x01, 0x0A, 0x02, 0x14, 0x03, 0x1E] [(0, 2)])) (fun t =>
      fmBytes t 6 == [0xFF, 0xEC, 0xF5, 0xE9, 0xF3, 0xCB] && regAt t.vm.regs 4 == 6 && regAt t.vm.regs 7 == 262144) = true ∧
    gives (exec (.fvExec 7 4) State.reset) (fun t => t.st.cmdErr) = true := by decide +kernel

/-- R346. -/
theorem test_fvRead : gives (exec (.fvRead 1) (loaded [7, 8] [])) (fun t => t.st.result == 8) = true := by decide +kernel

/-- V-IDENT1: `DELTA`; a bad XOR byte. -/
theorem test_fvIdent :
    gives (exec (.fvIdent 9) (loaded [0x6C, 0x58, 0x41, 0x2D, 0x44, 0x45, 0x4C, 0x54, 0x41] [])) (fun t =>
      t.st.result == 4 && t.st.events == 0) = true ∧
    gives (exec (.fvIdent 9) (loaded [0x6D, 0x58, 0x41, 0x2D, 0x44, 0x45, 0x4C, 0x54, 0x41] [])) (fun t =>
      t.st.result == 0 && t.st.events == 0x40) = true := by decide +kernel

/-- R200. -/
theorem test_lit :
    gives (exec (.lit 0x4A) (holding (inBlock 3 .lz []) [1])) (fun t => tail t 0 2 == [1, 0x4A] && t.win.pos == 2) = true := by
  decide +kernel

/-- A block with three bytes pending. -/
def pending : State := holding (inBlock 3 .lz []) [1, 2, 3]

/-- R202 (V-TOK1 `00`): a flush, and the next header. -/
theorem test_end00 :
    gives (exec .end00 pending) (fun t => t.out.bytes == [1, 2, 3] && t.ses.fsm == .hdr && t.win.tf == 3) = true := by
  decide +kernel

/-- R204 (V-TOK1 `01`): a table set follows; under G1 the statistics are reset and tokens go on (R229). -/
theorem test_end01 :
    gives (exec .end01 pending) (fun t => t.out.bytes == [1, 2, 3] && t.ses.fsm == .tables && t.tabs.lenTot == 0) = true ∧
    gives (exec .end01 ((holding (inBlock 0 .lz []) [1]).setTok { State.reset.tok with g1Dd := ⟨[1, 0], [0, 1]⟩ })) (fun t =>
      t.ses.fsm == .lz && t.tok.g1Dd == .reset 48) = true := by decide +kernel

/-- R203 (V-TOK1 `10`): a final flush and `SUCCESS`; the tables stay. -/
theorem test_end10 :
    gives (exec .end10 (pending.setTabs { pending.tabs with tablesValid := true })) (fun t =>
      t.out.bytes == [1, 2, 3] && t.st.kind == .success && t.ses.fsm == .done && t.tabs.tablesValid) = true := by
  decide +kernel

/-- R203 (V-TOK1 `11`): the tables are invalidated. -/
theorem test_end11 :
    gives (exec .end11 (pending.setTabs { pending.tabs with tablesValid := true, audioValid := true })) (fun t =>
      t.st.kind == .success && !t.tabs.tablesValid && !t.tabs.audioValid) = true := by decide +kernel

/-- The filter token of program P2. -/
def p2Token : FilterTok := ⟨0xC0, 0, 6, 1, [2], [0x6C, 0x58, 0x41, 0x2D, 0x44, 0x45, 0x4C, 0x54, 0x41]⟩

/-- Program P2: `STORE[0]` is `DELTA`, the descriptor waits; V-TOK3: under G3 the symbol is reserved. -/
theorem test_filter :
    gives (exec (.filter p2Token) pending) (fun t =>
      t.vm.fq == [⟨3, 6, .delta, #v[2, 0, 0, 0, 0, 0, 0, 0], true⟩] && t.vm.store[0] == some .delta && t.st.events == 0) =
      true ∧
    gives (exec (.filter .zero) (inBlock 2 .lz [])) (fun t => t.vm.fq.isEmpty && t.st.events == 0x20) = true := by
  decide +kernel

/-- The window and the cache of program P6 after `CACHE0`: `LAST_LEN = 2`, distance 4. -/
def p6 (g : BitVec 3) : State :=
  let s := holding (inBlock g .lz []) [0x61, 0x62, 0x63, 0x64, 0x61, 0x62, 0x63, 0x64, 0x61, 0x62, 0x63]
  s.setTok { s.tok with cache := #v[4, 1, 7, 9], lastLen := 2, lastDist := 4 }

/-- Program P6: `REPEAT` gives `da`; under G3 it is reserved. -/
theorem test_repeat :
    gives (exec .repeatLast (p6 3)) (fun t => tail t 11 2 == [0x64, 0x61] && t.tok == (p6 3).tok) = true ∧
    gives (exec .repeatLast (p6 2)) (fun t => t.win.tw == 11 && t.st.events == 0x20) = true := by decide +kernel

/-- R207, V-SLOT1: `CACHE0` of `RD` slot 0 has length 2. -/
theorem test_cache0 :
    gives (exec (.cache0 0 0) (p6 3)) (fun t =>
      tail t 11 2 == [0x64, 0x61] && t.tok.cache == #v[4, 1, 7, 9] && t.tok.lastLen == 2) = true := by decide +kernel

/-- R207, program P6: slot 8 with extra bit 1 is length 11; entry 1 moves to the front. -/
theorem test_cache1 :
    gives (exec (.cache1 8 1) (p6 3)) (fun t =>
      tail t 11 11 == List.replicate 11 0x63 && t.tok.cache == #v[1, 4, 7, 9] && t.tok.lastDist == 1) = true := by
  decide +kernel

/-- R207. -/
theorem test_cache2 :
    gives (exec (.cache2 0 0) (p6 1)) (fun t => tail t 11 2 == [0x61, 0x62] && t.tok.cache == #v[7, 4, 1, 9]) = true := by
  decide +kernel

/-- R207; V-TOK3: reserved under G2. -/
theorem test_cache3 :
    gives (exec (.cache3 0 0) (p6 3)) (fun t => tail t 11 2 == [0x63, 0x64] && t.tok.cache == #v[9, 4, 1, 7]) = true ∧
    gives (exec (.cache3 0 0) (p6 1)) (fun t => t.win.tw == 11 && t.st.events == 0x20) = true := by decide +kernel

/-- R208 with V-SLOT1 and V-SLOT2: for each slot with its extra bits all one, the length; `DD` 6 with bits `01` is distance 10. -/
theorem test_match :
    ([(.match0 0 6 1, 3), (.match1 0 6 1, 4), (.match2 0 6 1, 5), (.match3 0 6 1, 6), (.match4 0 6 1, 7), (.match5 0 6 1, 8),
      (.match6 0 6 1, 9), (.match7 0 6 1, 10), (.match8 1 6 1, 12), (.match9 1 6 1, 14), (.match10 1 6 1, 16),
      (.match11 1 6 1, 18), (.match12 3 6 1, 22), (.match13 3 6 1, 26), (.match14 3 6 1, 30), (.match15 3 6 1, 34),
      (.match16 7 6 1, 42), (.match17 7 6 1, 50), (.match18 7 6 1, 58), (.match19 7 6 1, 66), (.match20 15 6 1, 82),
      (.match21 15 6 1, 98), (.match22 15 6 1, 114), (.match23 15 6 1, 130), (.match24 31 6 1, 162), (.match25 31 6 1, 194),
      (.match26 31 6 1, 226), (.match27 31 6 1, 258)] : List (Instr × Nat)).all
      (fun p => gives (exec p.1 (p6 3)) (fun t =>
        t.tok.lastLen.toNat == p.2 && t.tok.lastDist == 10 && t.tok.cacheAt 0 == 10)) = true := by decide +kernel

/-- Program P6: `MATCH 0` with distance 1 repeats the last byte, and the distance enters the cache. -/
theorem test_match_copies :
    gives (exec (.match0 0 0 0) (p6 3)) (fun t =>
      tail t 11 3 == [0x63, 0x63, 0x63] && t.win.tw == 14 && t.tok.cache == #v[1, 4, 1, 7]) = true := by decide +kernel

/-- V-AUD1, the second symbol: channel 1 gives `FE`, and channel 0 is next. -/
theorem test_audDelta :
    gives (exec (.audDelta 2) (twoChannels (inBlock 1 .aud []))) (fun t =>
      tail t 0 1 == [0xFE] && t.tok.alast == #v[0xFF, 0xFE, 0, 0] && t.tok.acur == 0) = true := by decide +kernel

/-- R233: the four ends of an audio block, as those of an LZ block. -/
theorem test_audEnds :
    let s := (pending.setFsm .aud).setTabs { pending.tabs with audioValid := true }
    gives (exec .audEnd00 s) (fun t => t.out.bytes == [1, 2, 3] && t.ses.fsm == .hdr) = true ∧
    gives (exec .audEnd01 s) (fun t => t.out.bytes == [1, 2, 3] && t.ses.fsm == .tables) = true ∧
    gives (exec .audEnd10 s) (fun t => t.st.kind == .success && t.tabs.audioValid) = true ∧
    gives (exec .audEnd11 s) (fun t => t.st.kind == .success && !t.tabs.audioValid) = true := by decide +kernel

/-- V-PPM3: `02 01` gives the byte 2, `02 02` ends the file. -/
theorem test_ppm_literals :
    gives (exec (.ppmLit 0x68) pending) (fun t => tail t 3 1 == [0x68]) = true ∧
    gives (exec .ppmLitesc pending) (fun t => tail t 3 1 == [0x02]) = true ∧
    gives (exec .ppmNewfile pending) (fun t => t.st.kind == .success && t.out.bytes == [1, 2, 3]) = true := by decide +kernel

/-- V-PPM3: `02 04 00 00 05 01` is `copyMatch(6, 4)`; the cache stays (R380). -/
theorem test_ppmMatch :
    gives (exec (.ppmMatch 0 0 5 1) (p6 3)) (fun t =>
      tail t 11 4 == [0x62, 0x63, 0x64, 0x61] && t.tok == (p6 3).tok) = true := by decide +kernel

/-- R379, R316: a filter token of a PPM block that reuses `STORE[0]`, here not valid: kind `NONE`. -/
theorem test_ppmFilter :
    gives (exec (.ppmFilter ⟨0x40, 5, 4, 1, [1], []⟩) pending) (fun t =>
      t.vm.fq == [⟨8, 4, .none, #v[1, 0, 0, 0, 0, 0, 0, 0], true⟩] && t.st.events == 0) = true := by decide +kernel

/-- R363: the corruption fallback. -/
theorem test_ppmReserved :
    gives (exec (.ppmReserved 5) (pending.setPpm { pending.ppm with alloc := true })) (fun t =>
      !t.ppm.alloc && t.ppm.disabled && t.st.events == 8 && t.ses.fsm == .hdr && t.out.bytes == [1, 2, 3]) = true := by
  decide +kernel

/-- R364: one byte; none beyond the target. -/
theorem test_ppmonlyByte :
    gives (exec (.ppmonlyByte 0x61) pending) (fun t => t.out.bytes == [0x61] && t.st.written == 1 && t.win.tw == 3) = true ∧
    gives (exec (.ppmonlyByte 0x61) (pending.setSes { pending.ses with targetL := 0 })) (fun t => t.out.bytes.isEmpty) =
      true := by decide +kernel

/-- The state in which the header of V-HDR1 has been read: `BITPOS = 24`. -/
def atHeader (g : BitVec 3) : State := after [.bcConsume 24] (inBlock g .idle []) |>.setFsm .hdr

/-- V-HDR1: `BLOCK_END = 305`, tables follow; V-HDR5: the wrong check byte. -/
theorem test_hdr :
    gives (exec (.hdr 0x80 0xFE [0x24]) (atHeader 3)) (fun t =>
      t.ses.blockEnd == 305 && t.ses.hTables && !t.ses.hAudio && t.ses.fsm == .tables) = true ∧
    gives (exec (.hdr 0x80 0xFF [0x24]) (atHeader 3)) (fun t =>
      t.st.kind == .failure && t.st.reason == .hdrChecksum && t.st.detail == .none && t.ses.fsm == .done) = true := by
  decide +kernel

/-- V-HDR4 `18 42`; V-EXC4: no tables. -/
theorem test_hdr_failures :
    gives (exec (.hdr 0x18 0x42 []) (atHeader 3)) (fun t => t.st.reason == .corrupt && t.st.detail == .badHeader) = true ∧
    gives (exec (.hdr 0x07 0x5F [0x02]) (atHeader 3)) (fun t => t.st.reason == .corrupt && t.st.detail == .noTables) = true := by
  decide +kernel

/-- Eight lengths to read, of which `k` are there. -/
def reading8 (k : Nat) : State :=
  (inBlock 3 .tables []).setTabs { State.reset.tabs with lenPos := k, lenTot := 8, lenbuf := Vector.replicate _ 7 }

/-- V-LEN1: `3`, then `F 2`, then `F 0`; V-LEN2: a run cut short. -/
theorem test_len :
    gives (exec (.lenV 3) (reading8 0)) (fun t => t.tabs.lenbuf.toList.take 2 == [3, 7] && t.tabs.lenPos == 1) = true ∧
    gives (exec (.lenZrun 2) (reading8 1)) (fun t =>
      t.tabs.lenbuf.toList.take 6 == [7, 0, 0, 0, 0, 7] && t.tabs.lenPos == 5) = true ∧
    gives (exec .len15 (reading8 5)) (fun t => (t.tabs.lenbuf.toList.drop 5).take 2 == [15, 7] && t.tabs.lenPos == 6) = true ∧
    gives (exec (.lenZrun 15) (reading8 3)) (fun t =>
      (t.tabs.lenbuf.toList.drop 2).take 7 == [7, 0, 0, 0, 0, 0, 7] && t.tabs.lenPos == 8) = true := by decide +kernel

/-- The lengths of program P1 (V-LEN3). -/
def p1Lens : List (BitVec 4) :=
  List.replicate 65 0 ++ List.replicate 4 3 ++ List.replicate 6 4 ++ List.replicate 181 0 ++ [4] ++ List.replicate 6 0 ++
    [4] ++ List.replicate 33 0 ++ [1] ++ List.replicate 69 0

/-- Program P1's tables: `LD` by R154 and V-HUF3, a fake `DD` of slot 6. -/
theorem test_tables :
    ((HuffTable.build ((p1Lens.take 291).map (·.setWidth 8)) 291).map fun t => (t.valid, t.scan 0xE123, t.fake)) =
      some (true, ⟨256, 4, false⟩, none) ∧
    ((HuffTable.build (((p1Lens.drop 291).take 48).map (·.setWidth 8)) 48).map fun t => t.fake) = some (some (6, 1)) := by
  decide +kernel

/-- V-HUF4: code words of 16 bits, found by the scan; V-HUF1 through the quick table. -/
theorem test_lookup :
    ((HuffTable.build ((List.range 15).map (fun i => BitVec.ofNat 8 (i + 1)) ++ [16, 16]) 17).map fun t =>
      (t.lookup 0xFFFE, t.lookup 0xFFFF, t.lookup 0xFFFD)) =
      some (⟨15, 16, false⟩, ⟨16, 16, false⟩, ⟨14, 15, false⟩) ∧
    ((HuffTable.build [1, 2, 2] 3).map fun t => (t.lookup 0x7FFF, t.lookup 0x8000, t.lookup 0xC000)) =
      some (⟨0, 1, false⟩, ⟨1, 2, false⟩, ⟨2, 2, false⟩) := by decide +kernel

/-- Program P3: `82 00`, then `65 38 92 fd`. -/
theorem test_ppmHdr :
    gives (exec (.ppmHdr 0x82 (some 0) none) (inBlock 3 .ppmhdr [0x65, 0x38, 0x92, 0xFD, 0x22])) (fun t =>
      t.ppm.order == 3 && t.sa.u == 87381 && t.rc.code == 0x653892FD#32 && t.ses.fsm == .ppm) = true ∧
    gives (exec (.ppmHdr 0 none none) (inBlock 3 .ppmhdr [])) (fun t =>
      t.ppm.disabled && t.st.events == 8 && t.ses.fsm == .hdr) = true := by decide +kernel

/-- R318: a length of 0 registers nothing and is noted. -/
theorem test_filterTok :
    gives (exec (.filterTok p2Token) pending) (fun t => t.vm.fq.length == 1) = true ∧
    gives (exec (.filterTok { p2Token with len := 0 }) pending) (fun t => t.vm.fq.isEmpty && t.st.events == 0x10) = true := by
  decide +kernel

/-- V-NONE1. -/
theorem test_fkNone : gives (exec .fkNone (loaded [1, 2] [(4, 2)])) (fun t => fmBytes t 2 == [1, 2]) = true := by decide +kernel

/-- V-E8-1. -/
theorem test_fkE8 :
    gives (exec .fkE8 (loaded [0x10, 0x11, 0xE8, 0x00, 0x10, 0, 0, 0x17, 0x18, 0x19, 0x1A, 0x1B, 0xE8, 0x1D, 0x1E, 0x1F]
      [(4, 16), (6, 0x100)])) (fun t => fmBytes t 16 ==
        [0x10, 0x11, 0xE8, 0xFD, 0x0E, 0, 0, 0x17, 0x18, 0x19, 0x1A, 0x1B, 0xE8, 0x1D, 0x1E, 0x1F]) = true := by decide +kernel

/-- V-E8-2. -/
theorem test_fkE8E9 :
    gives (exec .fkE8E9 (loaded [0xE8, 0xF0, 0xFF, 0xFF, 0xFF, 0xE9, 0x20, 0, 0, 0, 0, 0] [(4, 12), (6, 0x20)])) (fun t =>
      fmBytes t 12 == [0xE8, 0xF0, 0xFF, 0xFF, 0x00, 0xE9, 0xFA, 0xFF, 0xFF, 0xFF, 0, 0]) = true := by decide +kernel

/-- V-ITA1, its second bundle, whose index is 4, and six bytes more: R331 needs more than 21 bytes. -/
theorem test_fkItanium :
    gives (exec .fkItanium (loaded [0x16, 0, 0, 0x04, 0, 0x14, 0, 0x08, 0x08, 0, 0x28, 0, 0x20, 0x10, 0, 0x50, 0, 0, 0, 0, 0, 0]
      [(4, 22), (6, 0x40)])) (fun t => fmBytes t 16 ==
        [0x16, 0, 0xF0, 0x03, 0, 0x14, 0, 0xE8, 0x07, 0, 0x28, 0, 0xE0, 0x0F, 0, 0x50]) = true := by decide +kernel

/-- V-DELTA1, its last vector. -/
theorem test_fkDelta :
    gives (exec .fkDelta (loaded [0x02, 0x14, 0x03, 0x1E] [(0, 2), (4, 4)])) (fun t =>
      fmBytes t 4 == [0xFE, 0xFD, 0xEA, 0xDF]) = true := by decide +kernel

/-- V-RGB1. -/
theorem test_fkRgb :
    gives (exec .fkRgb (loaded ((List.range 18).map fun i => BitVec.ofNat 8 (i + 1)) [(0, 9), (4, 18)])) (fun t =>
      fmBytes t 18 == [0xF8, 0xF9, 0xEC, 0xEE, 0xF1, 0xD6, 0xE2, 0xE8, 0xBE, 0xD4, 0xDE, 0xA4, 0xC4, 0xD3, 0x88, 0xB2, 0xC7,
        0x6A]) = true := by decide +kernel

/-- V-AUDIOF1: the first 40 bytes, past the first coefficient update. -/
theorem test_fkAudio :
    gives (exec .fkAudio (loaded ((List.range 40).map fun i => BitVec.ofNat 8 (37 * i + 5)) [(0, 1), (4, 40)])) (fun t =>
      fmBytes t 40 == [251, 209, 130, 14, 117, 183, 212, 204, 159, 77, 214, 58, 121, 147, 136, 88, 3, 137, 234, 38, 61, 47, 252,
        164, 39, 133, 190, 210, 193, 139, 48, 176, 11, 92, 107, 78, 15, 172, 36, 151]) = true := by decide +kernel

/-! ### Witnesses: states and operands that meet the hypotheses of each obligation

A clause whose hypotheses exclude another's has a witness of its own; ranges are met at their ends. -/

/-- Idle, the window in use with the bytes 1, 2, 3 pending, the target far away. -/
def idleW : State :=
  let s := holding State.reset [1, 2, 3]
  s.setSes { s.ses with targetL := 1000 }

/-- The idle state with this port. -/
def withPort (l : List PortRead) : State := State.reset.setCur { State.reset.cur with port := l }

/-- With this action of the host to come. -/
def hostNext (d : Nat) (a : HostAction) (s : State) : State := s.setHost [⟨d, a⟩]

/-- Parameters of an idle CORE. -/
def withPar (f : Params → Params) (s : State) : State := s.setPar (f s.par)

/-- The port's answer to a refill exists, and the cursor it leaves has `p`. -/
def refilled (c : Cursor) (p : Cursor → Bool) : Bool :=
  match refill c with
  | .ok _ c1 => p c1
  | .error _ _ => false

/-- The cancel flag set. -/
def cancelling (s : State) : State := withPar (fun p => { p with cancel := true }) s

/-- The `RESET` that comes during a refill is the halt the refill answers. -/
def resetIn (c : Cursor) : Bool :=
  match refill c with
  | .error .reset _ => true
  | _ => false

/-- `ResetGivesPowerOnValues`: a `RESET` while a command's refill, the refill of a token boundary, a write is blocked; the port
has taken the bytes, or not. -/
theorem witness_portReset :
    (let s := withPort [.reset, .data [1]]
     s.isIdle = true ∧ s.cur.eos = false ∧ s.cur.top - s.cur.rd < 30 ∧ s.cur.port = PortRead.reset :: [.data [1]]) ∧
    [Fsm.lz, .aud, .ppm, .ppmonly].all (fun f =>
      let s := (inBlock 3 f []).setCur (withPort [.reset]).cur
      s.quiet && !s.par.cancel && resetIn s.cur && !s.targetReached && s.ses.fsm == f && decide (s.st.written < s.ses.targetL)) =
      true ∧
    [true, false].all (fun b =>
      let s := idleW.setOut ⟨[9], [.reset b, .ok]⟩
      s.out.answers == .reset b :: [.ok] && decide (s.st.written < s.ses.targetL) && s.vm.fq.isEmpty &&
      decide (s.win.tf < s.win.tw) && s.isIdle && s.win.w != 0) = true := by decide +kernel

/-- `CancelEndsTheSessionAtTheNextPoll`: in each state of the dispatcher, the host silent or not due. -/
theorem witness_cancel :
    [Fsm.hdr, .lz, .aud, .ppm, .ppmonly].all (fun f =>
      let s := cancelling (inBlock 3 f [])
      let t := hostNext 5 (.cmd 0) s
      s.quiet && s.par.cancel && s.ses.fsm == f && t.quiet && t.par.cancel && t.ses.fsm == f) = true := by decide +kernel

/-- A finished session of generation `g` with the window in use, `MODE.SOLID` set. -/
def finishedSession (g : BitVec 3) (w : Nat) : State :=
  let s := withPar (fun p => { p with version := g, solid := true }) idleW
  ((s.setSes { s.ses with fsm := .done, verL := g }).setSt { s.st with kind := .success }).setWin { s.win with w := w }

/-- `SolidStartKeepsAdaptiveState`, for the least and the greatest generation. -/
theorem witness_solidStart :
    [0, 3].all (fun g =>
      let s := finishedSession g 262144
      s.isIdle && decide (s.par.version.toNat ≤ 3) && s.par.solid && s.ses.verL == s.par.version && s.st.kind == .success &&
      s.win.w != 0) = true := by decide +kernel

/-- `FreshStartClearsTheDecoder`: `WINSIZE = 2^0` and `2^30`, not solid; and a solid start that finds no window. -/
theorem witness_freshStart :
    [0, 30].all (fun k =>
      let s := withPar (fun p => { p with winsize := BitVec.ofNat 32 (2 ^ k) }) State.reset
      s.isIdle && decide (s.par.version.toNat ≤ 3) && s.par.winsize.toNat == 2 ^ k && !s.par.solid) = true ∧
    (let s := finishedSession 3 0
     s.isIdle && s.par.winsize.toNat == 2 ^ 18 && s.par.solid && s.ses.verL == s.par.version && s.st.kind == .success &&
      s.win.w == 0) = true := by decide +kernel

/-- `PpmOnlyStartCreatesOrKeepsTheModel`: 1548 bytes; a kept model; 1547 bytes. -/
theorem witness_ppmOnlyStart :
    (let s := withPar (fun p => { p with version := 4, ppmMem := 1548 }) (withStream [1, 2, 3, 4])
     s.isIdle && s.par.version == 4 && s.cur.attach.ready && !s.par.solid && decide (1548 ≤ s.par.ppmMem.toNat)) = true ∧
    (let s := finishedSession 4 0
     let t := s.setPpm { s.ppm with alloc := true }
     t.isIdle && t.par.version == 4 && t.cur.attach.ready && t.par.solid && t.ses.verL == 4 && t.st.kind == .success &&
      t.ppm.alloc) = true ∧
    (let s := withPar (fun p => { p with version := 4, ppmMem := 1547 }) State.reset
     s.isIdle && s.par.version == 4 && !s.par.solid && decide (s.par.ppmMem.toNat < 1548)) = true := by decide +kernel

/-- `ReservedVersionRefusesStart`, for 5, 6, 7. -/
theorem witness_reservedVersion :
    [5, 6, 7].all (fun v => decide (5 ≤ (withPar (fun p => { p with version := v }) State.reset).par.version.toNat)) = true := by
  decide +kernel

/-- `IllegalWindowSizeIsRefused`: 0, no power of two, and `2^31`; `VERSION` legal, nothing solid. -/
theorem witness_illegalWindow :
    [0#32, 3#32, 0x80000000#32].all (fun w =>
      let s := withPar (fun p => { p with winsize := w }) State.reset
      decide (∀ k ≤ 30, s.par.winsize.toNat ≠ 2 ^ k) && decide (s.par.version.toNat ≤ 3) && !s.par.solid) = true := by
  decide +kernel

/-- `RefusedCommandsHaveNoEffect`, first clause: a busy CORE. -/
theorem witness_busyRefusal :
    slotOf g4 .bcAlign = .cmd ∧ Instr.bcAlign ∉ [Instr.nop, .reset, .cancel] ∧ (inBlock 3 .lz []).isIdle = false := by
  decide +kernel

/-- `RefusedCommandsHaveNoEffect`, second clause: each operand just beyond its range. -/
theorem witness_refusedOperands :
    32 < (33#32).toNat ∧ 1027 < (1028#32).toNat ∧ 255 < (256#32).toNat ∧ 6 < (7#32).toNat ∧ 291 < (292#32).toNat ∧
    48 < (49#32).toNat ∧ 28 < (29#32).toNat ∧ 257 < (258#32).toNat ∧ (State.reset.tabs.byId 6).valid = false ∧
    State.reset.win.w = 0 ∧ (idleW.setWin { idleW.win with tw := 262144 }).win.w < 262144 - 0 + 1 ∧
    idleW.win.w < idleW.win.tw - idleW.win.tf + (262142#32).toNat ∧ State.reset.ppm.alloc = false ∧
    (after [.ppmInit 2 1548] State.reset).ppm.alloc = true ∧ 128 < (129#32).toNat ∧ State.reset.sa.brk < 0 + (1#32).toNat ∧
    262144 ≤ (262144#32).toNat ∧ 262144 < (262145#32).toNat ∧ 7 < (8#32).toNat := by decide +kernel

/-- `RefusedCommandsHaveNoEffect`, third clause: no command, due while busy and when idle. -/
theorem witness_unknownCommand :
    ((0x550000000000000000#72).extractLsb' 64 8).toNat ∉ [0x00, 0x01, 0x02, 0x03, 0x10, 0x11, 0x12, 0x13, 0x14, 0x15, 0x20,
      0x21, 0x22, 0x30, 0x31, 0x32, 0x33, 0x34, 0x35, 0x40, 0x41, 0x42, 0x43, 0x44, 0x45, 0x50, 0x51, 0x52, 0x53, 0x54] ∧
    (hostNext 0 (.cmd 0x550000000000000000#72) (inBlock 3 .lz [])).host = [⟨0, .cmd 0x550000000000000000#72⟩] ∧
    (hostNext 9 (.cmd 0x550000000000000000#72) State.reset).isIdle = true := by decide +kernel

/-- `RefusedCommandsHaveNoEffect`, fourth clause: a failing port, and a table without a lone symbol. -/
theorem witness_portError :
    let s := withPort [.error]
    let t := s.setTabs { s.tabs with ld := (HuffTable.build [1, 1] 2).getD .invalid }
    t.isIdle = true ∧ (match refill t.cur with | .error _ c => c.bitpos == 0 | .ok _ _ => false) = true ∧
    (t.tabs.byId 0).valid = true ∧ (t.tabs.byId 0).fake = none := by decide +kernel

/-- `CursorCommandsMoveBitpos`, `PeekGivesTheNextBitsOfTheStream`: idle, the port without error; 0 and 32 bits. -/
theorem witness_cursor :
    let s := withPort [.data [0x12], .data [0x34, 0x56, 0x78, 0x9A]]
    s.isIdle = true ∧ s.cur.ready = true ∧ (0#32).toNat ≤ 32 ∧ (32#32).toNat ≤ 32 := by decide +kernel

/-- `CursorCommandsMoveBitpos`: all the bits that are buffered, and one byte more; an `align` inside the last byte and past it. -/
theorem witness_consumeBuffered :
    let s := State.reset.setCur { State.reset.cur with buf := [1, 2, 3, 4] }
    s.isIdle = true ∧ s.cur.rd ≤ s.cur.top ∧ s.cur.rd + (s.cur.bit.val + (32#32).toNat) / 8 ≤ s.cur.top ∧
    (let s := State.reset.setCur { State.reset.cur with buf := [1, 2, 3] }
     s.isIdle = true ∧ s.cur.eos = false ∧ ¬s.cur.rd + (s.cur.bit.val + (32#32).toNat) / 8 ≤ s.cur.top) ∧
    (let s := State.reset.setCur { State.reset.cur with buf := [1], bit := 3 }
     s.isIdle = true ∧ s.cur.rd < s.cur.top) ∧
    (let s := State.reset.setCur { State.reset.cur with bit := 3 }
     s.isIdle = true ∧ s.cur.rd ≤ s.cur.top ∧ ¬s.cur.rd < s.cur.top) := by decide +kernel

/-- A cursor of one byte at bit `n` of its stream, the end seen. -/
def cursorAt (n : Nat) : Cursor := { State.reset.cur with buf := [0x80], eos := true, streamLen := 1, rd := n / 8, bit := Fin.ofNat 8 n }

/-- A cursor with so little in its buffer is sound. -/
theorem cursorAt_sound (n : Nat) : (cursorAt n).Sound :=
  ⟨show 1 ≤ Config.inbufSize by decide +kernel, fun h => (nomatch h), fun h => (nomatch h), fun _ => rfl⟩

/-- `ExhaustedTellsTheEndOfTheStream`: a bit left, none, beyond. -/
theorem witness_exhausted :
    [(7, 1, false), (8, 0, false), (9, 0, true)].all (fun p =>
      let s := State.reset.setCur (cursorAt p.1)
      s.isIdle && s.cur.ready && s.cur.bitsLeft == p.2.1 && s.cur.beyond == p.2.2) = true := by decide +kernel

/-- The idle state with these lengths staged. -/
def staged (lens : List Byte) : State :=
  State.reset.setTabs { State.reset.tabs with
    lenbuf := lens.zipIdx.foldl (fun v p => v.setIfInBounds p.2 p.1) State.reset.tabs.lenbuf }

/-- `StagedLengthsBuildATable`: each table with 1 and all its symbols; rejected lengths and accepted ones. -/
theorem witness_staged :
    [(0, 291), (1, 48), (2, 28), (3, 257), (6, 257)].all (fun p =>
      decide (p.1 ≤ 6) && decide (1 ≤ p.2) && decide (p.2 ≤ [291, 48, 28, 257, 257, 257, 257].getD p.1 0)) = true ∧
    (staged [17, 1]).tabs.lenbuf.toList.take 2 = [17, 1] ∧ kraft [17, 1] ≠ 65536 ∧ 16 < (17 : Byte).toNat ∧
    kraft [1, 2, 2] = 65536 := by decide +kernel

/-- The idle state with this stream and table `RD` built from these lengths. -/
def withTable (lens : List Byte) (bytes : List Byte) : State :=
  let s := withStream bytes
  s.setTabs { s.tabs with rd := (HuffTable.build lens lens.length).getD .invalid }

/-- `HufDecodeReadsOneSymbol`: a complete code, a lone symbol, and a code with room above. -/
theorem witness_hufDecode :
    [([1, 2, 2], false), ([0, 3, 0], true), ([2, 2], false)].all (fun p =>
      let s := withTable p.1 [0xFF]
      s.isIdle && s.cur.ready && (s.tabs.byId (2#32).toNat).valid && (s.tabs.byId (2#32).toNat).fake.isSome == p.2 &&
      (HuffTable.build p.1 p.1.length).isSome) = true := by decide +kernel

/-- A table accepted is the table a state holds. -/
theorem withTable_built (lens bytes : List Byte) (h : (HuffTable.build lens lens.length).isSome = true) :
    HuffTable.build lens lens.length = some ((withTable lens bytes).tabs.byId (2#32).toNat) := by
  obtain ⟨t, ht⟩ := Option.isSome_iff_exists.mp h
  show _ = some ((HuffTable.build lens lens.length).getD .invalid)
  rw [ht]; rfl

/-- `QuickTableAgreesWithTheScan`, `CanonicalCodeWordsDecode`: V-HUF1 at its last probe; V-HUF4's longest code. -/
theorem witness_codes :
    (HuffTable.build [1, 2, 2] 3).isSome = true ∧ kraft [1, 2, 2] ≤ 65536 ∧ 65535 / 2 ^ (16 - 2) = codeWord [1, 2, 2] 2 ∧
    (let l : List Byte := (List.range 15).map (fun i => BitVec.ofNat 8 (i + 1)) ++ [16, 16]
     (HuffTable.build l 17).isSome = true ∧ kraft l ≤ 65536 ∧ l.getD 16 0 = 16 ∧ 65535 / 2 ^ (16 - 16) = codeWord l 16) := by
  decide +kernel

/-- `AdaptationKeepsTheOrderSorted`: a count that rises past another, and one at 255. -/
theorem witness_adapt :
    let a : Adaptive := ⟨[1, 0, 2], [0, 255, 0]⟩
    a.order.Perm (List.range 3) ∧ a.freq.length = 3 ∧ a.sorted = true ∧ 2 < 3 ∧ (a.freq.getD (a.order.getD 0 0) 0).toNat = 255 ∧
    (a.freq.getD (a.order.getD 2 0) 0).toNat < 255 := by decide +kernel

/-- `WindowInitReadStat`, `WinPutWritesOneByte`, `WinCopyWritesLengthBytes`: an empty window and one with room for one byte. -/
theorem witness_window :
    (withPar (fun p => { p with winsize := 0x40000000#32 }) State.reset).par.winsize.toNat = 2 ^ 30 ∧
    (withPar (fun p => { p with winsize := 1#32 }) State.reset).par.winsize.toNat = 2 ^ 0 ∧ idleW.isIdle = true ∧
    Memory.wf idleW.win.mem = true ∧ idleW.win.w ≠ 0 ∧ idleW.win.tw - idleW.win.tf + 1 ≤ idleW.win.w ∧
    (let s := idleW.setWin { idleW.win with tw := 262143 }
     Memory.wf s.win.mem = true ∧ s.win.tw - s.win.tf + 1 = s.win.w) ∧
    idleW.win.tw - idleW.win.tf + (262141#32).toNat = idleW.win.w := by decide +kernel

/-- A window of four bytes with these written. -/
def smallWindow (bytes : List Byte) : Window := bytes.foldl Window.put { State.reset.win with w := 4 }

/-- It is sound, before its first pass and after. -/
theorem smallWindow_sound : (smallWindow [1, 2]).Sound ∧ (smallWindow [1, 2, 3, 4, 5]).Sound :=
  ⟨⟨by decide +kernel, fun _ => by decide +kernel, by decide +kernel, fun _ => by decide +kernel, by decide +kernel⟩,
   ⟨by decide +kernel, fun _ => by decide +kernel, by decide +kernel, fun _ => by decide +kernel, by decide +kernel⟩⟩

/-- `CopyRepeatsTheLastBytes`: both passes, the whole window's length. -/
theorem witness_copy :
    (smallWindow [1, 2]).first = false ∧ (smallWindow [1, 2, 3, 4, 5]).first = true ∧ (smallWindow [1, 2]).w ≠ 0 ∧
    4 ≤ (smallWindow [1, 2]).w := by decide +kernel

/-- `WinFlushWritesThePendingBytes`: a port that accepts, one that fails. -/
theorem witness_winFlush :
    idleW.isIdle = true ∧ idleW.win.w ≠ 0 ∧ idleW.vm.fq = [] ∧ idleW.out.answers = [] ∧
    (idleW.setOut ⟨[], [.error]⟩).out.answers = PortWrite.error :: [] ∧
    (idleW.win.range idleW.win.tf (idleW.win.tw - idleW.win.tf)).take (idleW.ses.targetL - idleW.st.written) ≠ [] := by
  decide +kernel

/-- A fresh model of order 2 in so many units, the coder at `code`. -/
def freshIn (units : Nat) (code : Word) : State :=
  let r := ppmCreate State.reset.ppm State.reset.sa 2 units
  (((withStream [1, 2, 3]).setPpm r.1).setSa r.2).setRc ⟨0, code, 0xFFFFFFFF#32⟩

/-- In the fewest units. -/
abbrev freshModel (code : Word) : State := freshIn 129 code

/-- `PpmDecodeGivesAByteOrASentinel`, `FreshModelDecodesByTheRootCounts`: the last byte, the escapes, no symbol. -/
theorem witness_fresh :
    [(0#32, 0), (4164816639#32, 255), (4164816640#32, 256), (4294967159#32, 263), (4294967160#32, 264)].all (fun p =>
      let s := freshModel p.1
      s.isIdle && s.ppm.alloc && s.cur.ready && decide (2 ^ 16 ≤ s.rc.range.toNat) &&
      (s.rc.code - s.rc.low).toNat / (s.rc.range.toNat / 264) == p.2) = true := by decide +kernel

/-- The model of `freshModel` is the one `ppm_create` makes. -/
theorem freshModel_created (code : Word) :
    (freshModel code).ppm = (ppmCreate State.reset.ppm State.reset.sa 2 129).1 ∧
    (freshModel code).sa = (ppmCreate State.reset.ppm State.reset.sa 2 129).2 := ⟨rfl, rfl⟩

/-- `RefusedCommandsHaveNoEffect`, last clause: the port fails at the first byte of `RC.INIT`, and in the renormalisation after
the first byte of a fresh model. -/
theorem witness_portErrorInside :
    (let s := withPort [.error]
     s.isIdle = true ∧
      (match rcInit { s.world with cur := s.cur.align } with | .error (.fatal _) _ => true | _ => false) = true) ∧
    (let s := (freshModel 0).setCur (withPort [.error]).cur
     s.isIdle = true ∧ s.ppm.alloc = true ∧
      (match ppmDecode s.world with | .error (.fatal _) _ => true | _ => false) = true) := by decide +kernel

/-- The state of `freshModel` with these contexts and entry blocks. -/
def withBlocks (l : List (Nat × Block)) : PpmModel := { State.reset.ppm with arena := l }

/-- `PpmDecodeGivesAByteOrASentinel`, the frequency update: a count below 255, and one at 255. -/
theorem witness_bump :
    [1, 255].all (fun f =>
      let m := withBlocks [(3, .ctx 1 f (some 6) none), (6, .stats [⟨7, f.setWidth 8, none⟩])]
      m.context 3 == some (1, f, some 6, none) && m.entries (some 6) == some [⟨7, f.setWidth 8, none⟩] &&
      Sparse.rising m.arena) = true := by decide +kernel

/-- Books of `u` units, `brk` of them used, none free below. -/
def unitBooks (u brk : Nat) : SubAlloc := { State.reset.sa with u := u, brk := brk }

/-- `PpmDecodeGivesAByteOrASentinel`, a new entry: in a block with room; no block yet; a full block, the memory too little, and
enough. -/
theorem witness_append :
    [(1, [7], some 6), (0, [], none), (2, [7, 8], some 6)].all (fun (p : BitVec 16 × List Byte × Option Nat) =>
      let es := p.2.1.map fun x => ⟨x, 1, none⟩
      let m := withBlocks [(3, .ctx p.1 p.1 p.2.2 none), (6, .stats es)]
      m.context 3 == some (p.1, p.1, p.2.2, none) && m.entries p.2.2 == some es && decide (p.2.2 = none ↔ p.1 = 0) &&
      p.2.2 != some 3 && Sparse.rising m.arena) = true ∧
    ((unitBooks 5 0).alloc 1).1 = some 0 ∧ ((unitBooks 0 0).alloc 2).1 = none ∧ ((unitBooks 9 7).alloc 2).1 = some 7 := by
  decide +kernel

/-- `FreshModelDecodesByTheRootCounts`: after the first byte the port is still without error; the second byte repeats it, differs,
or is none. -/
theorem witness_secondByte :
    [0, 1, 256, 257, 263, 264].all (fun k2 =>
      gives (exec .ppmDecode (freshIn 133 0)) (fun t =>
        let u := t.setRc { t.rc with code := t.rc.low + BitVec.ofNat 32 (k2 * (t.rc.range.toNat / 264)) }
        u.cur.ready && (u.rc.code - u.rc.low).toNat / (u.rc.range.toNat / 264) == k2)) = true := by decide +kernel

/-- `PpmInitCreatesAFreshModel`: just enough memory, and just too little. -/
theorem witness_ppmInit : 129 ≤ (1548#32).toNat / 12 ∧ ¬129 ≤ (1547#32).toNat / 12 := by decide +kernel

/-- `AllocatorCommands`: no model, blocks of 1 and of 128 units to allocate and to free. -/
theorem witness_allocator :
    (0xFFFFFFFE#32).toNat ≤ 4294967294 ∧ State.reset.ppm.alloc = false ∧ 1 ≤ (1#32).toNat ∧ (128#32).toNat ≤ 128 ∧
    (let s := after [.saInit 128, .saAlloc 128] State.reset
     s.isIdle = true ∧ s.ppm.alloc = false ∧ (0#32).toNat + (128#32).toNat ≤ s.sa.brk ∧
      (127#32).toNat + (1#32).toNat ≤ s.sa.brk) := by decide +kernel

/-- The books after these commands. -/
def books (l : List Instr) : SubAlloc := (after l State.reset).sa

/-- `AllocatorCommands`, the policy: the exact bucket; never-used space, just enough; a larger block; a coalescing that helps, and
one that does not. -/
theorem witness_policy :
    (books [.saInit 9, .saAlloc 3, .saFree 0 3]).bucket 3 = 0 :: [] ∧
    ((books [.saInit 3]).bucket 3 = [] ∧ (books [.saInit 3]).brk + 3 ≤ (books [.saInit 3]).u) ∧
    (let a := books [.saInit 5, .saAlloc 5, .saFree 0 5]
     a.u < a.brk + 2 ∧ a.bucket 5 = 0 :: [] ∧ ∀ m < 5, 2 ≤ m → a.bucket m = []) ∧
    (let a := books [.saInit 4, .saAlloc 2, .saAlloc 2, .saFree 0 2, .saFree 2 2]
     (a.u < a.brk + 4 ∧ ∀ m ≤ 128, 4 ≤ m → a.bucket m = []) ∧ ¬a.coalesce.u < a.coalesce.brk + 4) ∧
    (let a := books [.saInit 2]
     (a.u < a.brk + 3 ∧ ∀ m ≤ 128, 3 ≤ m → a.bucket m = []) ∧
      a.coalesce.u < a.coalesce.brk + 3 ∧ ∀ m ≤ 128, 3 ≤ m → a.coalesce.bucket m = []) := by decide +kernel

/-- Ten units with blocks of 2 and 5 held and 3 given back. -/
def someUnits : SubAlloc := (after [.saInit 10, .saAlloc 2, .saAlloc 3, .saAlloc 5, .saFree 2 3] State.reset).sa

/-- `AllocatorBlocksStayDisjoint`: the books with those blocks live. -/
theorem witness_accounts : someUnits.Accounts [(0, 2), (5, 5)] where
  sizes := by decide +kernel
  below := by decide +kernel
  disjoint := by
    show List.Pairwise (fun x y : Nat × Nat => x.1 + x.2 ≤ y.1 ∨ y.1 + y.2 ≤ x.1) _
    decide +kernel
  total := by decide +kernel
  budget := by decide +kernel

/-- `AllocatorBlocksStayDisjoint`: a request that succeeds, one that fails. -/
theorem witness_requests : (someUnits.alloc 1).1 = some 2 ∧ (someUnits.alloc 4).1 = none := by decide +kernel

/-- `RcInitReadsFourBytesBigEndian`. -/
theorem witness_rcInit : (withStream [1, 2, 3, 4]).isIdle = true ∧ (withStream [1, 2, 3, 4]).cur.ready = true := by decide +kernel

/-- `CoderRangeStaysLarge`: the least range, the greatest total, the last symbol; and its update succeeds. -/
theorem witness_coder :
    let w : PpmWorld := ⟨(withStream [1, 2, 3, 4, 5]).cur, ⟨0, 0, 65536#32⟩, State.reset.ppm, State.reset.sa, false⟩
    2 ^ 16 ≤ w.rc.range.toNat ∧ 1 ≤ 1 ∧ 65534 + 1 ≤ 65535 ∧ 65535 < 2 ^ 16 ∧
    (match rcUpdate 65534 1 { w with rc := (w.rc.count 65535).2 } with | .ok _ _ => true | .error _ _ => false) = true := by
  decide +kernel

/-- `FilterVmCommands`: the ends of the ranges; a program with a bad byte, a known one, an unknown one, none. -/
theorem witness_filterVm :
    State.reset.isIdle = true ∧ Sparse.rising State.reset.vm.fm = true ∧ (262143#32).toNat < 262144 ∧
    (262144#32).toNat ≤ 262144 ∧ State.reset.vm.prefixBytes (0#32).toNat = [] ∧
    [([0x6D, 0x58, 0x41, 0x2D, 0x44, 0x45, 0x4C, 0x54, 0x41], true, true), ([0x6C, 0x58, 0x41, 0x2D, 0x44, 0x45, 0x4C, 0x54, 0x41], false, true),
     ([0x6F, 0x58, 0x41, 0x2D, 0x44, 0x45, 0x4C, 0x54, 0x42], false, false)].all (fun p =>
      let s := loaded p.1 []
      let prog := s.vm.prefixBytes (9#32).toNat
      prog == p.1 && (prog.headD 0 != prog.tail.foldl (· ^^^ ·) 0) == p.2.1 &&
      (s.catalogue.find? (fun e => e.bodyLen == prog.tail.length && e.crc == crc32 prog.tail)).isSome == p.2.2) = true := by
  decide +kernel

/-- `FilterKindsTransformFilterMemory`: blocks of 1 and of 262144 bytes. -/
theorem witness_filterKinds :
    [1#32, 262144#32].all (fun n =>
      let s := loaded [] [(4, n)]
      s.isIdle && regAt s.vm.regs 4 == n && decide (1 ≤ n.toNat) && decide (n.toNat ≤ 262144)) = true := by decide +kernel

/-- Registers with this value everywhere. -/
abbrev regsOf (v : Word) : Vector Word 8 := Vector.replicate 8 v

/-- `TransformsKeepTheLength`: a block too long, and registers out of range. -/
theorem witness_transforms :
    131072 < (List.replicate 131073 (0 : Byte)).length ∧ regAt (regsOf 0) 0 = 0 ∧ 1024 < (regAt (regsOf 1025) 0).toNat ∧
    128 < (regAt (regsOf 129) 0).toNat ∧ ([1, 2] : List Byte).length < 3 ∧
    ([1, 2, 3] : List Byte).length < (regAt (regsOf 7) 0 - 3).toNat ∧ 2 < (regAt (regsOf 3) 1).toNat :=
  ⟨by rw [List.length_replicate]; decide, by decide +kernel, by decide +kernel, by decide +kernel, by decide +kernel,
   by decide +kernel, by decide +kernel⟩

/-- `DeltaSubtractsAlongEachChannel`: the first and the last byte of the last channel; `RGB` with the longest line and the last
first component, and on the shortest block; `AUDIO` with one channel and with 128. -/
theorem witness_delta :
    (let n := ([1, 10, 2, 20, 3, 30] : List Byte).length
     1 + 2 * 0 < n ∧ 1 + 2 * 2 < n ∧ 1023 < 1024 ∧ 3 ≤ n ∧ n ≤ 131072 ∧ (regAt (regsOf 9) 0 - 3).toNat ≤ n ∧
      (regAt (regsOf 2) 1).toNat ≤ 2 ∧ (regAt (regsOf 2) 0 - 3).toNat > n) ∧
    (3 ≤ ([1, 2, 3] : List Byte).length ∧ (regAt (regsOf 0) 1).toNat ≤ 2) ∧ 0 + 1 * 33 < (List.replicate 40 (0 : Byte)).length ∧
    127 + 128 * 0 < (List.replicate 128 (0 : Byte)).length := by decide +kernel

/-- `RelocationUndoesTheEncoder`: both kinds of field at their ends; no opcode; a block too short. -/
theorem witness_relocation :
    ((0xFFFFFE#32) + 1).toNat < 2 ^ 24 ∧
    (let r := 0x00FFFFF0#32
     2 ^ 31 ≤ (r - Config.relocSpan).toNat ∧ (r - Config.relocSpan + 0x21#32).toNat < 2 ^ 31) ∧
    (∀ x ∈ ([0, 1, 2, 3, 4, 5, 0xE8, 7, 8] : List Byte).take (9 - 4), x ∉ ([0xE8] : List Byte)) ∧
    ([0xE8, 1, 2, 3] : List Byte).length < 5 := by decide +kernel

/-- `RelocationUndoesTheEncoder`: the first opcode after a byte that is none; a bundle that the block is just long enough for. -/
theorem witness_opcode :
    (∀ x ∈ ([0xE9] : List Byte), x ∉ ([0xE8] : List Byte)) ∧ (0xE8 : Byte) ∈ ([0xE8] : List Byte) ∧
    2 ^ 31 ≤ ((0xFF : Byte) ++ (0xFF : Byte) ++ (0xFF : Byte) ++ (0xF0 : Byte) : Word).toNat ∧
    16 * 0 + 21 < (List.replicate 22 (0 : Byte)).length ∧ ¬16 * 0 + 21 < (List.replicate 21 (0 : Byte)).length := by decide +kernel

/-- `LiteralTokensPutOneByte`: a canonical window, one channel and four. -/
theorem witness_literals :
    Memory.wf (holding (inBlock 3 .lz []) [1, 2]).win.mem = true ∧ 1 ≤ State.reset.tok.audioCh ∧
    (State.reset.setTok { State.reset.tok with audioCh := 4 }).tok.audioCh ≤ 4 := by decide +kernel

/-- `MatchTokensCopyAndRemember`: the first slot and the last, all extra bits set, in every generation. -/
theorem witness_match :
    Instr.matchSlot 0 0 0 0 = some (.match0 0 0 0) ∧ Instr.matchSlot 27 31 47 (2 ^ 22 - 1) = some (.match27 31 47 (2 ^ 22 - 1)) ∧
    0 < 2 ^ Config.lbits 0 ∧ 31 < 2 ^ Config.lbits 27 ∧ 2 ^ 22 - 1 < 2 ^ Config.dbits 47 ∧
    [0, 1, 2, 3].all (fun g => decide ((inBlock g .lz []).ses.verL.toNat ≤ 3)) = true := by decide +kernel

/-- `CacheTokensMoveToFront`: the last entry of G4 and of G1, the least and the greatest length. -/
theorem witness_cache :
    Instr.cacheSlot 3 27 31 = some (.cache3 27 31) ∧ 31 < 2 ^ Config.lbits 27 ∧ Instr.cacheSlot 2 0 0 = some (.cache2 0 0) ∧
    3 < [3, 3, 4, 4].getD (inBlock 3 .lz []).ses.verL.toNat 0 ∧ 2 < [3, 3, 4, 4].getD (inBlock 0 .lz []).ses.verL.toNat 0 := by
  decide +kernel

/-- `RepeatCopiesTheLastMatchAgain`: after a match, without one, and under G3. -/
theorem witness_repeat :
    (p6 3).ses.verL = 3 ∧ (p6 3).tok.lastLen ≠ 0 ∧ (inBlock 3 .lz []).ses.verL = 3 ∧ (inBlock 3 .lz []).tok.lastLen = 0 ∧
    (p6 2).ses.verL.toNat < 3 := by decide +kernel

/-- `ReservedSymbolsOnlyNoteTheEvent`: G3 and G2. -/
theorem witness_reserved :
    (inBlock 2 .lz []).ses.verL.toNat < 3 ∧ (inBlock 1 .lz []).ses.verL.toNat < 2 ∧ (2#3).toNat < 3 ∧ (1#3).toNat < 2 := by
  decide +kernel

/-- `FilterTokensRegisterADescriptor`: G4; a token with a program and registers; lengths 0, 1, 262144 and 262145. -/
theorem witness_filterTokens :
    pending.ses.verL = 3 ∧ 128 ≤ p2Token.f0.toNat ∧ p2Token.mask.getLsbD 0 = true ∧ (262144#24).toNat = 262144 ∧
    262144 < (262145#24).toNat ∧ pending.vm.fq.length < 1024 := by decide +kernel

/-- `EndOfBlockTokensFlush`, `EndOfFileTokensSucceed`: G1 and another; a port that accepts and one that fails. -/
theorem witness_ends :
    pending.out.answers = [] ∧ (inBlock 0 .lz []).ses.verL = 0 ∧ pending.ses.verL ≠ 0 ∧
    (pending.setOut ⟨[], [.error, .ok]⟩).out.answers = PortWrite.error :: [PortWrite.ok] ∧ pending.vm.fq = [] ∧
    pending.win.tf < pending.win.tw ∧ pending.st.written < pending.ses.targetL := by decide +kernel

/-- In a PPM block with this model. -/
def ppmBlock (m : State) : State := (((inBlock 3 .ppm [1, 2, 3]).setPpm m.ppm).setSa m.sa).setRc m.rc

/-- How reading a token of slot `sl` ends, after the checks and the flush. -/
def tokenEnd (sl : Slot) (s : State) : Option Abort :=
  match refill s.cur with
  | .ok _ c =>
    match maybeFlush { s.tick with cur := c } with
    | .ok _ u =>
      match fetchParse noEffectYet sl.grammar [] u with
      | .ok _ _ => none
      | .error e _ => some e
    | .error _ _ => none
  | .error _ _ => none

/-- A model with one context, of order 2, whose arena gives no unit, and its coder: the next byte needs one. -/
def starved : State :=
  let s := freshIn 129 0
  s.setSa { s.sa with u := 100 }

/-- `EndOfBlockTokensFlush`: the token ends in each of the three sentinels; the token before it is not begun. -/
theorem witness_sentinels :
    [(freshModel 4164816640#32, Abort.endSegment), (freshModel 4294967160#32, .corrupt), (starved, .nomem)].all (fun p =>
      let s := ppmBlock p.1
      s.quiet && !s.par.cancel && !s.targetReached && s.ses.fsm == .ppm && refilled s.cur (fun c => !c.pastEnd) &&
      tokenEnd (.ppm s.ppm.esc) s == some p.2 && s.out.answers.isEmpty) = true := by decide +kernel

/-- `PpmOnlyByteIsWritten`: each of the four results. -/
theorem witness_ppmOnlyResults :
    [(freshModel 0, PpmResult.byte 0), (freshModel 4164816640#32, .endSegment), (freshModel 4294967160#32, .corrupt),
      (starved, .nomem)].all (fun p =>
      let s := (ppmBlock p.1).setFsm .ppmonly
      s.quiet && !s.par.cancel && decide (s.st.written < s.ses.targetL) &&
      (match refill s.cur with
       | .ok _ c => !c.pastEnd && (match onPpm ppmDecode { s.tick with cur := c } with
         | .ok r _ => r == p.2
         | .error _ _ => false)
       | .error _ _ => false)) = true := by decide +kernel

/-- `PpmOnlyByteIsWritten`: at the target and before it. -/
theorem witness_ppmOnlyByte :
    (pending.setSes { pending.ses with targetL := 0 }).ses.targetL ≤ pending.st.written ∧
    pending.st.written < pending.ses.targetL ∧ pending.out.answers.head? ∈ [none, some PortWrite.ok] ∧
    (pending.setOut ⟨[], [.ok, .error]⟩).out.answers.head? ∈ [none, some PortWrite.ok] := by decide +kernel

/-- `HeaderStartsABlock`: the reserved size; a wrong check byte; good headers of each kind. -/
theorem witness_header :
    ((0x18 : Byte).toNat / 8) % 4 = 3 ∧ ((0x80 : Byte).toNat / 8) % 4 = 0 ∧
    ([0x24] : List Byte).foldl (· ^^^ ·) (0x5A ^^^ 0x80) = 0xFE ∧ ([0x24] : List Byte).foldl (· ^^^ ·) (0x5A ^^^ 0x80) ≠ 0xFF ∧
    64 ≤ (0xC1 : Byte).toNat % 128 ∧ 32 ≤ (0x27 : Byte).toNat % 64 ∧ (inBlock 3 .hdr []).ppm.disabled = false ∧
    128 ≤ (0x80 : Byte).toNat ∧ ¬128 ≤ (0x07 : Byte).toNat ∧ (inBlock 3 .hdr []).tabs.tablesValid = false ∧
    ((inBlock 3 .hdr []).setTabs { State.reset.tabs with tablesValid := true }).tabs.tablesValid = true := by decide +kernel

/-- `LengthEntriesFillTheStage`: at the start and at the end of the longest set. -/
theorem witness_lengths :
    (reading8 0).tabs.lenPos < (reading8 0).tabs.lenTot ∧
    (let s := (reading8 0).setTabs { (reading8 0).tabs with lenPos := 1027, lenTot := 1028 }
     s.tabs.lenPos < s.tabs.lenTot ∧ s.tabs.lenTot ≤ 1028) := by decide +kernel

/-- `TableSetsBuildTheTables`: an LZ set, and audio sets of one and of four channels. -/
theorem witness_tableSets :
    p1Lens.length = 367 ∧ (List.replicate 257 (0 : BitVec 4)).length = 257 * ((0#2).toNat + 1) ∧
    (List.replicate 1028 (0 : BitVec 4)).length = 257 * ((3#2).toNat + 1) :=
  ⟨by decide +kernel, by rw [List.length_replicate]; decide, by rw [List.length_replicate]; decide⟩

/-- `PpmSubHeaderOpensTheBlock`: with a reset; without one on a kept model; without one and no model. -/
theorem witness_ppmHdr :
    Instr.wf ⟨3, 2⟩ (.ppmHdr 0x82 (some 0) none) = true ∧ 128 ≤ (0x82 : Byte).toNat ∧ (inBlock 3 .ppmhdr []).cur.ready = true ∧
    (inBlock 3 .ppmhdr []).ppm.esc = 2 ∧ Instr.wf ⟨3, 2⟩ (.ppmHdr 0x41 none (some 9)) = true ∧ ¬128 ≤ (0x41 : Byte).toNat ∧
    (freshModel 0).ppm.alloc = true ∧ (freshModel 0).cur.ready = true ∧ (freshModel 0).ppm.esc = 2 ∧
    (inBlock 3 .ppmhdr []).ppm.alloc = false ∧ (inBlock 3 .ppmhdr []).out.answers = [] := by decide +kernel

/-- `FlushLeavesNothingReadyPending`, `CompleteFilterBlockIsTransformed`: a block of one byte, the last pending one. -/
theorem witness_flush :
    let f : FilterDesc := ⟨2, 1, .delta, Vector.replicate 8 1, true⟩
    let s := pending.setFq [f]
    s.out.answers = [] ∧ s.win.tf ≤ s.win.tw ∧ s.vm.fq = [f] ∧ s.win.tf ≤ f.start ∧ f.start + f.len = s.win.tw ∧ 1 ≤ f.len ∧
    s.st.written + (s.win.tw - s.win.tf) ≤ s.ses.targetL := by decide +kernel

/-- A window of 258 bytes, one byte pending, these filters waiting. -/
def fullWindow (q : List FilterDesc) : State :=
  (pending.setWin { Window.fresh 258 with tw := 1, pos := 1, mem := [(0, 9)] }).setFq q

/-- `FlushLeavesNothingReadyPending`, `maybe_flush`: nothing to do; a flush is enough; a block that is not complete holds the byte
back. -/
theorem witness_maybeFlush :
    (pending.out.answers = [] ∧ pending.win.tf ≤ pending.win.tw ∧ 258 ≤ pending.win.w ∧
      pending.win.tw - pending.win.tf ≤ pending.win.w - 258) ∧
    [([], true), ([⟨0, 2, .none, regsOf 0, false⟩], false)].all (fun p =>
      let s := fullWindow p.1
      s.out.answers.isEmpty && decide (s.win.tf ≤ s.win.tw) && decide (258 ≤ s.win.w) &&
      decide (s.win.w - 258 < s.win.tw - s.win.tf) &&
      (match doFlush false s with
       | .ok _ u => decide (u.win.tw - u.win.tf ≤ u.win.w - 258) == p.2
       | .error _ _ => false)) = true := by decide +kernel

/-- `CompleteFilterBlockIsTransformed`: two stacked filters, the target inside their block; a stale filter; a block not begun, and
one begun and not complete. -/
theorem witness_filterBlocks :
    (let f : FilterDesc := ⟨0, 3, .delta, regsOf 1, false⟩
     let s := (pending.setFq ([f] ++ [{ f with kind := .none }])).setSes { pending.ses with targetL := 2 }
     s.out.answers = [] ∧ s.win.tf ≤ 0 ∧ 0 + 3 ≤ s.win.tw ∧ s.st.written ≤ s.ses.targetL) ∧
    (0 < (pending.setWin { pending.win with tf := 1 }).win.tf) ∧
    (pending.win.tf ≤ 3 ∧ pending.win.tf ≤ pending.win.tw ∧ pending.win.tw < 3 + 1 ∧ ¬3 < pending.win.tw) ∧
    (pending.win.tw < 2 + 2 ∧ 2 < pending.win.tw) := by decide +kernel

/-- A sound state: idle, a register of the Filter VM set, the host about to load a byte. -/
def soundIdle : State := hostNext 0 (.cmd 0x500000000500000007#72) (after [.fvSetreg 1 7] State.reset)

/-- A sound state: a block open, the end of the stream ahead. -/
def soundRunning : State := inBlock 3 .hdr [0x80]

/-- Tables never built decode nowhere. -/
theorem invalid_below (n : Nat) : HuffTable.invalid.Below n :=
  ⟨fun _ h => (List.not_mem_nil h).elim, fun _ h => (List.not_mem_nil h).elim, fun _ h => (nomatch h)⟩

/-- The statistics after a reset are sound. -/
theorem adaptive_reset_sound (n : Nat) : (Adaptive.reset n).Sound n := ⟨.rfl, List.length_replicate⟩

/-- `EveryStepKeepsSoundness`, `SoundStatesAlwaysStep`: the idle state is sound. -/
theorem soundIdle_sound : soundIdle.Sound where
  win := ⟨rfl, fun h => (h rfl).elim, rfl, fun h => (h rfl).elim, Nat.le_refl _⟩
  cur := ⟨by decide +kernel, fun _ => Nat.zero_le _, fun h => (nomatch h), fun h => nomatch h⟩
  tabs := ⟨invalid_below _, invalid_below _, invalid_below _,
    fun _ h => (List.eq_of_mem_replicate (n := 4) h) ▸ invalid_below _, by decide +kernel⟩
  tok := ⟨adaptive_reset_sound _, adaptive_reset_sound _, adaptive_reset_sound _, by decide +kernel⟩
  pending := Nat.le_refl _
  size := .inl rfl
  latched := fun h => by revert h; decide +kernel
  lastLen := by decide +kernel
  written := Nat.le_refl _
  fm := rfl
  arena := rfl
  fq := by decide +kernel
  idleFq := fun _ => rfl
  status := rfl
  running := fun h => nomatch h

/-- `EveryStepKeepsSoundness`, `SoundStatesAlwaysStep`: the running state is sound. -/
theorem soundRunning_sound : soundRunning.Sound where
  win := ⟨rfl, fun _ _ h => (List.not_mem_nil h).elim, by decide +kernel, fun _ => by decide +kernel, Nat.le_refl _⟩
  cur := ⟨by decide +kernel, fun _ => Nat.zero_le _, fun h => (nomatch h), fun h => nomatch h⟩
  tabs := ⟨invalid_below _, invalid_below _, invalid_below _,
    fun _ h => (List.eq_of_mem_replicate (n := 4) h) ▸ invalid_below _, by decide +kernel⟩
  tok := ⟨adaptive_reset_sound _, adaptive_reset_sound _, adaptive_reset_sound _, by decide +kernel⟩
  pending := by decide +kernel
  size := .inr ⟨18, by decide, Nat.le_refl _, rfl⟩
  latched := fun _ => by decide +kernel
  lastLen := by decide +kernel
  written := by decide +kernel
  fm := rfl
  arena := rfl
  fq := by decide +kernel
  idleFq := fun h => nomatch h
  status := rfl
  running := fun _ => rfl

/-- `EveryStepKeepsSoundness`: both states step; `OnlyTheHostReachesTheParameters`, `OutputOnlyGrows`, `BitposNeverGoesBack`: an
instruction that gives a next state, and a quiet state that steps. -/
theorem witness_steps :
    gives (step soundIdle) (fun _ => true) = true ∧ gives (step soundRunning) (fun t => t.ses.fsm == .done) = true ∧
    gives (step soundRunning) (fun t => t.win.w == soundRunning.win.w && decide (soundRunning.win.tw ≤ t.win.tw)) = true ∧
    soundRunning.quiet = true ∧ soundRunning.calm = true ∧ idleW.calm = true ∧ gives (exec (.winPut 1) idleW) (fun _ => true) = true ∧
    Instr.winPut 1 ∉ [Instr.start, .reset, .winInit, .cancel, .bcAttach] := by decide +kernel

/-- `DecodeUndoesEncode`: well-formed instructions, among them a filter token with every part. -/
theorem witness_roundTrip :
    Instr.wf g4 (.filter p2Token) = true ∧ Instr.wf ⟨0, 7⟩ (.match27 31 47 (2 ^ 22 - 1)) = true ∧
    Instr.wf ⟨0, 7⟩ (.lzTables p1Lens) = true := by decide +kernel

/-- `StepRunsTheDecodedInstruction` (1): a command that is due, busy and idle. -/
theorem witness_step_command :
    (decodeCmd 0x340000000000000000#72).toOption = some .winStat ∧ (hostNext 3 (.cmd 0x340000000000000000#72) idleW).isIdle = true ∧
    (hostNext 0 (.cmd 0x340000000000000000#72) pending).host.head?.map (·.delay) = some 0 := by decide +kernel

/-- `StepRunsTheDecodedInstruction` (2): the header of V-HDR1. -/
theorem witness_step_header :
    let s := inBlock 3 .hdr [0x80, 0xFE, 0x24]
    let i := Instr.hdr 0x80 0xFE [0x24]
    s.quiet = true ∧ s.ses.fsm = .hdr ∧ s.par.cancel = false ∧ s.targetReached = false ∧ s.cur.ready = true ∧
    s.cur.align.bitsLeft ≠ 0 ∧ slotOf g4 i = .hdr ∧ i.wf g4 = true ∧ s.cur.align.streamBits 0 (encode g4 i).length = encode g4 i ∧
    s.cur.top ≤ Config.inbufSize ∧ s.cur.eos = false := by decide +kernel

/-- `StepRunsTheDecodedInstruction` (3) and (4): the entry `F2`; a set that is complete. -/
theorem witness_step_tables :
    (let s := (inBlock 3 .tables [0xF2]).setTabs { State.reset.tabs with lenPos := 0, lenTot := 367 }
     let i := Instr.lenZrun 2
     s.quiet = true ∧ s.ses.fsm = .tables ∧ s.tabs.lenPos < s.tabs.lenTot ∧ s.cur.ready = true ∧ slotOf g4 i = .len ∧
      i.wf g4 = true ∧ s.cur.streamBits 0 (encode g4 i).length = encode g4 i) ∧
    (let s := (inBlock 3 .tables []).setTabs { State.reset.tabs with lenPos := 367, lenTot := 367 }
     s.quiet = true ∧ s.tabs.lenTot ≠ 0 ∧ s.tabs.lenTot ≤ s.tabs.lenPos) := by decide +kernel

/-- What a token of slot `sl` is read as, after the checks and the flush. -/
def tokenAt (sl : Slot) (s : State) : Option Instr :=
  match refill s.cur with
  | .ok _ c =>
    match maybeFlush { s.tick with cur := c } with
    | .ok _ u =>
      match fetchParse noEffectYet sl.grammar [] u with
      | .ok i _ => some i
      | .error _ _ => none
    | .error _ _ => none
  | .error _ _ => none

/-- `StepRunsTheDecodedInstruction` (5): an LZ token, an audio token, a PPM token. -/
theorem witness_step_tokens :
    (let s := State.reset.placeLz 0x41 0
     s.quiet = true ∧ s.par.cancel = false ∧ s.targetReached = false ∧ s.ses.fsm = .lz ∧
      refilled s.cur (fun c => !c.atEnd && decide (c.bitpos < s.ses.blockEnd)) = true ∧
      tokenAt (.lz s.ses.verL) s = some (.lit 0x41)) ∧
    (let s := inBlock 1 .aud [0]
     let t := s.setTabs { s.tabs with md := Vector.replicate 4 (lonelyTable 5 257) }
     t.quiet = true ∧ t.par.cancel = false ∧ t.targetReached = false ∧
      refilled t.cur (fun c => !c.atEnd && decide (c.bitpos < t.ses.blockEnd)) = true ∧ tokenAt .aud t = some (.audDelta 5)) ∧
    (let s := ((inBlock 3 .ppm [0]).setPpm (freshModel 0).ppm).setSa (freshModel 0).sa
     s.quiet = true ∧ s.par.cancel = false ∧ s.targetReached = false ∧ refilled s.cur (fun c => !c.pastEnd) = true ∧
      tokenAt (.ppm s.ppm.esc) s = some (.ppmLit 0)) := by decide +kernel

/-- `StepRunsTheDecodedInstruction` (6) and (7): a PPM_ONLY byte, a sub-header. -/
theorem witness_step_ppm :
    (let s := ((inBlock 4 .ppmonly [0]).setPpm (freshModel 0).ppm).setSa (freshModel 0).sa
     s.quiet = true ∧ s.par.cancel = false ∧ s.st.written < s.ses.targetL ∧ refilled s.cur (fun c => !c.pastEnd) = true ∧
      (match refill s.cur with
       | .ok _ c => match fetchParse noEffectYet Slot.ppmOnly.grammar [] { s.tick with cur := c } with
         | .ok i _ => i == .ppmonlyByte 0
         | .error _ _ => false
       | .error _ _ => false) = true) ∧
    (let s := inBlock 3 .ppmhdr [0x82, 0]
     s.quiet = true ∧ s.ses.fsm = .ppmhdr ∧
      (match fetchParse noEffectYet Slot.ppmHdr.grammar [] s.tick with
       | .ok i _ => i == .ppmHdr 0x82 (some 0) none
       | .error _ _ => false) = true) := by decide +kernel

/-- `BoundaryChecksComeInOrder`: the target reached; the end of the stream before a header, a token, a PPM token; the end of
the block. -/
theorem witness_boundary :
    (let s := (inBlock 3 .lz []).setSes { (inBlock 3 .lz []).ses with targetL := 0 }
     s.quiet = true ∧ s.par.cancel = false ∧ s.out.answers = [] ∧ s.targetReached = true) ∧
    [Fsm.hdr, .lz, .aud].all (fun f =>
      let s := inBlock 3 f []
      s.quiet && !s.targetReached && refilled s.cur.align (·.atEnd) && refilled s.cur (·.atEnd)) = true ∧
    (let s := (inBlock 3 .ppm []).setCur { (inBlock 3 .ppm []).cur with bit := 1 }
     s.quiet = true ∧ s.targetReached = false ∧ refilled s.cur (·.pastEnd) = true) ∧
    (let s := (inBlock 3 .lz [1]).setSes { (inBlock 3 .lz [1]).ses with blockEnd := 0 }
     s.quiet = true ∧ s.targetReached = false ∧
      refilled s.cur (fun c => !c.atEnd && decide (s.ses.blockEnd ≤ c.bitpos)) = true) := by decide +kernel

/-- `BoundaryChecksComeInOrder`, before a PPM_ONLY byte: the target; past the end of the stream. -/
theorem witness_ppmOnlyBoundary :
    (let s := (inBlock 4 .ppmonly []).setSes { (inBlock 4 .ppmonly []).ses with targetL := 0 }
     s.quiet = true ∧ s.par.cancel = false ∧ s.out.answers = [] ∧ s.ses.targetL ≤ s.st.written) ∧
    (let s := (inBlock 4 .ppmonly []).setCur { (inBlock 4 .ppmonly []).cur with bit := 1 }
     s.quiet = true ∧ s.st.written < s.ses.targetL ∧ refilled s.cur (·.pastEnd) = true) := by decide +kernel

/-- A port error is the halt the refill answers. -/
def failsIn (c : Cursor) : Bool :=
  match refill c with
  | .error (.fatal _) _ => true
  | _ => false

/-- `BoundaryChecksComeInOrder`, the port fails: before a header, a token, a PPM_ONLY byte, a length entry, a sub-header; and in a
filter token, after its first byte. -/
theorem witness_readFail :
    [Fsm.hdr, .lz, .aud, .ppm, .ppmonly, .tables, .ppmhdr].all (fun f =>
      let s := ((inBlock 3 f []).setCur (withPort [.error]).cur).setTabs { State.reset.tabs with lenTot := 5 }
      s.quiet && !s.par.cancel && !s.targetReached && decide (s.st.written < s.ses.targetL) &&
      decide (s.tabs.lenPos < s.tabs.lenTot) && failsIn s.cur && failsIn s.cur.align) = true ∧
    (let s := (State.reset.placeLz 257 0).setCur (withPort [.data (List.replicate 30 0), .error]).cur
     s.quiet = true ∧ s.par.cancel = false ∧ s.targetReached = false ∧ s.ses.fsm = .lz ∧
      refilled s.cur (fun c => !c.atEnd && decide (c.bitpos < s.ses.blockEnd)) = true ∧
      (match tokenEnd (.lz s.ses.verL) s with
       | some (.halt (.fatal _)) => true
       | _ => false) = true) := by decide +kernel

/-- `RegisterPortReadsAndWrites`: a read and a write that are due, busy and idle; listed and unlisted indices. -/
theorem witness_registers :
    (hostNext 0 (.regRead 0x10) (inBlock 3 .lz [])).host = [⟨0, .regRead 0x10⟩] ∧
    (hostNext 4 (.regWrite 0x02 5) State.reset).host = [⟨4, .regWrite 0x02 5⟩] ∧ State.reset.isIdle = true ∧
    (inBlock 3 .lz []).isIdle = false ∧ (0x0F : Byte).toNat ∉ [0x00, 0x01, 0x02, 0x03, 0x04, 0x05, 0x06, 0x07, 0x08, 0x10, 0x11,
      0x12, 0x13, 0x14, 0x15, 0x16, 0x17, 0x18, 0x19] ∧ 8 < (0x09 : Byte).toNat := by decide +kernel

end Sys2Proof.Tests
end

section
/-! PROOFS. A contract for operations that may be abandoned, stated once for every kind of state (the cursor, the PPM part, the
whole machine) and every kind of halt, with one rule for each way operations are put together. -/

namespace Sys2Proof.Machine

/-- What the pieces of an operation have in common: from a state that meets `pre` each ends, also when it is abandoned, in one
that `rel` relates to it, and only what meets `err` abandons it. `rel` composes and keeps `pre`, so the whole operation does the
same. -/
structure Contract (σ ε : Type) where
  pre : σ → Prop
  rel : σ → σ → Prop
  err : ε → Prop
  refl : ∀ s, rel s s
  trans : ∀ {s t u}, rel s t → rel t u → rel s u
  keeps : ∀ {s t}, pre s → rel s t → pre t

namespace Contract

variable {σ ε α β : Type} {K : Contract σ ε}

/-- Operation `x` keeps the contract when it is run from `s`; a result it gives meets `post`. -/
structure Holds (K : Contract σ ε) (x : EStateM ε σ α) (s : σ) (post : α → Prop := fun _ => True) : Prop where
  ok : ∀ {a t}, K.pre s → x s = .ok a t → K.rel s t ∧ post a
  error : ∀ {e t}, K.pre s → x s = .error e t → K.rel s t ∧ K.err e

/-- An operation whose run is known to end well. -/
theorem Holds.of_ok {x : EStateM ε σ α} {s t : σ} {a : α} {post : α → Prop} (hx : x s = .ok a t)
    (h : K.pre s → K.rel s t ∧ post a) : K.Holds x s post where
  ok hs hb := by
    rw [hx] at hb
    cases hb
    exact h hs
  error _ he := by
    rw [hx] at he
    cases he

/-- An operation whose run is known to be abandoned. -/
theorem Holds.of_error {x : EStateM ε σ α} {s t : σ} {e : ε} {post : α → Prop} (hx : x s = .error e t)
    (h : K.pre s → K.rel s t ∧ K.err e) : K.Holds x s post where
  ok _ hb := by
    rw [hx] at hb
    cases hb
  error hs he := by
    rw [hx] at he
    cases he
    exact h hs

theorem Holds.pure {a : α} {s : σ} {post : α → Prop} (h : post a) : K.Holds (Pure.pure a) s post :=
  .of_ok rfl fun _ => ⟨K.refl s, h⟩

theorem Holds.throw {e : ε} {s : σ} {post : α → Prop} (h : K.err e) : K.Holds (MonadExcept.throw e) s post :=
  .of_error rfl fun _ => ⟨K.refl s, h⟩

theorem Holds.set {s t : σ} (h : K.rel s t) : K.Holds (MonadStateOf.set t) s := .of_ok rfl fun _ => ⟨h, trivial⟩

theorem Holds.update {f : σ → σ} {s : σ} (h : K.rel s (f s)) : K.Holds (modify f) s := .of_ok rfl fun _ => ⟨h, trivial⟩

/-- An operation that runs as another does, from a state that the first part has reached. -/
theorem Holds.after {x y : EStateM ε σ α} {s t : σ} {post : α → Prop} (hrun : x s = y t) (hst : K.pre s → K.rel s t)
    (hy : K.Holds y t post) : K.Holds x s post where
  ok hs hb :=
    have hb := hy.ok (K.keeps hs (hst hs)) (hrun ▸ hb)
    ⟨K.trans (hst hs) hb.1, hb.2⟩
  error hs he :=
    have he := hy.error (K.keeps hs (hst hs)) (hrun ▸ he)
    ⟨K.trans (hst hs) he.1, he.2⟩

theorem Holds.bind {x : EStateM ε σ α} {f : α → EStateM ε σ β} {s : σ} {post : β → Prop} (hx : K.Holds x s)
    (hf : ∀ a t, x s = .ok a t → K.Holds (f a) t post) : K.Holds (x >>= f) s post := by
  cases h : x s with
  | ok a t =>
    have hrun : (x >>= f) s = f a t := by simp only [Bind.bind, EStateM.bind, h]
    exact .after hrun (fun hs => (hx.ok hs h).1) (hf a t h)
  | error e t =>
    have hrun : (x >>= f) s = .error e t := by simp only [Bind.bind, EStateM.bind, h]
    exact .of_error hrun fun hs => hx.error hs h

/-- Reading the state first. -/
theorem Holds.get {f : σ → EStateM ε σ β} {s : σ} {post : β → Prop} (h : K.Holds (f s) s post) :
    K.Holds (MonadState.get >>= f) s post := .after (y := f s) rfl (fun _ => K.refl s) h

theorem Holds.map {x : EStateM ε σ α} {g : α → β} {s : σ} {P : α → Prop} {post : β → Prop} (h : K.Holds x s P)
    (hpost : ∀ a, P a → post (g a)) : K.Holds (g <$> x) s post := by
  cases hx : x s with
  | ok a t =>
    have hrun : (g <$> x) s = .ok (g a) t := by simp only [Functor.map, EStateM.map, hx]
    exact .of_ok hrun fun hs => (h.ok hs hx).imp_right (hpost a)
  | error e t =>
    have hrun : (g <$> x) s = .error e t := by simp only [Functor.map, EStateM.map, hx]
    exact .of_error hrun fun hs => h.error hs hx

/-- An operation `y` on another kind of state, run as the operation `x`: `put` places the state that `y` reaches, `wrap` names
why it was abandoned. -/
theorem Holds.lift {τ ε' : Type} {L : Contract τ ε'} {y : EStateM ε' τ α} {v : τ} {x : EStateM ε σ α} {s : σ}
    (put : τ → σ) (wrap : ε' → ε) (hy : L.Holds y v) (hpre : K.pre s → L.pre v)
    (hrel : ∀ t, L.rel v t → K.rel s (put t))
    (herr : ∀ e, L.err e → K.err (wrap e)) (hxok : ∀ a t, y v = .ok a t → x s = .ok a (put t))
    (hxerr : ∀ e t, y v = .error e t → x s = .error (wrap e) (put t)) : K.Holds x s := by
  cases hr : y v with
  | ok a t => exact .of_ok (hxok a t hr) fun hs => ⟨hrel t (hy.ok (hpre hs) hr).1, trivial⟩
  | error e t =>
    exact .of_error (hxerr e t hr) fun hs =>
      have he := hy.error (hpre hs) hr
      ⟨hrel t he.1, herr e he.2⟩

end Contract

/-! ### The cursor -/

/-- No `RESET` comes during a coming read. -/
def Cursor.Calm (c : Cursor) : Prop := c.port.all PortRead.calm = true

/-- `BITPOS` does not go back, and the port stays calm. -/
structure Cursor.Onward (c d : Cursor) : Prop where
  calm : c.Calm → d.Calm
  bitpos : c.bitpos ≤ d.bitpos

theorem Cursor.Onward.refl (c : Cursor) : c.Onward c := ⟨id, Nat.le_refl _⟩

theorem Cursor.Onward.trans {c d e : Cursor} (h : c.Onward d) (k : d.Onward e) : c.Onward e :=
  ⟨k.calm ∘ h.calm, h.bitpos.trans k.bitpos⟩

/-- With a calm port, `BITPOS` does not go back and no `RESET` cuts the operation short. -/
def cursorContract : Contract Cursor Halt where
  pre := Cursor.Calm
  rel := Cursor.Onward
  err := (· ≠ .reset)
  refl := .refl
  trans := .trans
  keeps hc h := h.calm hc

theorem Cursor.consume_onward (c : Cursor) (n : Nat) : c.Onward (c.consume n) where
  calm h := by rwa [Cursor.Calm, Cursor.consume_port]
  bitpos := by rw [Cursor.bitpos_consume]; exact Nat.le_add_right _ _

theorem Cursor.align_port (c : Cursor) : c.align.port = c.port := by
  unfold Cursor.align
  split
  · rfl
  · exact Cursor.settle_port _

theorem Cursor.align_onward (c : Cursor) : c.Onward c.align where
  calm h := by rwa [Cursor.Calm, Cursor.align_port]
  bitpos := by rw [Cursor.bitpos_align]; omega

/-- What is left of calm answers after a pull is calm. -/
theorem Cursor.pull_calm (c : Cursor) (port : List PortRead) (h : port.all PortRead.calm = true) :
    (resultCursor (c.pull port)).Calm := by
  induction port generalizing c with
  | nil => rfl
  | cons r rest ih =>
    have hrest : rest.all PortRead.calm = true := (Bool.and_eq_true_iff.1 h).2
    match r with
    | .error => exact hrest
    | .reset => exact hrest
    | .data [] => exact h
    | .data (b :: t) =>
      simp only [Cursor.pull]
      split
      · split
        · exact hrest
        · exact ih _ hrest
      · exact hrest

theorem refill_calm (c : Cursor) (h : c.Calm) : (resultCursor (refill c)).Calm := by
  simp only [refill]
  split
  · exact h
  · exact Cursor.pull_calm _ _ h

theorem refill_onward (c : Cursor) : c.Onward (resultCursor (refill c)) := ⟨refill_calm c, (bitpos_refill c).ge⟩

theorem refill_error_ne_reset {c d : Cursor} {e : Halt} (hc : c.Calm) (h : refill c = .error e d) : e ≠ .reset := by
  obtain rfl | ⟨-, hmem⟩ := refill_error _ _ _ h
  · exact Halt.noConfusion
  · exact absurd (List.all_eq_true.1 hc _ hmem) (by decide)

theorem refill_holds (c : Cursor) : cursorContract.Holds refill c := by
  have hon := refill_onward c
  cases h : refill c <;> rw [h] at hon
  case ok => exact .of_ok h fun _ => ⟨hon, trivial⟩
  case error => exact .of_error h fun hc => ⟨hon, refill_error_ne_reset hc h⟩

theorem peek_holds (n : Nat) (c : Cursor) : cursorContract.Holds (peek n) c :=
  .bind (refill_holds c) fun _ _ _ => .get (.pure trivial)

theorem getbits_holds (n : Nat) (c : Cursor) : cursorContract.Holds (getbits n) c :=
  .bind (peek_holds n c) fun _ d _ => .bind (.update (d.consume_onward n)) fun _ _ _ => .pure trivial

theorem exhausted_holds (c : Cursor) : cursorContract.Holds exhausted c :=
  .bind (refill_holds c) fun _ _ _ => .get (.pure trivial)

theorem overrun_holds (c : Cursor) : cursorContract.Holds overrun c :=
  .bind (refill_holds c) fun _ _ _ => .get (.pure trivial)

theorem HuffTable.decode_holds (t : HuffTable) (n : Nat) (c : Cursor) : cursorContract.Holds (t.decode n) c := by
  unfold HuffTable.decode
  cases t.fake with
  | some p => exact .bind (.update (c.consume_onward _)) fun _ _ _ => .pure trivial
  | none =>
    exact .bind (peek_holds 16 c) fun _ d _ => .bind (.update (d.consume_onward _)) fun _ _ _ => .pure trivial

/-! ### The PPM part -/

/-- The contract of the cursor, kept by operations of the PPM decoder. -/
def ppmContract : Contract PpmWorld Halt where
  pre w := w.cur.Calm
  rel w v := w.cur.Onward v.cur
  err := (· ≠ .reset)
  refl w := .refl w.cur
  trans := .trans
  keeps hc h := h.calm hc

/-- A PPM operation that leaves the cursor. -/
theorem ppmContract_of_cur_eq {w v : PpmWorld} (h : v.cur = w.cur) : ppmContract.rel w v := by
  show w.cur.Onward v.cur
  exact h ▸ .refl _

theorem ofCur_holds {α : Type} {x : CurM α} {w : PpmWorld} (h : cursorContract.Holds x w.cur) :
    ppmContract.Holds (PpmM.ofCur x) w :=
  .lift (fun c => { w with cur := c }) id h id (fun _ => id) (fun _ => id)
    (fun _ _ hx => by simp only [PpmM.ofCur, hx]) fun _ _ hx => by simp only [PpmM.ofCur, hx, id]

theorem rcShiftIn_holds (w : PpmWorld) : ppmContract.Holds rcShiftIn w :=
  .bind (ofCur_holds (getbits_holds 8 w.cur)) fun _ _ _ => .update (ppmContract_of_cur_eq rfl)

theorem rcInit_holds (w : PpmWorld) : ppmContract.Holds rcInit w :=
  .bind (.update (ppmContract_of_cur_eq rfl)) fun _ _ _ => .bind (rcShiftIn_holds _) fun _ _ _ =>
    .bind (rcShiftIn_holds _) fun _ _ _ => .bind (rcShiftIn_holds _) fun _ _ _ => rcShiftIn_holds _

theorem rcNormalise_holds (fuel : Nat) (w : PpmWorld) : ppmContract.Holds (rcNormalise fuel) w := by
  induction fuel generalizing w with
  | zero => exact .pure trivial
  | succ fuel ih =>
    refine .get ?_
    cases w.rc.unsettled with
    | none => exact .pure trivial
    | some range =>
      exact .bind (.update (ppmContract_of_cur_eq rfl)) fun _ _ _ => .bind (rcShiftIn_holds _) fun _ _ _ =>
        .bind (.update (ppmContract_of_cur_eq rfl)) fun _ _ _ => ih _

theorem rcUpdate_holds (cum f : Nat) (w : PpmWorld) : ppmContract.Holds (rcUpdate cum f) w :=
  .bind (.update (ppmContract_of_cur_eq rfl)) fun _ _ _ => .get (rcNormalise_holds _ _)

theorem ppmWalk_holds (fuel : Nat) (c : Option Nat) (mask : List Byte) (escaped : List Nat) (w : PpmWorld) :
    ppmContract.Holds (ppmWalk fuel c mask escaped) w := by
  induction fuel generalizing c mask escaped w with
  | zero => exact .pure trivial
  | succ fuel ih =>
    cases c with
    | none => exact .pure trivial
    | some c =>
      refine .get ?_
      split
      · exact .pure trivial
      · split
        · exact .pure trivial
        · dsimp only
          split
          · exact ih _ _ _ _
          · refine .bind (.set (ppmContract_of_cur_eq rfl)) fun _ _ _ => ?_
            split
            · exact .pure trivial
            · split
              · split
                · exact .pure trivial
                · exact .bind (rcUpdate_holds _ _ _) fun _ _ _ =>
                    .bind (.update (ppmContract_of_cur_eq rfl)) fun _ _ _ => .pure trivial
              · exact .bind (rcUpdate_holds _ _ _) fun _ _ _ =>
                  .bind (.update (ppmContract_of_cur_eq rfl)) fun _ _ _ => ih _ _ _ _

theorem ppmDecode_holds (w : PpmWorld) : ppmContract.Holds ppmDecode w := by
  refine .get (.bind (ppmWalk_holds _ _ _ _ w) fun r v _ => ?_)
  cases r with
  | stop r => exact .pure trivial
  | found c b escaped =>
    refine .get ?_
    split
    · exact .bind (.set (ppmContract_of_cur_eq rfl)) fun _ _ _ => .pure trivial
    · exact .pure trivial
    · generalize ppmRestart v.ppm v.sa = restart
      obtain ⟨ok, m, a⟩ := restart
      refine .bind (.set (ppmContract_of_cur_eq rfl)) fun _ _ _ => ?_
      cases ok <;> exact .pure trivial

end Sys2Proof.Machine
end

section
/-! PROOFS. What the CORE does by itself leaves alone (spec/10_state.md R21, R30, R38, R44): the relation `State.Onward`, the
contract of the operations on the machine that keep it, and every shared operation under that contract. -/

namespace Sys2Proof.Machine

/-- What the CORE's own work keeps: the parameters, the latched version and target, the window's size, what the host last read and
the catalogue stay; no event is cleared, `TW` and `BITPOS` do not go back, and the ports stay calm. -/
structure State.Onward (s t : State) : Prop where
  cur : s.cur.Onward t.cur
  writes : s.out.answers.all PortWrite.calm = true → t.out.answers.all PortWrite.calm = true
  par : t.par = s.par
  events : s.st.events &&& t.st.events = s.st.events
  verL : t.ses.verL = s.ses.verL
  targetL : t.ses.targetL = s.ses.targetL
  catalogue : t.catalogue = s.catalogue
  readData : t.readData = s.readData
  w : t.win.w = s.win.w
  tw : s.win.tw ≤ t.win.tw

theorem State.Onward.refl (s : State) : s.Onward s where
  cur := .refl _
  writes := id
  par := rfl
  events := BitVec.and_self
  verL := rfl
  targetL := rfl
  catalogue := rfl
  readData := rfl
  w := rfl
  tw := Nat.le_refl _

theorem State.Onward.trans {s t u : State} (h : s.Onward t) (k : t.Onward u) : s.Onward u where
  cur := h.cur.trans k.cur
  writes := k.writes ∘ h.writes
  par := k.par.trans h.par
  events := by rw [← h.events, BitVec.and_assoc, k.events]
  verL := k.verL.trans h.verL
  targetL := k.targetL.trans h.targetL
  catalogue := k.catalogue.trans h.catalogue
  readData := k.readData.trans h.readData
  w := k.w.trans h.w
  tw := h.tw.trans k.tw

theorem State.calm_iff (s : State) : s.calm = true ↔ s.cur.Calm ∧ s.out.answers.all PortWrite.calm = true :=
  Bool.and_eq_true_iff

theorem State.Onward.calm {s t : State} (h : s.Onward t) (hs : s.calm = true) : t.calm = true := by
  rw [State.calm_iff] at *
  exact hs.imp h.cur.calm h.writes

/-! ### The updates: each leads from what is onward to what is onward -/

section
variable {s t : State}

theorem State.Onward.setCur {x : Cursor} (h : s.Onward t) (hx : t.cur.Onward x) : s.Onward (t.setCur x) :=
  h.trans { State.Onward.refl t with cur := hx }

theorem State.Onward.setWin {x : Window} (h : s.Onward t) (hw : x.w = t.win.w) (htw : t.win.tw ≤ x.tw) :
    s.Onward (t.setWin x) :=
  h.trans { State.Onward.refl t with w := hw, tw := htw }

theorem State.Onward.setTabs {x : Tables} (h : s.Onward t) : s.Onward (t.setTabs x) :=
  h.trans { State.Onward.refl t with }

theorem State.Onward.setTok {x : TokenState} (h : s.Onward t) : s.Onward (t.setTok x) :=
  h.trans { State.Onward.refl t with }

theorem State.Onward.setSt {x : Status} (h : s.Onward t) (hx : t.st.events &&& x.events = t.st.events) : s.Onward (t.setSt x) :=
  h.trans { State.Onward.refl t with events := hx }

theorem State.Onward.setPpm {x : PpmModel} (h : s.Onward t) : s.Onward (t.setPpm x) :=
  h.trans { State.Onward.refl t with }

theorem State.Onward.setRc {x : RangeCoder} (h : s.Onward t) : s.Onward (t.setRc x) :=
  h.trans { State.Onward.refl t with }

theorem State.Onward.setSa {x : SubAlloc} (h : s.Onward t) : s.Onward (t.setSa x) :=
  h.trans { State.Onward.refl t with }

theorem State.Onward.setVm {x : FilterVm} (h : s.Onward t) : s.Onward (t.setVm x) :=
  h.trans { State.Onward.refl t with }

theorem State.Onward.setSes {x : Session} (h : s.Onward t) (hv : x.verL = t.ses.verL) (ht : x.targetL = t.ses.targetL) :
    s.Onward (t.setSes x) :=
  h.trans { State.Onward.refl t with verL := hv, targetL := ht }

theorem State.Onward.setOut {x : OutPort} (h : s.Onward t)
    (hx : t.out.answers.all PortWrite.calm = true → x.answers.all PortWrite.calm = true) : s.Onward (t.setOut x) :=
  h.trans { State.Onward.refl t with writes := hx }

theorem State.Onward.setHost {x : List HostEvent} (h : s.Onward t) : s.Onward (t.setHost x) :=
  h.trans { State.Onward.refl t with }

/-! ### The named updates -/

theorem State.Onward.note {e : Event} (h : s.Onward t) : s.Onward (t.note e) := h.setSt (and_note t e)

theorem State.Onward.noteIf {b : Bool} {e : Event} (h : s.Onward t) : s.Onward (t.noteIf b e) := by
  cases b
  · exact h
  · exact h.note

theorem State.Onward.accept (h : s.Onward t) : s.Onward t.accept := h.setSt BitVec.and_self

theorem State.Onward.refuse (h : s.Onward t) : s.Onward t.refuse := h.setSt BitVec.and_self

theorem State.Onward.setResult {v : Word} (h : s.Onward t) : s.Onward (t.setResult v) := h.setSt BitVec.and_self

theorem State.Onward.setFsm {f : Fsm} (h : s.Onward t) : s.Onward (t.setFsm f) := h.setSes rfl rfl

theorem State.Onward.setTf {a : Nat} (h : s.Onward t) : s.Onward (t.setTf a) := h.setWin rfl (Nat.le_refl _)

theorem State.Onward.setFq {q : List FilterDesc} (h : s.Onward t) : s.Onward (t.setFq q) := h.setVm

theorem State.Onward.setLens {n : Nat} (h : s.Onward t) : s.Onward (t.setLens n) := h.setTabs

theorem State.Onward.finish {k : ResultKind} {r : Reason} {d : Detail} (h : s.Onward t) : s.Onward (t.finish k r d) :=
  h.trans { State.Onward.refl t with events := BitVec.and_self }

/-- An abandoned operation leads onward but for a `RESET`. -/
theorem State.Onward.halted {e : Halt} (h : s.Onward t) (he : e ≠ .reset) : s.Onward (t.halted e) := by
  cases e with
  | fatal f => exact h.finish
  | reset => exact absurd rfl he

theorem State.Onward.put {b : Byte} (h : s.Onward t) : s.Onward (t.put b) := h.setWin rfl (Nat.le_succ _)

theorem State.Onward.copyMatch {d n : Nat} (h : s.Onward t) : s.Onward (t.copyMatch d n) :=
  (h.setWin (Window.copyMatch_w _ _ _) (by rw [Window.copyMatch_tw]; exact Nat.le_add_right _ _)).noteIf

theorem State.Onward.setWorld {w : PpmWorld} (h : s.Onward t) (hw : t.cur.Onward w.cur) : s.Onward (t.setWorld w) :=
  (((h.setCur hw).setRc).setPpm).setSa

theorem State.Onward.createModel {order units : Nat} (h : s.Onward t) : s.Onward (t.createModel order units) :=
  (h.setPpm).setSa

end

/-! ### What tokens and headers do -/

theorem State.storeProgram_onward (s : State) (t : FilterTok) : s.Onward (s.storeProgram t) := by
  unfold State.storeProgram
  split
  · exact .noteIf (.setVm (.refl s))
  · exact .refl s

theorem State.registerFilter_onward (s : State) (t : FilterTok) : s.Onward (s.registerFilter t) := by
  unfold State.registerFilter
  refine (s.storeProgram_onward t).trans ?_
  dsimp only
  split
  · exact .note (.refl _)
  · exact .setVm (.refl _)

theorem State.cacheToken_onward (s : State) (k l e : Nat) : s.Onward (s.cacheToken k l e) := by
  unfold State.cacheToken
  split
  · exact .copyMatch (.setTok (.refl s))
  · exact .note (.refl s)

theorem State.matchToken_onward (s : State) (l e1 d e2 : Nat) : s.Onward (s.matchToken l e1 d e2) :=
  .copyMatch (.setTok (.refl s))

theorem State.readTables_onward (s : State) (f : Fsm) : s.Onward (s.readTables f) := by
  unfold State.readTables
  split
  · exact .setFsm (.setTok (.refl s))
  · exact .setFsm (.setLens (.refl s))

theorem State.enterBlock_onward (s : State) : s.Onward s.enterBlock := by
  unfold State.enterBlock
  split
  · exact .setFsm (.refl s)
  split
  · exact s.readTables_onward _
  split
  · exact .setFsm (.refl s)
  · exact .finish (.refl s)

/-! ### Operations on the machine -/

/-- With calm ports an operation leads onward and no `RESET` cuts it short. -/
def coreContract : Contract State Halt where
  pre s := s.calm = true
  rel := State.Onward
  err := (· ≠ .reset)
  refl := .refl
  trans := .trans
  keeps hs h := h.calm hs

theorem onCur_holds {α : Type} {x : CurM α} {s : State} (h : cursorContract.Holds x s.cur) :
    coreContract.Holds (onCur x) s :=
  .lift s.setCur id h (fun hs => (s.calm_iff.1 hs).1) (fun _ => (State.Onward.refl s).setCur) (fun _ => id)
    (fun _ _ hx => by simp only [onCur, hx]) fun _ _ hx => by simp only [onCur, hx, id]

theorem onPpm_holds {α : Type} {x : PpmM α} {s : State} (h : ppmContract.Holds x s.world) : coreContract.Holds (onPpm x) s :=
  .lift (fun w => (s.setWorld w).noteIf w.restarted .ppmRestart) id h (fun hs => (s.calm_iff.1 hs).1)
    (fun _ hw => ((State.Onward.refl s).setWorld hw).noteIf) (fun _ => id)
    (fun _ _ hx => by simp only [onPpm, hx]) fun _ _ hx => by simp only [onPpm, hx, id]

theorem onPpmQuietly_holds {α : Type} {x : PpmM α} {s : State} (h : ppmContract.Holds x s.world) :
    coreContract.Holds (onPpmQuietly x) s :=
  .lift s.setWorld id h (fun hs => (s.calm_iff.1 hs).1) (fun _ => (State.Onward.refl s).setWorld) (fun _ => id)
    (fun _ _ hx => by simp only [onPpmQuietly, hx]) fun _ _ hx => by simp only [onPpmQuietly, hx, id]

theorem emit_holds (bytes : List Byte) (s : State) : coreContract.Holds (emit bytes) s := by
  obtain ⟨-, h⟩ | ⟨-, h⟩ | ⟨b, hb, h⟩ | h := emit_cases bytes s
  · exact .of_ok h fun _ => ⟨.refl s, trivial⟩
  · exact .of_error h fun _ => ⟨.setOut (.refl s) calm_drop, Halt.noConfusion⟩
  · exact .of_error h fun hs => (not_calm_head (s.calm_iff.1 hs).2 hb).elim
  · exact .of_ok h fun _ => ⟨.setSt (.setOut (.refl s) calm_drop) BitVec.and_self, trivial⟩

theorem emitUpTo_holds (a : Nat) (s : State) : coreContract.Holds (emitUpTo a) s :=
  .get (.bind (emit_holds _ s) fun _ t _ => .update (.setTf (.refl t)))

theorem flushLoop_holds (final : Bool) (b fuel : Nat) (s : State) : coreContract.Holds (flushLoop final b fuel) s := by
  induction fuel generalizing s with
  | zero => exact .pure trivial
  | succ fuel ih =>
    refine .get ?_
    cases s.vm.fq with
    | nil => exact .pure trivial
    | cons f rest =>
      dsimp only
      split
      · exact .bind (.set (.note (.setFq (.refl s)))) fun _ t _ => ih t
      · split
        · exact .pure trivial
        · refine .bind (emitUpTo_holds _ s) fun _ t _ => .get ?_
          split
          · cases final
            · exact .bind (.set (.setFq (.refl t))) fun _ _ _ => .pure trivial
            · exact .bind (.set (.note (.setFq (.refl t)))) fun _ u _ => ih u
          · exact .bind (.set (.setVm (.refl t))) fun _ _ _ => .bind (emit_holds _ _) fun _ u _ =>
              .bind (.update (.setTf (.refl u))) fun _ v _ => ih v

theorem doFlush_holds (final : Bool) (s : State) : coreContract.Holds (doFlush final) s := by
  refine .get (.bind (flushLoop_holds _ _ _ s) fun go t _ => ?_)
  cases go
  · exact .pure trivial
  · refine .bind (emitUpTo_holds _ t) fun _ u _ => .get ?_
    split
    · exact .set (.note (.setFq (.refl u)))
    · exact .pure trivial

theorem dropUntilFits_holds (fuel : Nat) (s : State) : coreContract.Holds (dropUntilFits fuel) s := by
  induction fuel generalizing s with
  | zero => exact .pure trivial
  | succ fuel ih =>
    refine .get ?_
    split
    · exact .bind (.set (.note (.setFq (.refl s)))) fun _ t _ => .bind (doFlush_holds _ t) fun _ u _ => ih u
    · exact .pure trivial

theorem maybeFlush_holds (s : State) : coreContract.Holds maybeFlush s := by
  refine .get ?_
  split
  · exact .bind (doFlush_holds _ s) fun _ t _ => .get (dropUntilFits_holds _ t)
  · exact .pure trivial

theorem endFile_holds (s : State) : coreContract.Holds endFile s :=
  .bind (doFlush_holds true s) fun _ t _ => .update (.finish (.refl t))

theorem segmentEnd_holds (s : State) : coreContract.Holds segmentEnd s :=
  .bind (doFlush_holds false s) fun _ t _ => .update (.setFsm (.refl t))

theorem fallback_holds (s : State) : coreContract.Holds fallback s :=
  .bind (.update (.note (.setPpm (.refl s)))) fun _ t _ => .bind (doFlush_holds false t) fun _ u _ =>
    .update (.setFsm (.refl u))

theorem newTables_holds (s : State) : coreContract.Holds newTables s :=
  .bind (doFlush_holds false s) fun _ t _ => .update (t.readTables_onward _)

theorem ppmBlockBegin_holds (s : State) : coreContract.Holds ppmBlockBegin s := by
  refine .get ?_
  split
  · exact .bind (onPpm_holds (rcInit_holds _)) fun _ t _ => .update (.setFsm (.refl t))
  · exact .bind (.set (.note (.setPpm (.refl s)))) fun _ t _ => .bind (doFlush_holds false t) fun _ u _ =>
      .update (.setFsm (.refl u))

theorem decodeTable_holds (t : HuffTable) (n : Nat) (s : State) : coreContract.Holds (decodeTable t n) s :=
  .bind (onCur_holds (t.decode_holds n _)) fun _ u _ => .bind (.update (.noteIf (.refl u))) fun _ _ _ => .pure trivial

theorem decodeLd_holds (s : State) : coreContract.Holds decodeLd s := by
  refine .get ?_
  split
  · exact .bind (decodeTable_holds rkLd Config.nc s) fun _ t _ => .bind (.update (.setTok (.refl t))) fun _ _ _ => .pure trivial
  · exact decodeTable_holds _ _ s

theorem decodeDd_holds (s : State) : coreContract.Holds decodeDd s := by
  refine .get ?_
  split
  · exact .bind (decodeTable_holds rkDd Config.dc s) fun _ t _ => .bind (.update (.setTok (.refl t))) fun _ _ _ => .pure trivial
  · exact decodeTable_holds _ _ s

theorem decodeRd_holds (s : State) : coreContract.Holds decodeRd s := by
  refine .get ?_
  split
  · exact .bind (decodeTable_holds rkRd Config.rc s) fun _ t _ => .bind (.update (.setTok (.refl t))) fun _ _ _ => .pure trivial
  · exact decodeTable_holds _ _ s

theorem decodeMd_holds (s : State) : coreContract.Holds decodeMd s := .get (decodeTable_holds _ _ s)

end Sys2Proof.Machine
end

section
/-! PROOFS. What a grammar can make; and that no grammar of the stream makes an instruction that only the host can issue. -/

namespace Sys2Proof

/-- Whatever the fields hold, what the grammar makes meets `P`. -/
def Parse.Makes {α : Type} (P : α → Prop) : Parse α → Prop
  | .ret a => P a
  | .fail _ => True
  | .field _ k => ∀ v, Parse.Makes P (k v)

section
variable {α : Type} {P : α → Prop}

theorem Parse.makes_le (f : Field) (n : Nat) {k : Nat → Parse α} (h : ∀ v, Parse.Makes P (k v)) :
    Parse.Makes P (Parse.le f n k) := by
  induction n generalizing k with
  | zero => exact h 0
  | succ n ih => exact fun b => ih fun v => h _

theorem Parse.makes_bytes (f : Field) (n : Nat) {k : List Byte → Parse α} (h : ∀ l, Parse.Makes P (k l)) :
    Parse.Makes P (Parse.bytes f n k) := by
  induction n generalizing k with
  | zero => exact h []
  | succ n ih => exact fun b => ih fun l => h _

theorem Parse.makes_words (f : Field) (n : Nat) {k : List Word → Parse α} (h : ∀ l, Parse.Makes P (k l)) :
    Parse.Makes P (Parse.words f n k) := by
  induction n generalizing k with
  | zero => exact h []
  | succ n ih => exact Parse.makes_le f 4 fun w => ih fun l => h _

theorem Parse.makes_filter (f : Field) {k : FilterTok → Parse α} (h : ∀ t, Parse.Makes P (k t)) :
    Parse.Makes P (parseFilter f k) := by
  refine fun f0 => Parse.makes_le f 4 fun start => Parse.makes_le f 3 fun len => ?_
  dsimp only
  split
  · refine fun mask => Parse.makes_words f _ fun regs => ?_
    split
    · exact Parse.makes_le f 2 fun plen => Parse.makes_bytes f plen fun prog => h _
    · exact h _
  · split
    · exact Parse.makes_le f 2 fun plen => Parse.makes_bytes f plen fun prog => h _
    · exact h _

end

/-- The commands that reach what is otherwise the host's, or begin a stream anew: `START`, `RESET`, `CANCEL`, `BC.ATTACH`,
`WIN.INIT`. -/
def Instr.reachesHostState : Instr → Bool
  | .start | .reset | .cancel | .bcAttach | .winInit => true
  | _ => false

/-- An instruction that leaves what is the host's. -/
abbrev Instr.Plain (i : Instr) : Prop := i.reachesHostState = false

/-- An instruction is plain or one of the five. -/
theorem Instr.plain_or (i : Instr) :
    i.Plain ∨ i = .start ∨ i = .reset ∨ i = .cancel ∨ i = .bcAttach ∨ i = .winInit := by
  cases i <;> simp [Instr.Plain, Instr.reachesHostState]

theorem cacheSlot_plain {k s e : Nat} {i : Instr} (h : Instr.cacheSlot k s e = some i) : i.Plain := by
  unfold Instr.cacheSlot at h
  split at h <;> cases h <;> rfl

theorem matchSlot_plain {s e1 d e2 : Nat} {i : Instr} (h : Instr.matchSlot s e1 d e2 = some i) : i.Plain := by
  unfold Instr.matchSlot at h
  split at h <;> cases h <;> rfl

theorem parseEnd_plain {e00 e01 e10 e11 : Instr} (h00 : e00.Plain) (h01 : e01.Plain) (h10 : e10.Plain) (h11 : e11.Plain) :
    (parseEnd e00 e01 e10 e11).Makes Instr.Plain := by
  intro f
  show Instr.Plain (if f = 0 then e00 else if f = 1 then e01 else if f = 2 then e10 else e11)
  split
  · exact h00
  · split
    · exact h01
    · split
      · exact h10
      · exact h11

theorem parseCache_plain (k : Nat) : (parseCache k).Makes Instr.Plain := by
  intro s
  dsimp only
  split
  · intro e
    dsimp only
    split
    · exact cacheSlot_plain ‹_›
    · trivial
  · trivial

theorem parseMatch_plain (s : Nat) : (parseMatch s).Makes Instr.Plain := by
  intro e1 d
  dsimp only
  split
  · intro e2
    dsimp only
    split
    · exact matchSlot_plain ‹_›
    · trivial
  · trivial

theorem parseLz_plain (g : BitVec 3) : (parseLz g).Makes Instr.Plain := by
  intro sym
  unfold parseLzRest
  split
  · rfl
  split
  · exact parseEnd_plain rfl rfl rfl rfl
  split
  · split
    · exact Parse.makes_filter _ fun _ => rfl
    · rfl
  split
  · rfl
  split
  · split
    · exact parseCache_plain _
    · split
      · exact cacheSlot_plain ‹_›
      · trivial
  split
  · exact parseMatch_plain _
  · trivial

theorem parseAud_plain : parseAud.Makes Instr.Plain := by
  intro sym
  dsimp only
  split
  · rfl
  split
  · exact parseEnd_plain rfl rfl rfl rfl
  · trivial

theorem parsePpm_plain (esc : Byte) : (parsePpm esc).Makes Instr.Plain := by
  intro s
  dsimp only
  split
  · rfl
  intro c
  dsimp only
  split
  · rfl
  split
  · rfl
  split
  · exact Parse.makes_filter _ fun _ => rfl
  split
  · exact fun _ _ _ _ => rfl
  · rfl

theorem parsePpmOnly_plain : parsePpmOnly.Makes Instr.Plain := fun _ => rfl

theorem parseHdr_plain : parseHdr.Makes Instr.Plain := by
  intro flags chk
  dsimp only
  split
  · rfl
  · exact Parse.makes_bytes _ _ fun _ => rfl

theorem parseLen_plain : parseLen.Makes Instr.Plain := by
  intro v
  dsimp only
  split
  · rfl
  intro z
  dsimp only
  split <;> rfl

theorem parsePpmHdr_plain : parsePpmHdr.Makes Instr.Plain := by
  intro p
  dsimp only
  split
  · intro m
    split
    · exact fun _ => rfl
    · rfl
  · split
    · exact fun _ => rfl
    · rfl

end Sys2Proof
end

section
/-! PROOFS. The CORE's own fetch leads onward. -/

namespace Sys2Proof.Machine

/-- The contract of the reading of a token. -/
def fetchContract : Contract State Abort where
  pre s := s.calm = true
  rel := State.Onward
  err := (· ≠ .halt .reset)
  refl := .refl
  trans := .trans
  keeps hs h := h.calm hs

theorem reading_holds {α : Type} {x : M α} {s : State} (h : coreContract.Holds x s) : fetchContract.Holds (reading x) s :=
  .lift id .halt h id (fun _ => id) (fun _ he k => he (Abort.halt.inj k)) (fun _ _ hx => by simp only [reading, hx, id])
    fun _ _ hx => by simp only [reading, hx, id]

theorem truncatedInput_holds {α : Type} {post : α → Prop} (s : State) : fetchContract.Holds truncatedInput s post :=
  .throw fun h => nomatch h

theorem decodePpmByte_holds (s : State) : fetchContract.Holds decodePpmByte s := by
  refine .bind (reading_holds (onPpm_holds (ppmDecode_holds _))) fun r _ _ => ?_
  cases r with
  | byte b => exact .pure trivial
  | endSegment => exact .throw Abort.noConfusion
  | corrupt => exact .throw Abort.noConfusion
  | nomem => exact .throw Abort.noConfusion

theorem readField_holds (f : Field) (s : State) : fetchContract.Holds (readField f) s := by
  cases f with
  | raw n => exact reading_holds (onCur_holds (getbits_holds n _))
  | ld => exact reading_holds (decodeLd_holds s)
  | dd => exact reading_holds (decodeDd_holds s)
  | rd => exact reading_holds (decodeRd_holds s)
  | md => exact reading_holds (decodeMd_holds s)
  | ppm => exact decodePpmByte_holds s

/-- Running a grammar leads onward if what an abandoned reading has done by then does; and it gives what the grammar makes. -/
theorem fetchParse_holds {α : Type} {P : α → Prop} {fix : List Nat → State → State}
    (hfix : ∀ vals (s : State), s.Onward (fix vals s)) (p : Parse α) (hp : p.Makes P) (vals : List Nat) (s : State) :
    fetchContract.Holds (fetchParse fix p vals) s P := by
  induction p generalizing vals s with
  | ret a => exact .pure hp
  | fail r => exact .throw Abort.noConfusion
  | field f k ih =>
    have hf := readField_holds f s
    cases hr : readField f s with
    | ok v t =>
      have hrun : fetchParse fix (.field f k) vals s = fetchParse fix (k v) (vals ++ [v]) t := by simp only [fetchParse, hr]
      exact .after hrun (fun hs => (hf.ok hs hr).1) (ih v (hp v) _ t)
    | error e t =>
      have hrun : fetchParse fix (.field f k) vals s = .error e (fix vals t) := by simp only [fetchParse, hr]
      exact .of_error hrun fun hs =>
        have he := hf.error hs hr
        ⟨he.1.trans (hfix vals t), he.2⟩

/-- What a fetch gives, an instruction or none: none that reaches the host's state. -/
abbrev PlainFetch (o : Option Instr) : Prop := ∀ i, o = some i → i.Plain

theorem plainFetch_none : PlainFetch none := fun _ h => nomatch h

theorem plainFetch_some {i : Instr} (h : i.Plain) : PlainFetch (some i) := fun _ hj => Option.some.inj hj ▸ h

/-- An instruction read by its grammar. -/
theorem fetchInstr_holds {fix : List Nat → State → State} (hfix : ∀ vals (s : State), s.Onward (fix vals s))
    {p : Parse Instr} (hp : p.Makes Instr.Plain) (s : State) : fetchContract.Holds (some <$> fetchParse fix p []) s PlainFetch :=
  .map (fetchParse_holds hfix p hp [] s) fun _ => plainFetch_some

theorem noEffectYet_onward (vals : List Nat) (s : State) : s.Onward (noEffectYet vals s) := .refl s

theorem lzEffectYet_onward (g : BitVec 3) (vals : List Nat) (s : State) : s.Onward (lzEffectYet g vals s) := by
  unfold lzEffectYet
  split
  · exact .refl s
  · split
    · exact .setTok (.refl s)
    · exact .refl s

theorem ppmHdrEffectYet_onward (vals : List Nat) (s : State) : s.Onward (ppmHdrEffectYet vals s) := by
  unfold ppmHdrEffectYet
  split
  · split
    · exact .createModel (.refl s)
    · exact .refl s
  · exact .refl s

/-! ### The fetch in each state of the dispatcher -/

theorem blockBoundary_holds (s : State) : fetchContract.Holds blockBoundary s := by
  refine .get ?_
  split
  · exact .bind (reading_holds (endFile_holds s)) fun _ _ _ => .pure trivial
  · refine .bind (reading_holds (onCur_holds (exhausted_holds _))) fun ended t _ => ?_
    split
    · exact truncatedInput_holds t
    · refine .get ?_
      split
      · exact .bind (reading_holds (segmentEnd_holds t)) fun _ _ _ => .pure trivial
      · exact .pure trivial

theorem ppmBoundary_holds (s : State) : fetchContract.Holds ppmBoundary s := by
  refine .get ?_
  split
  · exact .bind (reading_holds (endFile_holds s)) fun _ _ _ => .pure trivial
  · refine .bind (reading_holds (onCur_holds (overrun_holds _))) fun past t _ => ?_
    split
    · exact truncatedInput_holds t
    · exact .pure trivial

theorem fetchHdr_holds (s : State) : fetchContract.Holds fetchHdr s PlainFetch := by
  refine .get ?_
  split
  · exact .bind (reading_holds (endFile_holds s)) fun _ _ _ => .pure plainFetch_none
  · refine .bind (reading_holds (onCur_holds (.update s.cur.align_onward))) fun _ t _ =>
      .bind (reading_holds (onCur_holds (exhausted_holds _))) fun ended u _ => ?_
    split
    · exact truncatedInput_holds u
    · exact fetchInstr_holds noEffectYet_onward parseHdr_plain u

theorem fetchLz_holds (s : State) : fetchContract.Holds fetchLz s PlainFetch := by
  refine .bind (blockBoundary_holds s) fun go t _ => ?_
  split
  · exact .bind (reading_holds (maybeFlush_holds t)) fun _ u _ => .get
      (fetchInstr_holds (lzEffectYet_onward _) (parseLz_plain _) u)
  · exact .pure plainFetch_none

theorem fetchAud_holds (s : State) : fetchContract.Holds fetchAud s PlainFetch := by
  refine .bind (blockBoundary_holds s) fun go t _ => ?_
  split
  · exact .bind (reading_holds (maybeFlush_holds t)) fun _ u _ => fetchInstr_holds noEffectYet_onward parseAud_plain u
  · exact .pure plainFetch_none

theorem fetchPpm_holds (s : State) : fetchContract.Holds fetchPpm s PlainFetch := by
  refine .bind (ppmBoundary_holds s) fun go t _ => ?_
  split
  · exact .bind (reading_holds (maybeFlush_holds t)) fun _ u _ => .get
      (fetchInstr_holds noEffectYet_onward (parsePpm_plain _) u)
  · exact .pure plainFetch_none

theorem fetchPpmOnly_holds (s : State) : fetchContract.Holds fetchPpmOnly s PlainFetch := by
  refine .get ?_
  split
  · exact .bind (.update (.finish (.refl s))) fun _ _ _ => .pure plainFetch_none
  · refine .bind (reading_holds (onCur_holds (overrun_holds _))) fun past t _ => ?_
    split
    · exact truncatedInput_holds t
    · exact fetchInstr_holds noEffectYet_onward parsePpmOnly_plain t

theorem fetchPpmHdr_holds (s : State) : fetchContract.Holds fetchPpmHdr s PlainFetch :=
  fetchInstr_holds ppmHdrEffectYet_onward parsePpmHdr_plain s

theorem fetchTables_holds (s : State) : fetchContract.Holds fetchTables s PlainFetch := by
  refine .get ?_
  split
  · split
    · exact .bind (reading_holds (onCur_holds (getbits_holds 2 _))) fun _ t _ =>
        .bind (.update (.setLens (.setTok (.refl t)))) fun _ _ _ => .pure plainFetch_none
    · exact .bind (.set (.setLens (.refl s))) fun _ _ _ => .pure plainFetch_none
  · split
    · exact fetchInstr_holds noEffectYet_onward parseLen_plain s
    · split
      · exact .pure (plainFetch_some rfl)
      · exact .pure (plainFetch_some rfl)

theorem fetchCore_holds (s : State) : fetchContract.Holds (fetchCore s) s PlainFetch := by
  unfold fetchCore
  split
  · exact .pure plainFetch_none
  · exact .pure plainFetch_none
  · exact fetchTables_holds s
  · exact fetchPpmHdr_holds s
  all_goals
    split
    · exact .bind (.update (.finish (.refl s))) fun _ _ _ => .pure plainFetch_none
    · split
      · exact fetchLz_holds s
      · exact fetchAud_holds s
      · exact fetchPpm_holds s
      · exact fetchPpmOnly_holds s
      · exact fetchHdr_holds s

/-! ### The iteration -/

/-- What a fetch leads to is onward from `s`, and an instruction it gives leaves what is the host's. -/
def Fetched.Onward (s : State) : Fetched → Prop
  | .instr i t => s.Onward t ∧ i.Plain
  | .done t => s.Onward t
  | .fault _ => True

theorem settle_onward {x : M Unit} {s : State} (h : coreContract.Holds x s) (hs : s.calm = true) : s.Onward (settle x s) := by
  unfold settle
  cases hx : x s with
  | ok a t => exact (h.ok hs hx).1
  | error e t => exact (h.error hs hx).1.halted (h.error hs hx).2

theorem abandon_onward (e : Abort) (s : State) (he : e ≠ .halt .reset) (hs : s.calm = true) : (abandon e s).Onward s := by
  cases e with
  | halt h => exact .halted (.refl s) fun hh => he (congrArg Abort.halt hh)
  | endSegment =>
    show s.Onward (if _ then _ else _)
    split
    · exact .finish (.refl s)
    · exact settle_onward (segmentEnd_holds s) hs
  | corrupt =>
    show s.Onward (if _ then _ else _)
    split
    · exact .finish (.refl s)
    · exact settle_onward (fallback_holds s) hs
  | nomem => exact .finish (.refl s)
  | reject sym => trivial

theorem Fetched.Onward.after {s t : State} {f : Fetched} (h : s.Onward t) (k : f.Onward t) : f.Onward s := by
  cases f with
  | instr i u => exact ⟨h.trans k.1, k.2⟩
  | done u => exact h.trans k
  | fault r => trivial

theorem coreFetch_onward (s : State) (hs : s.calm = true) : (coreFetch s).Onward s := by
  have h := fetchCore_holds s
  unfold coreFetch
  cases hf : fetchCore s s with
  | ok o t =>
    obtain ⟨hst, hplain⟩ := h.ok hs hf
    cases o with
    | some i => exact ⟨hst, hplain i rfl⟩
    | none => exact hst
  | error e t =>
    obtain ⟨hst, he⟩ := h.error hs hf
    exact .after hst (abandon_onward e t he (hst.calm hs))

/-- With no action of the host due, the fetch is the CORE's own. -/
theorem fetchNext_quiet {s : State} (hq : s.quiet = true) : fetchNext s = coreFetch s.tick := by
  unfold State.quiet at hq
  unfold fetchNext State.tick
  cases hh : s.host with
  | nil => rfl
  | cons e rest =>
    simp only [hh, Bool.and_eq_true, bne_iff_ne, Bool.not_eq_true'] at hq
    simp [hq.1, hq.2]

theorem State.tick_onward (s : State) : s.Onward s.tick := by
  unfold State.tick
  split
  · exact .refl s
  · exact .setHost (.refl s)

end Sys2Proof.Machine
end

section
/-! PROOFS. What an instruction changes of what is the host's: an instruction that leaves it leads onward; so does every step of
the CORE's own. -/

namespace Sys2Proof.Machine

/-! ### The ways an instruction runs -/

/-- Every next state of this outcome is onward from `s`. -/
def LeadsOnward (s : State) (o : Out) : Prop := ∀ t, o = .next t → s.Onward t

theorem LeadsOnward.next {s t : State} (h : s.Onward t) : LeadsOnward s (.next t) := fun _ hu => Host.Outcome.next.inj hu ▸ h

theorem LeadsOnward.runOp {x : M Unit} {s u : State} (hs : s.calm = true) (hsu : s.Onward u) (h : coreContract.Holds x u) :
    LeadsOnward s (runOp x u) := by
  obtain ⟨t, hx, hr⟩ | ⟨e, t, hx, hr⟩ := runOp_next x u <;> rw [hr]
  · exact .next (hsu.trans (h.ok (hsu.calm hs) hx).1)
  · obtain ⟨hut, he⟩ := h.error (hsu.calm hs) hx
    exact .next ((hsu.trans hut).halted he)

/-- An idle command is refused or has its effect on the accepting state. -/
theorem idleCommand_next {c : Bool} {f : State → State} {s t : State} (h : idleCommand c f s = .next t) :
    t = s.refuse ∨ t = f s.accept := by
  obtain ⟨-, -, hr⟩ | ⟨-, hr⟩ := idleCommand_cases c f s <;> rw [hr] at h <;> cases h
  · exact .inr rfl
  · exact .inl rfl

theorem LeadsOnward.idleCommand {c : Bool} {f : State → State} {s : State} (h : s.accept.Onward (f s.accept)) :
    LeadsOnward s (idleCommand c f s) := by
  intro t ht
  obtain rfl | rfl := idleCommand_next ht
  · exact .refuse (.refl s)
  · exact (State.Onward.refl s).accept.trans h

theorem LeadsOnward.portCommand {c : Bool} {x : M (Option Word)} {s : State} (hs : s.calm = true)
    (h : coreContract.Holds x s.accept) : LeadsOnward s (portCommand c x s) := by
  have hacc : s.Onward s.accept := .accept (.refl s)
  have hcalm := hacc.calm hs
  obtain ⟨-, hr⟩ | ⟨-, -, ⟨v, t, hx, hr⟩ | ⟨t, hx, hr⟩ | ⟨f, t, hx, hr⟩ | ⟨t, hx, hr⟩⟩ := portCommand_cases c x s <;>
    rw [hr]
  · exact .next (.refuse (.refl s))
  · exact .next (hacc.trans (h.ok hcalm hx).1).setResult
  · exact .next (hacc.trans (h.ok hcalm hx).1)
  · exact .next (.refuse (.setCur (.refl s) (h.error hcalm hx).1.cur))
  · exact absurd rfl (h.error hcalm hx).2

/-! ### Single instructions -/

theorem execBcConsume_onward (n : Word) (s : State) : LeadsOnward s (execBcConsume n s) :=
  .idleCommand (.setCur (.refl _) (Cursor.consume_onward _ _))

theorem execBcAlign_onward (s : State) : LeadsOnward s (execBcAlign s) :=
  .idleCommand (.setCur (.refl _) (Cursor.align_onward _))

theorem execHufSetlen_onward (index length : Word) (s : State) : LeadsOnward s (execHufSetlen index length s) :=
  .idleCommand (.setTabs (.refl _))

theorem execHufBuild_onward (id count : Word) (s : State) : LeadsOnward s (execHufBuild id count s) :=
  .idleCommand (.setResult (.setTabs (.refl _)))

theorem execWinPut_onward (byte : Word) (s : State) : LeadsOnward s (execWinPut byte s) :=
  .idleCommand (.put (.refl _))

theorem execWinCopy_onward (distance length : Word) (s : State) : LeadsOnward s (execWinCopy distance length s) :=
  .idleCommand (.copyMatch (.refl _))

theorem execWinRead_onward (index : Word) (s : State) : LeadsOnward s (execWinRead index s) :=
  .idleCommand (.setResult (.refl _))

theorem execWinStat_onward (s : State) : LeadsOnward s (execWinStat s) :=
  .idleCommand (.setResult (.refl _))

theorem execPpmInit_onward (order bytes : Word) (s : State) : LeadsOnward s (execPpmInit order bytes s) :=
  .idleCommand (.setResult (.createModel (.refl _)))

theorem execSaAlloc_onward (n : Word) (s : State) : LeadsOnward s (execSaAlloc n s) :=
  .idleCommand (.setResult (.setSa (.refl _)))

theorem execSaFree_onward (index n : Word) (s : State) : LeadsOnward s (execSaFree index n s) :=
  .idleCommand (.setSa (.refl _))

theorem execSaInit_onward (units : Word) (s : State) : LeadsOnward s (execSaInit units s) :=
  .idleCommand (.setPpm (.setSa (.refl _)))

theorem execFvLoad_onward (off byte : Word) (s : State) : LeadsOnward s (execFvLoad off byte s) :=
  .idleCommand (.setVm (.refl _))

theorem execFvSetreg_onward (reg value : Word) (s : State) : LeadsOnward s (execFvSetreg reg value s) :=
  .idleCommand (.setVm (.refl _))

theorem execFvRead_onward (off : Word) (s : State) : LeadsOnward s (execFvRead off s) :=
  .idleCommand (.setResult (.refl _))

theorem execFvIdent_onward (plen : Word) (s : State) : LeadsOnward s (execFvIdent plen s) :=
  .idleCommand (.setResult (.noteIf (.refl _)))

theorem execBcExhausted_onward {s : State} (hs : s.calm = true) : LeadsOnward s (execBcExhausted s) := by
  refine .portCommand hs (.bind (onCur_holds (overrun_holds _)) fun past t _ => ?_)
  split
  · exact .pure trivial
  · refine .bind (onCur_holds (exhausted_holds _)) fun ended u _ => ?_
    split <;> exact .pure trivial

theorem execRcInit_onward {s : State} (hs : s.calm = true) : LeadsOnward s (execRcInit s) :=
  .portCommand hs (.bind (onCur_holds (.update (Cursor.align_onward _))) fun _ _ _ =>
    .bind (onPpm_holds (rcInit_holds _)) fun _ _ _ => .pure trivial)

theorem execWinFlush_onward {s : State} (hs : s.calm = true) : LeadsOnward s (execWinFlush s) := by
  have hacc : s.Onward s.accept := .accept (.refl s)
  have h := doFlush_holds false s.accept
  unfold execWinFlush flush
  split
  · cases hx : doFlush false s.accept with
    | ok a t => exact .next (hacc.trans (h.ok (hacc.calm hs) hx).1)
    | error e t =>
      obtain ⟨hst, he⟩ := h.error (hacc.calm hs) hx
      cases e with
      | fatal f => exact .next (.refuse (.setOut (.setSt (.setTf (.refl s)) BitVec.and_self) hst.writes))
      | reset => exact absurd rfl he
  · exact .next (.refuse (.refl s))

theorem execFvExec_onward (kind len : Word) (s : State) : LeadsOnward s (execFvExec kind len s) := by
  refine .idleCommand ?_
  split
  · exact .refl _
  · exact .setVm (.refl _)

theorem execFilter_onward (t : FilterTok) (s : State) : LeadsOnward s (execFilter t s) := by
  refine .next ?_
  split
  · exact s.registerFilter_onward t
  · exact .note (.refl s)

theorem execRepeat_onward (s : State) : LeadsOnward s (execRepeat s) := by
  refine .next ?_
  split
  · split
    · exact .refl s
    · exact .copyMatch (.refl s)
  · exact .note (.refl s)

theorem execHdr_onward (flags chk : Byte) (size : List Byte) (s : State) : LeadsOnward s (execHdr flags chk size s) := by
  have hlatch : s.Onward (s.latchHeader flags size) := .setSes (.refl s) rfl rfl
  refine .next ?_
  split
  · exact .finish (.refl s)
  split
  · exact .finish (.refl s)
  · exact hlatch.trans (State.enterBlock_onward _)

theorem State.Onward.closeTables {s t : State} {f : Fsm} (h : s.Onward t) : s.Onward (t.closeTables f) := h.setLens.setFsm

theorem execLzTables_onward (lens : List (BitVec 4)) (s : State) : LeadsOnward s (execLzTables lens s) := by
  refine .next ?_
  split
  · exact .closeTables (.setTabs (.setTabs (.refl s)))
  · exact .finish (.setTabs (.refl s))

theorem execAudioTables_onward (ch1 : BitVec 2) (lens : List (BitVec 4)) (s : State) :
    LeadsOnward s (execAudioTables ch1 lens s) := by
  refine .next ?_
  split
  · exact .closeTables (.setTok (.setTabs (.setTok (.setTabs (.refl s)))))
  · exact .finish (.setTok (.setTabs (.refl s)))

theorem execPpmHdr_onward (p : Byte) (mem esc : Option Byte) {s : State} (hs : s.calm = true) :
    LeadsOnward s (execPpmHdr p mem esc s) := by
  have hmodel : s.Onward (if p.getLsbD 7 then s.resetModel p (mem.getD 0) else s) := by
    split
    · exact .createModel (.refl s)
    · exact .refl s
  unfold execPpmHdr
  dsimp only
  generalize (if p.getLsbD 7 then s.resetModel p (mem.getD 0) else s) = u at *
  split
  · exact .next hmodel.finish
  · refine .runOp hs (hmodel.trans ?_) (ppmBlockBegin_holds _)
    split
    · exact .setPpm (.refl u)
    · exact .refl u

/-! ### Every instruction -/

/-- Every instruction but those that reach what is the host's leads onward. -/
theorem exec_onward {i : Instr} {s : State} (hi : i.Plain) (hs : s.calm = true) : LeadsOnward s (exec i s) := by
  cases i with
  | start | reset | cancel | bcAttach | winInit => cases hi
  | nop => exact .next (.accept (.refl s))
  | bcPeek n => exact .portCommand hs (.bind (onCur_holds (peek_holds _ _)) fun _ _ _ => .pure trivial)
  | bcConsume n => exact execBcConsume_onward n s
  | bcRefill => exact .portCommand hs (.bind (onCur_holds (refill_holds _)) fun _ _ _ => .pure trivial)
  | bcAlign => exact execBcAlign_onward s
  | bcExhausted => exact execBcExhausted_onward hs
  | hufSetlen index length => exact execHufSetlen_onward index length s
  | hufBuild id count => exact execHufBuild_onward id count s
  | hufDecode id => exact .portCommand hs (.bind (decodeTable_holds _ _ _) fun _ _ _ => .pure trivial)
  | winPut byte => exact execWinPut_onward byte s
  | winCopy distance length => exact execWinCopy_onward distance length s
  | winRead index => exact execWinRead_onward index s
  | winStat => exact execWinStat_onward s
  | fvRead off => exact execFvRead_onward off s
  | winFlush => exact execWinFlush_onward hs
  | ppmInit order bytes => exact execPpmInit_onward order bytes s
  | ppmDecode => exact .portCommand hs (.bind (onPpmQuietly_holds (ppmDecode_holds _)) fun _ _ _ => .pure trivial)
  | saAlloc n => exact execSaAlloc_onward n s
  | saFree index n => exact execSaFree_onward index n s
  | rcInit => exact execRcInit_onward hs
  | saInit units => exact execSaInit_onward units s
  | fvLoad off byte => exact execFvLoad_onward off byte s
  | fvSetreg reg value => exact execFvSetreg_onward reg value s
  | fvExec kind len => exact execFvExec_onward kind len s
  | fvIdent plen => exact execFvIdent_onward plen s
  | lit _ | ppmLit _ | ppmLitesc => exact .next (.put (.refl s))
  | end00 | audEnd00 => exact .runOp hs (.refl s) (segmentEnd_holds s)
  | end01 | audEnd01 => exact .runOp hs (.refl s) (newTables_holds s)
  | end10 | audEnd10 | ppmNewfile => exact .runOp hs (.refl s) (endFile_holds s)
  | end11 | audEnd11 => exact .runOp hs (.setTabs (.refl s)) (endFile_holds s.dropTables)
  | filter t => exact execFilter_onward t s
  | repeatLast => exact execRepeat_onward s
  | cache0 l e | cache1 l e | cache2 l e | cache3 l e => exact .next (s.cacheToken_onward _ l e)
  | match0 e1 d e2 | match1 e1 d e2 | match2 e1 d e2 | match3 e1 d e2 | match4 e1 d e2 | match5 e1 d e2
  | match6 e1 d e2 | match7 e1 d e2 | match8 e1 d e2 | match9 e1 d e2 | match10 e1 d e2 | match11 e1 d e2
  | match12 e1 d e2 | match13 e1 d e2 | match14 e1 d e2 | match15 e1 d e2 | match16 e1 d e2 | match17 e1 d e2
  | match18 e1 d e2 | match19 e1 d e2 | match20 e1 d e2 | match21 e1 d e2 | match22 e1 d e2 | match23 e1 d e2
  | match24 e1 d e2 | match25 e1 d e2 | match26 e1 d e2 | match27 e1 d e2 =>
    exact .next (s.matchToken_onward _ e1 d e2)
  | audDelta d => exact .next (.put (.setTok (.refl s)))
  | ppmFilter t | filterTok t => exact .next (s.registerFilter_onward t)
  | ppmMatch d2 d1 d0 l => exact .next (.copyMatch (.refl s))
  | ppmReserved c => exact .runOp hs (.refl s) (fallback_holds s)
  | ppmonlyByte b => exact .runOp hs (.refl s) (emit_holds [b] s)
  | hdr flags chk size => exact execHdr_onward flags chk size s
  | lenV _ | len15 | lenZrun _ => exact .next (.setTabs (.refl s))
  | audioTables ch1 lens => exact execAudioTables_onward ch1 lens s
  | lzTables lens => exact execLzTables_onward lens s
  | ppmHdr p mem esc => exact execPpmHdr_onward p mem esc hs
  | fkNone | fkE8 | fkE8E9 | fkItanium | fkDelta | fkRgb | fkAudio => exact .next (.setVm (.refl s))

/-- Every step of the CORE's own leads onward. -/
theorem step_onward {s : State} (hs : s.calm = true) (hq : s.quiet = true) : LeadsOnward s (step s) := by
  have hf : (coreFetch s.tick).Onward s := .after s.tick_onward (coreFetch_onward _ (s.tick_onward.calm hs))
  unfold step
  rw [fetchNext_quiet hq]
  cases hc : coreFetch s.tick with
  | instr i u =>
    rw [hc] at hf
    exact fun t ht => hf.1.trans (exec_onward hf.2 (hf.1.calm hs) t ht)
  | done u =>
    rw [hc] at hf
    exact .next hf
  | fault f => exact fun _ ht => nomatch ht

/-! ### The instructions that reach what is the host's -/

theorem exec_cancel_next {s t : State} (h : exec .cancel s = .next t) : t = s.accept.setPar { s.par with cancel := true } :=
  (Host.Outcome.next.inj h).symm

theorem exec_bcAttach_next {s t : State} (h : exec .bcAttach s = .next t) :
    t = s.refuse ∨ t = s.accept.setCur s.accept.cur.attach :=
  idleCommand_next (f := fun s => s.setCur s.cur.attach) h

/-- `WIN.INIT` changes the window, the target, `FILE_START`, the filter queue and `WRITTEN` (R172). -/
theorem exec_winInit_keeps {s t : State} (h : exec .winInit s = .next t) :
    t.cur = s.cur ∧ t.par = s.par ∧ t.st.events = s.st.events ∧ t.ses.verL = s.ses.verL ∧ t.catalogue = s.catalogue ∧
      t.readData = s.readData := by
  unfold exec execWinInit at h
  obtain rfl | rfl := idleCommand_next h <;> exact ⟨rfl, rfl, rfl, rfl, rfl, rfl⟩

/-! ### The obligations -/

/-- Settles O58: an instruction that reaches nothing of the host's and a step of the CORE's own lead onward; `CANCEL`, `BC.ATTACH`
and `WIN.INIT` keep what the statement asks of each, read off their effects. -/
theorem onlyTheHostReachesTheParameters : Obligations.OnlyTheHostReachesTheParameters := by
  refine ⟨fun i s t hs h => ?_, fun s t hs hq h => ?_⟩
  · obtain hp | rfl | rfl | rfl | rfl | rfl := Instr.plain_or i
    · have ho := exec_onward hp hs t h
      exact ⟨fun _ => ho.par, fun _ => ⟨ho.events, ho.verL, ho.catalogue, ho.readData⟩,
        fun _ => ⟨ho.w, ho.targetL, ho.tw⟩⟩
    · simp
    · simp
    · obtain rfl := exec_cancel_next h
      exact ⟨fun hn => absurd hn (by simp), fun _ => ⟨BitVec.and_self, rfl, rfl, rfl⟩,
        fun _ => ⟨rfl, rfl, Nat.le_refl _⟩⟩
    · obtain rfl | rfl := exec_bcAttach_next h <;>
        exact ⟨fun _ => rfl, fun _ => ⟨BitVec.and_self, rfl, rfl, rfl⟩, fun _ => ⟨rfl, rfl, Nat.le_refl _⟩⟩
    · obtain ⟨-, hpar, hevents, hver, hcat, hread⟩ := exec_winInit_keeps h
      exact ⟨fun _ => hpar, fun _ => ⟨by rw [hevents, BitVec.and_self], hver, hcat, hread⟩, fun hn => absurd hn (by simp)⟩
  · have ho := step_onward hs hq t h
    exact ⟨ho.par, ⟨ho.events, ho.verL, ho.catalogue, ho.readData⟩, ho.w, ho.targetL, ho.tw⟩

/-- Settles O60: what leads onward takes no bit back; `CANCEL` and `WIN.INIT` leave the cursor. -/
theorem bitposNeverGoesBack : Obligations.BitposNeverGoesBack := by
  refine ⟨fun i s t hs h hi => ?_, fun s t hs hq h => (step_onward hs hq t h).cur.bitpos⟩
  obtain hp | rfl | rfl | rfl | rfl | rfl := Instr.plain_or i
  · exact (exec_onward hp hs t h).cur.bitpos
  · simp at hi
  · simp at hi
  · obtain rfl := exec_cancel_next h
    exact Nat.le_refl _
  · simp at hi
  · obtain ⟨hcur, -⟩ := exec_winInit_keeps h
    rw [hcur]

end Sys2Proof.Machine
end

section
/-! PROOFS. The parameter/status port (spec/10_state.md R30 to R45): a register access that is due is the step; what a read gives,
and what a write reaches. -/

namespace Sys2Proof.Machine

/-- An action of the host that is due is what the step performs (log entry 4). -/
theorem step_due {s : State} {d : Nat} {a : HostAction} {rest : List HostEvent} (hhost : s.host = ⟨d, a⟩ :: rest)
    (hdue : d = 0 ∨ s.isIdle = true) {t : State} (hf : hostFetch a (s.setHost rest) = .done t) : step s = .next t := by
  have hfetch : fetchNext s = .done t := by
    unfold fetchNext
    rw [hhost]
    exact (if_pos hdue).trans hf
  unfold step
  rw [hfetch]

/-- The two indices whose read brings `CONSUMED` up to date. -/
theorem consumed_index_iff (idx : Byte) : (idx = 0x15 ∨ idx = 0x16) ↔ (idx.toNat = 0x15 ∨ idx.toNat = 0x16) := by
  simp only [← BitVec.toNat_inj]
  rfl

/-- A register by its index as a number. -/
theorem State.register_at (s : State) {idx : Byte} {k : Nat} (h : idx.toNat = k) :
    s.register idx = s.register (BitVec.ofNat 8 k) := by
  rw [← h, BitVec.ofNat_toNat, BitVec.setWidth_eq]

/-! ### Reads -/

/-- What a read does: the host gets the register's value, or 0 with `CMD_ERR` for an index that R30 does not list; `CONSUMED` is
brought up to date when it is read. -/
theorem State.regRead_eq (s : State) (idx : Byte) : s.regRead idx = { s with
    readData := (s.register idx).getD 0
    st := { s.st with
      cmdErr := (s.register idx).isNone
      consumed := if idx = 0x15 ∨ idx = 0x16 then s.cur.consumedBytes else s.st.consumed } } := by
  unfold State.regRead
  cases h : s.register idx with
  | some v =>
    dsimp only
    split <;> rfl
  | none =>
    have hother : ¬ (idx = 0x15 ∨ idx = 0x16) := by
      rintro (rfl | rfl) <;> cases h
    dsimp only
    rw [if_neg hother]
    rfl

/-- An index that R30 does not list reads nothing. -/
theorem State.register_unlisted {s : State} {idx : Byte} (h : idx.toNat ∉ [0x00, 0x01, 0x02, 0x03, 0x04, 0x05, 0x06, 0x07,
    0x08, 0x10, 0x11, 0x12, 0x13, 0x14, 0x15, 0x16, 0x17, 0x18, 0x19]) : s.register idx = none := by
  unfold State.register
  split
  case h_20 => rfl
  all_goals
    rename_i hidx
    exact absurd h (by simp [hidx])

theorem ofNat_mod_word (n : Nat) : BitVec.ofNat 32 (n % 2 ^ 32) = BitVec.ofNat 32 n := by
  apply BitVec.eq_of_toNat_eq
  simp

/-- `STATUS` (R39) as a sum: the two fields share no bit. -/
theorem status_word (k : ResultKind) (idle : Bool) :
    k.code ||| (bitWord !idle) <<< 4 =
      (match k with | .none => 0 | .success => 1 | .partialRun => 2 | .failure => 3) + if idle then 0 else 16 := by
  cases k <;> cases idle <;> rfl

theorem reason_word (r : Reason) : r.code =
    (match r with | .none => 0 | .hdrChecksum => 1 | .truncated => 2 | .corrupt => 3 | .writeFail => 4) := by
  cases r <;> rfl

theorem detail_word (d : Detail) : d.code =
    (match d with
    | .none => 0 | .badHeader => 1 | .noTables => 2 | .tableRejected => 3 | .nomem => 4 | .readFail => 5 | .ppmStream => 6) := by
  cases d <;> rfl

/-! ### Writes -/

/-- A write that reaches a parameter register. -/
theorem State.regWrite_reaches {s : State} {idx : Byte} {v : Word} {p : Params} (hmay : s.isIdle = true ∨ idx.toNat = 8)
    (hp : s.par.write idx v = some p) : s.regWrite idx v = { s with par := p, st := { s.st with cmdErr := false } } := by
  have hcond : (s.isIdle || idx == 0x08) = true := by
    rw [Bool.or_eq_true, beq_iff_eq]
    exact hmay.imp_right fun h => BitVec.eq_of_toNat_eq h
  unfold State.regWrite
  rw [if_pos hcond, hp]
  rfl

/-- A write that is ignored: to no writable register, or to another than `CTRL` while busy. -/
theorem State.regWrite_ignored {s : State} {idx : Byte} {v : Word}
    (h : s.par.write idx v = none ∨ s.isIdle = false ∧ idx.toNat ≠ 8) :
    s.regWrite idx v = { s with st := { s.st with cmdErr := true } } := by
  unfold State.regWrite
  obtain hnone | ⟨hbusy, hidx⟩ := h
  · rw [hnone]
    split <;> rfl
  · have hne : idx ≠ 0x08 := fun h => hidx (congrArg BitVec.toNat h)
    rw [hbusy, Bool.false_or, beq_false_of_ne hne, if_neg Bool.false_ne_true]
    rfl

/-- A write by the register's index as a number. -/
theorem Params.write_at (p : Params) {idx : Byte} (v : Word) {k : Nat} (h : idx.toNat = k) :
    p.write idx v = p.write (BitVec.ofNat 8 k) v := by
  rw [← h, BitVec.ofNat_toNat, BitVec.setWidth_eq]

/-- The named bits of a parameter register are the low bits of the word (R30). -/
theorem setWidth_eq_lowBits (v : Word) (n : Nat) : v.setWidth n = v.extractLsb' 0 n := by
  apply BitVec.eq_of_toNat_eq
  simp

theorem Params.write_none {p : Params} {idx : Byte} {v : Word} (h : idx.toNat = 0 ∨ 8 < idx.toNat) : p.write idx v = none := by
  unfold Params.write
  split
  case h_9 => rfl
  all_goals omega

/-- The step of a write that is due and reaches a parameter register. -/
theorem step_regWrite_reaches {s : State} {d : Nat} {idx : Byte} {v : Word} {rest : List HostEvent} {p : Params}
    (hhost : s.host = ⟨d, .regWrite idx v⟩ :: rest) (hdue : d = 0 ∨ s.isIdle = true)
    (hmay : s.isIdle = true ∨ idx.toNat = 8) (hp : s.par.write idx v = some p) :
    step s = .next { s with host := rest, par := p, st := { s.st with cmdErr := false } } :=
  (step_due hhost hdue rfl).trans (congrArg _ (State.regWrite_reaches (s := s.setHost rest) hmay hp))

/-- The step of a write that is due and is ignored. -/
theorem step_regWrite_ignored {s : State} {d : Nat} {idx : Byte} {v : Word} {rest : List HostEvent}
    (hhost : s.host = ⟨d, .regWrite idx v⟩ :: rest) (hdue : d = 0 ∨ s.isIdle = true)
    (h : s.par.write idx v = none ∨ s.isIdle = false ∧ idx.toNat ≠ 8) :
    step s = .next { s with host := rest, st := { s.st with cmdErr := true } } :=
  (step_due hhost hdue rfl).trans (congrArg _ (State.regWrite_ignored (s := s.setHost rest) h))

/-! ### The obligation -/

/-- Settles O57: the access is the step; each listed index is looked up, each write runs through `Params.write`. -/
theorem registerPortReadsAndWrites : Obligations.RegisterPortReadsAndWrites := by
  intro s d idx rest hdue
  refine ⟨fun hhost => ?_, fun v hhost => ?_⟩
  · refine ⟨_, step_due hhost hdue rfl, ?_⟩
    rw [State.regRead_eq]
    refine ⟨fun v hv => ?_, fun hn => ?_, if_congr (consumed_index_iff idx) rfl rfl, rfl⟩
    · have hreg : (s.setHost rest).register idx = some v := by
        simp only [List.mem_cons, Prod.mk.injEq, List.not_mem_nil, or_false] at hv
        rcases hv with ⟨hi, rfl⟩ | ⟨hi, rfl⟩ | ⟨hi, rfl⟩ | ⟨hi, rfl⟩ | ⟨hi, rfl⟩ | ⟨hi, rfl⟩ | ⟨hi, rfl⟩ |
          ⟨hi, rfl⟩ | ⟨hi, rfl⟩ | ⟨hi, rfl⟩ | ⟨hi, rfl⟩ | ⟨hi, rfl⟩ | ⟨hi, rfl⟩ | ⟨hi, rfl⟩ |
          ⟨hi, rfl⟩ | ⟨hi, rfl⟩ | ⟨hi, rfl⟩ | ⟨hi, rfl⟩ | ⟨hi, rfl⟩
        all_goals refine (State.register_at _ hi).trans ?_
        iterate 9 exact rfl
        · exact congrArg some (status_word _ _)
        · exact congrArg some (reason_word _)
        · exact congrArg some (detail_word _)
        · exact congrArg some (ofNat_mod_word _).symm
        · exact rfl
        · exact congrArg some (ofNat_mod_word _).symm
        iterate 4 exact rfl
      rw [hreg]
      exact ⟨rfl, rfl⟩
    · rw [State.register_unlisted hn]
      exact ⟨rfl, rfl⟩
  · have hreaches {p : Params} := step_regWrite_reaches (p := p) hhost hdue
    refine ⟨fun hi => hreaches (.inr hi) (Params.write_at _ v hi), fun hidle => ?_,
      fun h => step_regWrite_ignored hhost hdue ?_⟩
    · rw [← setWidth_eq_lowBits, ← setWidth_eq_lowBits]
      refine ⟨?_, ?_, ?_, ?_, ?_, ?_, ?_⟩ <;> exact fun hi => hreaches (.inl hidle) (Params.write_at _ v hi)
    · obtain h0 | h8 | hbusy := h
      · exact .inl (Params.write_none (.inl h0))
      · exact .inl (Params.write_none (.inr h8))
      · exact .inr hbusy

end Sys2Proof.Machine
end

section
/-! PROOFS. What reaches the window and the output (spec/10_state.md R25, R42, spec/42_window.md R163, R165, spec/48_session.md
R366): bytes that go into the window overwrite none that is less than `W` bytes old; reading leaves both alone; a flush moves `TF`
and appends to the output. -/

namespace Sys2Proof.Machine

/-! ### Bytes that go into the window -/

/-- `n` bytes go into the window: what of the bytes before them still is in the window after them reads as before. -/
structure Window.Puts (n : Nat) (x y : Window) : Prop where
  w : y.w = x.w
  tf : y.tf = x.tf
  kept : Memory.wf x.mem = true → x.pos = x.tw % x.w → ∀ a < x.tw, (0 < n → x.tw + n ≤ a + x.w) → y.byteAt a = x.byteAt a

/-- Offsets less than `w` apart have different addresses in a window of `w` bytes. -/
theorem mod_ne_of_lt_of_lt {a b w : Nat} (hab : a < b) (hbw : b < a + w) : a % w ≠ b % w := fun h => by
  have hdiv : (b - a) % w = 0 := Nat.sub_mod_eq_zero_of_mod_eq h.symm
  rw [Nat.mod_eq_of_lt (by omega)] at hdiv
  omega

theorem Window.put_puts (x : Window) (b : Byte) : x.Puts 1 (x.put b) where
  w := rfl
  tf := rfl
  kept hwf hpos a ha hroom := by
    have hrising : Sparse.rising x.mem = true := (Bool.and_eq_true_iff.1 hwf).1
    have hne : a % x.w ≠ x.pos := hpos ▸ mod_ne_of_lt_of_lt ha (by omega)
    show Memory.read (x.put b).mem (a % x.w) = Memory.read x.mem (a % x.w)
    rw [Window.read_put x b _ hrising, if_neg hne]

theorem Window.copySteps_puts (zero : Bool) (d n : Nat) (x : Window) : x.Puts n (Window.copySteps zero d n x) where
  w := Window.copySteps_w zero d n x
  tf := Window.copySteps_tf zero d n x
  kept hwf hpos a ha hroom := by
    induction n generalizing x with
    | zero => rfl
    | succ n ih =>
      rw [Window.copySteps]
      generalize (if zero then 0 else x.byteAt (x.back d)) = b
      have hpos' : (x.put b).pos = (x.put b).tw % (x.put b).w := by simp [hpos, Nat.add_mod]
      calc (Window.copySteps zero d n (x.put b)).byteAt a
          = (x.put b).byteAt a :=
            ih _ (x.wf_put b hwf) hpos' (by rw [Window.put_tw]; omega) (by rw [Window.put_tw, Window.put_w]; omega)
        _ = x.byteAt a := (x.put_puts b).kept hwf hpos a ha (by omega)

/-- `n` bytes go into the window, and nothing goes out. -/
structure State.Puts (n : Nat) (s t : State) : Prop where
  win : s.win.Puts n t.win
  out : t.out = s.out
  written : t.st.written = s.st.written

theorem State.put_puts (s : State) (b : Byte) : s.Puts 1 (s.put b) := ⟨s.win.put_puts b, rfl, rfl⟩

theorem State.noteIf_written (s : State) (b : Bool) (e : Event) : (s.noteIf b e).st.written = s.st.written := by
  cases b <;> rfl

theorem State.copyMatch_puts (s : State) (d n : Nat) : s.Puts n (s.copyMatch d n) where
  win := by rw [State.copyMatch_win]; exact Window.copySteps_puts _ d n s.win
  out := s.copyMatch_out d n
  written := State.noteIf_written _ _ _

/-! ### Reading -/

/-- Neither the window nor the output nor `WRITTEN` nor `LAST_LEN` changes. -/
structure State.Reads (s t : State) : Prop where
  win : t.win = s.win
  out : t.out = s.out
  written : t.st.written = s.st.written
  lastLen : t.tok.lastLen = s.tok.lastLen

theorem State.Reads.refl (s : State) : s.Reads s := ⟨rfl, rfl, rfl, rfl⟩

theorem State.Reads.trans {s t u : State} (h : s.Reads t) (k : t.Reads u) : s.Reads u :=
  ⟨k.win.trans h.win, k.out.trans h.out, k.written.trans h.written, k.lastLen.trans h.lastLen⟩

theorem State.Reads.noteIf {s t : State} {b : Bool} {e : Event} (h : s.Reads t) : s.Reads (t.noteIf b e) :=
  h.trans ⟨t.noteIf_win b e, t.noteIf_out b e, t.noteIf_written b e, by rw [t.noteIf_tok b e]⟩

/-! ### Flushing -/

/-- Of the window only `TF` changes; the output grows, and `WRITTEN` counts it if no `RESET` comes during a write; `LAST_LEN`
stays. -/
structure State.Emits (s t : State) : Prop where
  win : t.win = { s.win with tf := t.win.tf }
  grows : ∃ more, t.out.bytes = s.out.bytes ++ more
  counted : s.out.answers.all PortWrite.calm = true → t.out.answers.all PortWrite.calm = true ∧
    t.st.written + s.out.bytes.length = s.st.written + t.out.bytes.length
  lastLen : t.tok.lastLen = s.tok.lastLen

theorem State.Reads.emits {s t : State} (h : s.Reads t) : s.Emits t where
  win := by rw [h.win]
  grows := ⟨[], by rw [h.out, List.append_nil]⟩
  counted hs := by rw [h.out, h.written]; exact ⟨hs, rfl⟩
  lastLen := h.lastLen

theorem FlushFrame.emits {s t : State} (h : FlushFrame s t) : s.Emits t where
  win := h.win
  grows := h.grows
  counted := h.counted
  lastLen := by rw [h.tok]

theorem State.Emits.refl (s : State) : s.Emits s := (State.Reads.refl s).emits

theorem State.Emits.trans {s t u : State} (h : s.Emits t) (k : t.Emits u) : s.Emits u where
  win := by rw [k.win, h.win]
  grows := by
    obtain ⟨l, hl⟩ := h.grows
    obtain ⟨m, hm⟩ := k.grows
    exact ⟨l ++ m, by rw [hm, hl, List.append_assoc]⟩
  counted hs := by
    obtain ⟨ht, hst⟩ := h.counted hs
    obtain ⟨hu, htu⟩ := k.counted ht
    exact ⟨hu, by omega⟩
  lastLen := k.lastLen.trans h.lastLen

theorem State.Emits.finish (s : State) (k : ResultKind) (r : Reason) (d : Detail) : s.Emits (s.finish k r d) :=
  State.Reads.emits ⟨rfl, rfl, rfl, rfl⟩

/-! ### The two contracts -/

/-- An operation reads, however it ends. -/
def readContract {ε : Type} : Contract State ε where
  pre _ := True
  rel := State.Reads
  err _ := True
  refl := .refl
  trans := .trans
  keeps _ _ := trivial

/-- An operation changes no more than a flush does, however it ends. -/
def emitContract {ε : Type} : Contract State ε where
  pre _ := True
  rel := State.Emits
  err _ := True
  refl := .refl
  trans := .trans
  keeps _ _ := trivial

section
variable {α ε : Type}

/-- What reads changes no more than a flush does. -/
theorem Contract.Holds.emits {x : EStateM ε State α} {s : State} {post : α → Prop} (h : readContract.Holds x s post) :
    emitContract.Holds x s post where
  ok hs hx := (h.ok hs hx).imp_left State.Reads.emits
  error hs hx := (h.error hs hx).imp_left State.Reads.emits

/-- An operation whose end is known, well or not. -/
theorem Contract.Holds.of_endState {K : Contract State Halt} {x : M α} {s : State} (herr : ∀ e, K.err e)
    (h : K.rel s (endState (x s))) : K.Holds x s where
  ok _ hx := by rw [hx] at h; exact ⟨h, trivial⟩
  error _ hx := by rw [hx] at h; exact ⟨h, herr _⟩

theorem FlushFrame.holds {x : M α} {s : State} (h : FlushFrame s (endState (x s))) : emitContract.Holds x s :=
  .of_endState (fun _ => trivial) h.emits

/-- An update by a plain assignment. -/
theorem Contract.Holds.assign {f : State → State} {s : State} (h : s.Reads (f s)) :
    emitContract.Holds (ε := ε) (modify f) s := .update h.emits

theorem onCur_reads (x : CurM α) (s : State) : readContract.Holds (onCur x) s := by
  refine .of_endState (fun _ => trivial) ?_
  unfold onCur
  split <;> exact ⟨rfl, rfl, rfl, rfl⟩

theorem State.setWorld_reads (s : State) (w : PpmWorld) : s.Reads (s.setWorld w) := ⟨rfl, rfl, rfl, rfl⟩

theorem onPpm_reads (x : PpmM α) (s : State) : readContract.Holds (onPpm x) s := by
  refine .of_endState (fun _ => trivial) ?_
  unfold onPpm
  split <;> exact (s.setWorld_reads _).noteIf

theorem onPpmQuietly_reads (x : PpmM α) (s : State) : readContract.Holds (onPpmQuietly x) s := by
  refine .of_endState (fun _ => trivial) ?_
  unfold onPpmQuietly
  split <;> exact s.setWorld_reads _

end

/-! ### The shared operations -/

theorem doFlush_emits (final : Bool) (s : State) : emitContract.Holds (doFlush final) s := (FlushFrame.doFlush final s).holds

theorem State.readTables_reads (s : State) (f : Fsm) : s.Reads (s.readTables f) := by
  unfold State.readTables
  split <;> exact ⟨rfl, rfl, rfl, rfl⟩

theorem State.createModel_reads (s : State) (order units : Nat) : s.Reads (s.createModel order units) := ⟨rfl, rfl, rfl, rfl⟩

theorem endFile_emits (s : State) : emitContract.Holds endFile s :=
  .bind (doFlush_emits true s) fun _ _ _ => .assign ⟨rfl, rfl, rfl, rfl⟩

theorem segmentEnd_emits (s : State) : emitContract.Holds segmentEnd s :=
  .bind (doFlush_emits false s) fun _ _ _ => .assign ⟨rfl, rfl, rfl, rfl⟩

theorem fallback_emits (s : State) : emitContract.Holds fallback s :=
  .bind (.assign ⟨rfl, rfl, rfl, rfl⟩) fun _ t _ => .bind (doFlush_emits false t) fun _ _ _ => .assign ⟨rfl, rfl, rfl, rfl⟩

theorem newTables_emits (s : State) : emitContract.Holds newTables s :=
  .bind (doFlush_emits false s) fun _ t _ => .assign (t.readTables_reads _)

theorem ppmBlockBegin_emits (s : State) : emitContract.Holds ppmBlockBegin s := by
  refine .get ?_
  split
  · exact .bind (onPpm_reads _ s).emits fun _ _ _ => .assign ⟨rfl, rfl, rfl, rfl⟩
  · exact .bind (.set (State.Reads.emits ⟨rfl, rfl, rfl, rfl⟩)) fun _ t _ => .bind (doFlush_emits false t) fun _ _ _ =>
      .assign ⟨rfl, rfl, rfl, rfl⟩

theorem ppmOnlyBegin_reads (solid : Bool) (s : State) : readContract.Holds (ppmOnlyBegin solid) s := by
  refine .get ?_
  dsimp only
  split
  · refine .bind (.set (s.createModel_reads _ _)) fun _ t _ => .get ?_
    split
    · exact .bind (.throw trivial) fun _ u _ => onPpm_reads rcInit u
    · exact onPpm_reads rcInit t
  · exact onPpm_reads rcInit s

theorem decodeTable_reads (t : HuffTable) (n : Nat) (s : State) : readContract.Holds (decodeTable t n) s :=
  .bind (onCur_reads _ s) fun _ u _ => .bind (.update (State.Reads.refl u).noteIf) fun _ _ _ => .pure trivial

theorem decodeLd_reads (s : State) : readContract.Holds decodeLd s := by
  refine .get ?_
  split
  · exact .bind (decodeTable_reads rkLd Config.nc s) fun _ _ _ => .bind (.update ⟨rfl, rfl, rfl, rfl⟩) fun _ _ _ => .pure trivial
  · exact decodeTable_reads _ _ s

theorem decodeDd_reads (s : State) : readContract.Holds decodeDd s := by
  refine .get ?_
  split
  · exact .bind (decodeTable_reads rkDd Config.dc s) fun _ _ _ => .bind (.update ⟨rfl, rfl, rfl, rfl⟩) fun _ _ _ => .pure trivial
  · exact decodeTable_reads _ _ s

theorem decodeRd_reads (s : State) : readContract.Holds decodeRd s := by
  refine .get ?_
  split
  · exact .bind (decodeTable_reads rkRd Config.rc s) fun _ _ _ => .bind (.update ⟨rfl, rfl, rfl, rfl⟩) fun _ _ _ => .pure trivial
  · exact decodeTable_reads _ _ s

theorem decodeMd_reads (s : State) : readContract.Holds decodeMd s := .get (decodeTable_reads _ _ s)

end Sys2Proof.Machine
end

section
/-! PROOFS. How many bytes an instruction puts into the window: none unless it is a command that fills the window or a token of a
block, and no token of a block more than `MAXTOKEN` (spec/30_encoding.md R95, R97, R106). -/

namespace Sys2Proof

/-- How many bytes an instruction that is carried out puts into the window, where `LAST_LEN` is `last`. -/
def Instr.windowBytes (last : Nat) : Instr → Nat
  | .winPut _ | .lit _ | .audDelta _ | .ppmLit _ | .ppmLitesc => 1
  | .winCopy _ n => n.toNat
  | .repeatLast => last
  | .ppmMatch _ _ _ l => l.toNat + 3
  | .cache0 s e | .cache1 s e | .cache2 s e | .cache3 s e => Machine.cacheLength s e
  | .match0 e1 _ _ => Machine.matchLength 0 e1
  | .match1 e1 _ _ => Machine.matchLength 1 e1
  | .match2 e1 _ _ => Machine.matchLength 2 e1
  | .match3 e1 _ _ => Machine.matchLength 3 e1
  | .match4 e1 _ _ => Machine.matchLength 4 e1
  | .match5 e1 _ _ => Machine.matchLength 5 e1
  | .match6 e1 _ _ => Machine.matchLength 6 e1
  | .match7 e1 _ _ => Machine.matchLength 7 e1
  | .match8 e1 _ _ => Machine.matchLength 8 e1
  | .match9 e1 _ _ => Machine.matchLength 9 e1
  | .match10 e1 _ _ => Machine.matchLength 10 e1
  | .match11 e1 _ _ => Machine.matchLength 11 e1
  | .match12 e1 _ _ => Machine.matchLength 12 e1
  | .match13 e1 _ _ => Machine.matchLength 13 e1
  | .match14 e1 _ _ => Machine.matchLength 14 e1
  | .match15 e1 _ _ => Machine.matchLength 15 e1
  | .match16 e1 _ _ => Machine.matchLength 16 e1
  | .match17 e1 _ _ => Machine.matchLength 17 e1
  | .match18 e1 _ _ => Machine.matchLength 18 e1
  | .match19 e1 _ _ => Machine.matchLength 19 e1
  | .match20 e1 _ _ => Machine.matchLength 20 e1
  | .match21 e1 _ _ => Machine.matchLength 21 e1
  | .match22 e1 _ _ => Machine.matchLength 22 e1
  | .match23 e1 _ _ => Machine.matchLength 23 e1
  | .match24 e1 _ _ => Machine.matchLength 24 e1
  | .match25 e1 _ _ => Machine.matchLength 25 e1
  | .match26 e1 _ _ => Machine.matchLength 26 e1
  | .match27 e1 _ _ => Machine.matchLength 27 e1
  | _ => 0

/-- An instruction that puts nothing into the window. -/
abbrev Instr.OffWindow (i : Instr) : Prop := ∀ last, i.windowBytes last = 0

/-- An instruction that puts at most `MAXTOKEN` bytes into the window if the last match had no more. -/
def Instr.Short (i : Instr) : Prop := ∀ last ≤ Config.maxToken, i.windowBytes last ≤ Config.maxToken

theorem Instr.OffWindow.short {i : Instr} (h : i.OffWindow) : i.Short := fun last _ => h last ▸ Nat.zero_le _

/-- A token of one byte. -/
theorem Instr.short_of_eq_one {i : Instr} (h : ∀ last, i.windowBytes last = 1) : i.Short := fun last _ => by
  rw [h last]
  decide

theorem windowBytes_of_cacheSlot {k s e last : Nat} {i : Instr} (h : Instr.cacheSlot k s e = some i) :
    i.windowBytes last = Machine.cacheLength s e := by
  unfold Instr.cacheSlot at h
  split at h <;> cases h <;> rfl

theorem windowBytes_of_matchSlot {s e1 d e2 last : Nat} {i : Instr} (h : Instr.matchSlot s e1 d e2 = some i) :
    i.windowBytes last = Machine.matchLength s e1 := by
  unfold Instr.matchSlot at h
  split at h <;> cases h <;> rfl

/-! ### The longest tokens (R95, R97) -/

/-- The last length a slot below 28 stands for. -/
theorem lbase_add_lbits_le (s : Nat) (hs : s < Config.rc) : Config.lbase s + 2 ^ Config.lbits s ≤ 256 := by
  have hall : ∀ s < Config.rc, Config.lbase s + 2 ^ Config.lbits s ≤ 256 := by decide
  exact hall s hs

theorem cacheLength_le {s e : Nat} (hs : s < Config.rc) (he : e < 2 ^ Config.lbits s) :
    Machine.cacheLength s e ≤ Config.maxToken := by
  have hlast := lbase_add_lbits_le s hs
  simp only [Machine.cacheLength, Config.minRep, Config.maxToken]
  omega

theorem matchLength_le {s e1 : Nat} (hs : s < Config.rc) (he : e1 < 2 ^ Config.lbits s) :
    Machine.matchLength s e1 ≤ Config.maxToken := by
  have hlast := lbase_add_lbits_le s hs
  simp only [Machine.matchLength, Config.minMatch, Config.maxToken]
  omega

/-! ### Grammars over fields in range -/

/-- The values that raw bits can have; of other fields, any. -/
def Field.InRange : Field → Nat → Prop
  | .raw n, v => v < 2 ^ n
  | _, _ => True

/-- Whatever values in their range the fields have, what the grammar makes meets `P`. -/
def Parse.MakesInRange {α : Type} (P : α → Prop) : Parse α → Prop
  | .ret a => P a
  | .fail _ => True
  | .field f k => ∀ v, f.InRange v → Parse.MakesInRange P (k v)

section
variable {α : Type} {P : α → Prop}

theorem Parse.Makes.inRange {p : Parse α} (h : p.Makes P) : p.MakesInRange P := by
  induction p with
  | ret a => exact h
  | fail r => trivial
  | field f k ih => exact fun v _ => ih v (h v)

/-- What a grammar reads from bits, it makes. -/
theorem Parse.Makes.of_runBits {p : Parse α} (h : p.Makes P) {l r : List Bool} {a : α} (hrun : p.runBits l = .ok (a, r)) :
    P a := by
  induction p generalizing l with
  | ret b =>
    cases hrun
    exact h
  | fail r => cases hrun
  | field f k ih =>
    rw [Parse.runBits] at hrun
    split at hrun
    · cases hrun
    · exact ih _ (h _) hrun

end

/-! ### The grammars of block tokens -/

theorem parseEnd_short {e00 e01 e10 e11 : Instr} (h00 : e00.OffWindow) (h01 : e01.OffWindow) (h10 : e10.OffWindow)
    (h11 : e11.OffWindow) : (parseEnd e00 e01 e10 e11).MakesInRange Instr.Short := by
  intro f _
  show Instr.Short (if f = 0 then e00 else if f = 1 then e01 else if f = 2 then e10 else e11)
  split
  · exact h00.short
  · split
    · exact h01.short
    · split
      · exact h10.short
      · exact h11.short

theorem parseCache_short (k : Nat) : (parseCache k).MakesInRange Instr.Short := by
  intro s _
  dsimp only
  split
  next hs =>
    intro e he
    dsimp only
    split
    next i hi => exact fun last _ => windowBytes_of_cacheSlot hi ▸ cacheLength_le hs he
    next => trivial
  next => trivial

theorem parseMatch_short {s : Nat} (hs : s < Config.rc) : (parseMatch s).MakesInRange Instr.Short := by
  intro e1 he1 d _
  dsimp only
  split
  · intro e2 _
    dsimp only
    split
    next i hi => exact fun last _ => windowBytes_of_matchSlot hi ▸ matchLength_le hs he1
    next => trivial
  · trivial

theorem parseLz_short (g : BitVec 3) : (parseLz g).MakesInRange Instr.Short := by
  intro sym _
  unfold parseLzRest
  split
  · exact Instr.short_of_eq_one fun _ => rfl
  split
  · exact parseEnd_short (fun _ => rfl) (fun _ => rfl) (fun _ => rfl) (fun _ => rfl)
  split
  · split
    · refine Parse.Makes.inRange (Parse.makes_filter _ fun t => ?_)
      exact Instr.OffWindow.short fun _ => rfl
    · exact Instr.OffWindow.short fun _ => rfl
  split
  · exact fun _ h => h
  split
  · split
    · exact parseCache_short _
    · split
      next i hi => exact fun last _ => windowBytes_of_cacheSlot hi ▸ by decide
      next => trivial
  split
  next hsym => exact parseMatch_short (by simp only [Config.nc, Config.thresh, Config.rc] at *; omega)
  next => trivial

theorem parseAud_short : parseAud.MakesInRange Instr.Short := by
  intro sym _
  dsimp only
  split
  · exact Instr.short_of_eq_one fun _ => rfl
  split
  · exact parseEnd_short (fun _ => rfl) (fun _ => rfl) (fun _ => rfl) (fun _ => rfl)
  · trivial

theorem ppmMatch_short (d2 d1 d0 l : Byte) : (Instr.ppmMatch d2 d1 d0 l).Short := by
  intro last _
  have hl : l.toNat < 256 := l.isLt
  show l.toNat + 3 ≤ Config.maxToken
  rw [Config.maxToken]
  omega

theorem parsePpm_short (esc : Byte) : (parsePpm esc).MakesInRange Instr.Short := by
  intro s _
  dsimp only
  split
  · exact Instr.short_of_eq_one fun _ => rfl
  intro c _
  dsimp only
  split
  · exact Instr.short_of_eq_one fun _ => rfl
  split
  · exact Instr.OffWindow.short fun _ => rfl
  split
  · refine Parse.Makes.inRange (Parse.makes_filter _ fun t => ?_)
    exact Instr.OffWindow.short fun _ => rfl
  split
  · exact fun _ _ _ _ _ _ _ _ => ppmMatch_short _ _ _ _
  · exact Instr.OffWindow.short fun _ => rfl

/-! ### The grammars of what puts nothing into the window -/

theorem parsePpmOnly_offWindow : parsePpmOnly.Makes Instr.OffWindow := fun _ _ => rfl

theorem parseHdr_offWindow : parseHdr.Makes Instr.OffWindow := by
  intro flags chk
  dsimp only
  split
  · exact fun _ => rfl
  · exact Parse.makes_bytes _ _ fun _ _ => rfl

theorem parseLen_offWindow : parseLen.Makes Instr.OffWindow := by
  intro v
  dsimp only
  split
  · exact fun _ => rfl
  intro z
  dsimp only
  split <;> exact fun _ => rfl

theorem parsePpmHdr_offWindow : parsePpmHdr.Makes Instr.OffWindow := by
  intro p
  dsimp only
  split
  · intro m
    split
    · exact fun _ _ => rfl
    · exact fun _ => rfl
  · split
    · exact fun _ _ => rfl
    · exact fun _ => rfl

/-- Of the commands, only `WIN.PUT` and `WIN.COPY` put bytes into the window. -/
theorem commandOf_offWindow {op : Nat} {a b : Word} {i : Instr} (h : commandOf op a b = some i) :
    i.OffWindow ∨ i = .winPut a ∨ i = .winCopy a b := by
  unfold commandOf at h
  split at h <;> cases h
  case h_14 => exact .inr (.inl rfl)
  case h_15 => exact .inr (.inr rfl)
  all_goals exact .inl fun _ => rfl

/-- A command that puts nothing into the window, or one of the two that do. -/
abbrev Instr.WindowCommand (i : Instr) : Prop := i.OffWindow ∨ (∃ a, i = .winPut a) ∨ ∃ a b, i = .winCopy a b

theorem decodeCmd_windowCommand {w : BitVec 72} {i : Instr} (h : decodeCmd w = .ok i) : i.WindowCommand := by
  have hmakes : parseCmd.Makes Instr.WindowCommand := by
    intro op a b
    dsimp only
    split
    next i hi => exact (commandOf_offWindow hi).imp_right (.imp (⟨_, ·⟩) (⟨_, _, ·⟩))
    next => trivial
  unfold decodeCmd at h
  cases hd : decode .cmd (natToBits 72 w.toNat) with
  | error e => rw [hd] at h; cases h
  | ok r =>
    rw [hd] at h
    cases h
    exact hmakes.of_runBits hd

end Sys2Proof
end

section
/-! PROOFS. What the CORE's own fetch does to the window and the output: it changes no more than a flush does; and before it reads
a token of a block it has made room for one in the window (spec/48_session.md R360). -/

namespace Sys2Proof.Machine

/-! ### Fields -/

theorem Contract.Holds.imp {σ ε α : Type} {K : Contract σ ε} {x : EStateM ε σ α} {s : σ} {P Q : α → Prop} (h : K.Holds x s P)
    (hPQ : ∀ a, P a → Q a) : K.Holds x s Q where
  ok hs hx := (h.ok hs hx).imp_right (hPQ _)
  error := h.error

theorem reading_reads {α : Type} {x : M α} {s : State} (h : readContract.Holds x s) : readContract.Holds (reading x) s :=
  .lift id .halt h id (fun _ => id) (fun _ _ => trivial) (fun _ _ hx => by simp only [reading, hx, id])
    fun _ _ hx => by simp only [reading, hx, id]

theorem reading_emits {α : Type} {x : M α} {s : State} (h : emitContract.Holds x s) : emitContract.Holds (reading x) s :=
  .lift id .halt h id (fun _ => id) (fun _ _ => trivial) (fun _ _ hx => by simp only [reading, hx, id])
    fun _ _ hx => by simp only [reading, hx, id]

theorem decodePpmByte_reads (s : State) : readContract.Holds decodePpmByte s := by
  refine .bind (reading_reads (onPpm_reads ppmDecode s)) fun r _ _ => ?_
  cases r with
  | byte b => exact .pure trivial
  | endSegment => exact .throw trivial
  | corrupt => exact .throw trivial
  | nomem => exact .throw trivial

theorem Cursor.bitsFrom_lt (c : Cursor) (p n acc : Nat) : c.bitsFrom p n acc < (acc + 1) * 2 ^ n := by
  induction n generalizing p acc with
  | zero => simp [Cursor.bitsFrom]
  | succ n ih =>
    have hbit : (c.bitAt p).toNat ≤ 1 := Bool.toNat_le _
    calc c.bitsFrom (p + 1) n (2 * acc + (c.bitAt p).toNat)
        < (2 * acc + (c.bitAt p).toNat + 1) * 2 ^ n := ih _ _
      _ ≤ (2 * (acc + 1)) * 2 ^ n := Nat.mul_le_mul_right _ (by omega)
      _ = (acc + 1) * 2 ^ (n + 1) := by ring

/-- Raw bits are a number of that many bits (R124). -/
theorem getbits_lt {n v : Nat} {c d : Cursor} (h : getbits n c = .ok v d) : v < 2 ^ n := by
  rw [getbits_eq] at h
  split at h
  next c1 _ =>
    cases h
    simpa [Cursor.look] using c1.bitsFrom_lt (8 * c1.rd + c1.bit.val) n 0
  next => cases h

theorem readField_inRange {f : Field} {s t : State} {v : Nat} (h : readField f s = .ok v t) : f.InRange v := by
  cases f with
  | raw n =>
    have hread : reading (onCur (getbits n)) s = .ok v t := h
    unfold reading at hread
    split at hread
    next a u hu =>
      cases hread
      obtain ⟨c, hc, -⟩ := onCur_ok _ _ _ _ hu
      exact getbits_lt hc
    next => cases hread
  | ld | dd | rd | md | ppm => trivial

theorem readField_reads (f : Field) (s : State) : readContract.Holds (readField f) s := by
  cases f with
  | raw n => exact reading_reads (onCur_reads _ s)
  | ld => exact reading_reads (decodeLd_reads s)
  | dd => exact reading_reads (decodeDd_reads s)
  | rd => exact reading_reads (decodeRd_reads s)
  | md => exact reading_reads (decodeMd_reads s)
  | ppm => exact decodePpmByte_reads s

/-- Running a grammar reads if what an abandoned reading has done by then does; and it gives what the grammar makes. -/
theorem fetchParse_reads {α : Type} {P : α → Prop} {fix : List Nat → State → State}
    (hfix : ∀ vals (s : State), s.Reads (fix vals s)) (p : Parse α) (hp : p.MakesInRange P) (vals : List Nat) (s : State) :
    readContract.Holds (fetchParse fix p vals) s P := by
  induction p generalizing vals s with
  | ret a => exact .pure hp
  | fail r => exact .throw trivial
  | field f k ih =>
    have hf := readField_reads f s
    cases hr : readField f s with
    | ok v t =>
      have hrun : fetchParse fix (.field f k) vals s = fetchParse fix (k v) (vals ++ [v]) t := by simp only [fetchParse, hr]
      exact .after hrun (fun hs => (hf.ok hs hr).1) (ih v (hp v (readField_inRange hr)) _ t)
    | error e t =>
      have hrun : fetchParse fix (.field f k) vals s = .error e (fix vals t) := by simp only [fetchParse, hr]
      exact .of_error hrun fun hs => ⟨(hf.error hs hr).1.trans (hfix vals t), trivial⟩

/-- An instruction a fetch gives meets `P`. -/
abbrev Gives (P : Instr → Prop) (o : Option Instr) : Prop := ∀ i, o = some i → P i

theorem gives_none {P : Instr → Prop} : Gives P none := fun _ h => nomatch h

theorem gives_some {P : Instr → Prop} {i : Instr} (h : P i) : Gives P (some i) := fun _ hj => Option.some.inj hj ▸ h

/-- An instruction read by its grammar. -/
theorem fetchInstr_reads {P : Instr → Prop} {fix : List Nat → State → State} (hfix : ∀ vals (s : State), s.Reads (fix vals s))
    {p : Parse Instr} (hp : p.MakesInRange P) (s : State) : readContract.Holds (some <$> fetchParse fix p []) s (Gives P) :=
  .map (fetchParse_reads hfix p hp [] s) fun _ => gives_some

theorem noEffectYet_reads (vals : List Nat) (s : State) : s.Reads (noEffectYet vals s) := .refl s

theorem lzEffectYet_reads (g : BitVec 3) (vals : List Nat) (s : State) : s.Reads (lzEffectYet g vals s) := by
  unfold lzEffectYet
  split
  · exact .refl s
  · split
    · exact ⟨rfl, rfl, rfl, rfl⟩
    · exact .refl s

theorem ppmHdrEffectYet_reads (vals : List Nat) (s : State) : s.Reads (ppmHdrEffectYet vals s) := by
  unfold ppmHdrEffectYet
  split
  · split
    · exact s.createModel_reads _ _
    · exact .refl s
  · exact .refl s

/-! ### Room for a token (R360, R372) -/

/-- What ran before and what ran after, of a run that ended well. -/
theorem bind_ok {σ ε α β : Type} {x : EStateM ε σ α} {f : α → EStateM ε σ β} {s u : σ} {b : β}
    (h : (x >>= f) s = .ok b u) : ∃ a t, x s = .ok a t ∧ f a t = .ok b u := by
  cases hx : x s with
  | ok a t =>
    have hrun : (x >>= f) s = f a t := by simp only [Bind.bind, EStateM.bind, hx]
    exact ⟨a, t, rfl, hrun ▸ h⟩
  | error e t =>
    have hrun : (x >>= f) s = .error e t := by simp only [Bind.bind, EStateM.bind, hx]
    exact nomatch hrun ▸ h

theorem reading_ok {α : Type} {x : M α} {s t : State} {a : α} (h : reading x s = .ok a t) : x s = .ok a t := by
  unfold reading at h
  split at h
  next hx => exact hx.trans (by cases h; rfl)
  next => cases h

theorem emitUpTo_tf {a : Nat} {s t : State} {r : Unit} (h : emitUpTo a s = .ok r t) : t.win.tf = a := by
  obtain ⟨_, _, -, h⟩ := bind_ok h
  obtain ⟨_, u, -, h⟩ := bind_ok h
  cases h
  rfl

/-- The loop stops only at a block that it leaves in the queue (R368). -/
theorem flushLoop_stop {final : Bool} {b fuel : Nat} {s t : State} (h : flushLoop final b fuel s = .ok false t) :
    t.vm.fq ≠ [] := by
  induction fuel generalizing s with
  | zero => cases h
  | succ fuel ih =>
    obtain ⟨_, _, hget, h⟩ := bind_ok h
    cases hget
    cases hq : s.vm.fq with
    | nil =>
      rw [hq] at h
      cases h
    | cons f rest =>
      rw [hq] at h
      dsimp only at h
      split at h
      · obtain ⟨_, u, -, h⟩ := bind_ok h
        exact ih h
      split at h
      · cases h
      obtain ⟨_, u, -, h⟩ := bind_ok h
      obtain ⟨_, _, hget, h⟩ := bind_ok h
      cases hget
      split at h
      · cases final
        · obtain ⟨_, v, hset, h⟩ := bind_ok h
          cases hset
          cases h
          exact List.cons_ne_nil _ _
        · obtain ⟨_, v, -, h⟩ := bind_ok h
          exact ih h
      · obtain ⟨_, v, -, h⟩ := bind_ok h
        obtain ⟨_, x, -, h⟩ := bind_ok h
        obtain ⟨_, y, -, h⟩ := bind_ok h
        exact ih h

theorem State.Emits.tw {s t : State} (h : s.Emits t) : t.win.tw = s.win.tw := by rw [h.win]

/-- A flush that leaves no filter in the queue has put out all there is. -/
theorem flush_all {s t : State} {r : Unit} (h : flush s = .ok r t) (hq : t.vm.fq = []) : t.win.tf = t.win.tw := by
  have htw : t.win.tw = s.win.tw := ((doFlush_emits false s).ok trivial h).1.tw
  obtain ⟨_, _, hget, h⟩ := bind_ok h
  cases hget
  obtain ⟨go, u, hloop, h⟩ := bind_ok h
  cases go
  · cases h
    exact absurd hq (flushLoop_stop hloop)
  · obtain ⟨_, v, hemit, h⟩ := bind_ok h
    cases h
    rw [emitUpTo_tf hemit, htw]

/-- With nothing pending the window is not full. -/
theorem State.not_windowFull {s : State} (h : s.win.tf = s.win.tw) : s.windowFull = false := by
  simp [State.windowFull, h]

/-- The dropping loop ends with room for a token, since with every filter dropped all is put out. -/
theorem dropUntilFits_room {fuel : Nat} {s t : State} {r : Unit} (hfuel : s.vm.fq.length ≤ fuel)
    (hall : s.vm.fq = [] → s.win.tf = s.win.tw) (h : dropUntilFits fuel s = .ok r t) : t.windowFull = false := by
  induction fuel generalizing s with
  | zero =>
    cases h
    exact State.not_windowFull (hall (List.length_eq_zero_iff.1 (Nat.le_zero.1 hfuel)))
  | succ fuel ih =>
    obtain ⟨_, _, hget, h⟩ := bind_ok h
    cases hget
    split at h
    next hdrop =>
      obtain ⟨_, u, hset, h⟩ := bind_ok h
      cases hset
      obtain ⟨_, v, hflush, h⟩ := bind_ok h
      have hframe := FlushFrame.doFlush false ((s.setFq s.vm.fq.tail).note .filterDropped)
      rw [show doFlush false _ = _ from hflush] at hframe
      have hqueue : v.vm.fq.length ≤ s.vm.fq.tail.length := hframe.queue
      exact ih (by rw [List.length_tail] at hqueue; omega) (flush_all hflush) h
    next hfits =>
      cases h
      cases hq : t.vm.fq with
      | nil => exact State.not_windowFull (hall hq)
      | cons f rest => simpa [hq] using hfits

/-- `maybe_flush` makes room for a token (R360). -/
theorem maybeFlush_room {s t : State} {r : Unit} (h : maybeFlush s = .ok r t) : t.windowFull = false := by
  obtain ⟨_, _, hget, h⟩ := bind_ok h
  cases hget
  split at h
  · obtain ⟨_, u, hflush, h⟩ := bind_ok h
    obtain ⟨_, _, hget, h⟩ := bind_ok h
    cases hget
    exact dropUntilFits_room (Nat.le_refl _) (flush_all hflush) h
  next hfits =>
    cases h
    exact Bool.eq_false_of_not_eq_true hfits

/-! ### The fetch in each state of the dispatcher -/

theorem blockBoundary_emits (s : State) : emitContract.Holds blockBoundary s := by
  refine .get ?_
  split
  · exact .bind (reading_emits (endFile_emits s)) fun _ _ _ => .pure trivial
  · refine .bind (reading_reads (onCur_reads exhausted s)).emits fun ended t _ => ?_
    split
    · exact .throw trivial
    · refine .get ?_
      split
      · exact .bind (reading_emits (segmentEnd_emits t)) fun _ _ _ => .pure trivial
      · exact .pure trivial

theorem ppmBoundary_emits (s : State) : emitContract.Holds ppmBoundary s := by
  refine .get ?_
  split
  · exact .bind (reading_emits (endFile_emits s)) fun _ _ _ => .pure trivial
  · refine .bind (reading_reads (onCur_reads overrun s)).emits fun past t _ => ?_
    split
    · exact .throw trivial
    · exact .pure trivial

/-- The fetch of a token of a block: the boundary checks, `maybe_flush`, and the token by the grammar `g`. -/
def fetchToken (boundary : FetchM Bool) (fix : State → List Nat → State → State) (g : State → Parse Instr) :
    FetchM (Option Instr) := do
  if ← boundary then
    reading maybeFlush
    let s ← get
    some <$> fetchParse (fix s) (g s) []
  else return none

theorem fetchLz_eq : fetchLz = fetchToken blockBoundary (fun s => lzEffectYet s.ses.verL) (fun s => parseLz s.ses.verL) := rfl

theorem fetchAud_eq : fetchAud = fetchToken blockBoundary (fun _ => noEffectYet) (fun _ => parseAud) := rfl

theorem fetchPpm_eq : fetchPpm = fetchToken ppmBoundary (fun _ => noEffectYet) (fun s => parsePpm s.ppm.esc) := rfl

section
variable {boundary : FetchM Bool} {fix : State → List Nat → State → State} {g : State → Parse Instr}

theorem fetchToken_emits (hb : ∀ s, emitContract.Holds boundary s) (hfix : ∀ u vals (s : State), s.Reads (fix u vals s))
    (hg : ∀ u, (g u).MakesInRange Instr.Short) (s : State) :
    emitContract.Holds (fetchToken boundary fix g) s (Gives Instr.Short) := by
  refine .bind (hb s) fun go t _ => ?_
  split
  · exact .bind (reading_emits (FlushFrame.maybeFlush t).holds) fun _ u _ => .get (fetchInstr_reads (hfix u) (hg u) u).emits
  · exact .pure gives_none

/-- When a token has been read there is room for it, for reading moves nothing in the window. -/
theorem fetchToken_room (hfix : ∀ u vals (s : State), s.Reads (fix u vals s)) (hg : ∀ u, (g u).MakesInRange Instr.Short)
    {s t : State} {i : Instr} (h : fetchToken boundary fix g s = .ok (some i) t) : t.windowFull = false := by
  obtain ⟨go, u, -, h⟩ := bind_ok h
  split at h
  · obtain ⟨_, v, hflush, h⟩ := bind_ok h
    obtain ⟨_, _, hget, h⟩ := bind_ok h
    cases hget
    have hread : v.Reads t := ((fetchInstr_reads (hfix v) (hg v) v).ok trivial h).1
    rw [State.windowFull, hread.win]
    exact maybeFlush_room (reading_ok hflush)
  · cases h

end

theorem fetchHdr_emits (s : State) : emitContract.Holds fetchHdr s (Gives Instr.OffWindow) := by
  refine .get ?_
  split
  · exact .bind (reading_emits (endFile_emits s)) fun _ _ _ => .pure gives_none
  · refine .bind (reading_reads (onCur_reads _ s)).emits fun _ t _ =>
      .bind (reading_reads (onCur_reads exhausted t)).emits fun ended u _ => ?_
    split
    · exact .throw trivial
    · exact (fetchInstr_reads noEffectYet_reads parseHdr_offWindow.inRange u).emits

theorem fetchPpmOnly_emits (s : State) : emitContract.Holds fetchPpmOnly s (Gives Instr.OffWindow) := by
  refine .get ?_
  split
  · exact .bind (.assign ⟨rfl, rfl, rfl, rfl⟩) fun _ _ _ => .pure gives_none
  · refine .bind (reading_reads (onCur_reads overrun s)).emits fun past t _ => ?_
    split
    · exact .throw trivial
    · exact (fetchInstr_reads noEffectYet_reads parsePpmOnly_offWindow.inRange t).emits

theorem fetchTables_emits (s : State) : emitContract.Holds fetchTables s (Gives Instr.OffWindow) := by
  refine .get ?_
  split
  · split
    · exact .bind (reading_reads (onCur_reads _ s)).emits fun _ _ _ => .bind (.assign ⟨rfl, rfl, rfl, rfl⟩) fun _ _ _ =>
        .pure gives_none
    · exact .bind (.set (State.Reads.emits ⟨rfl, rfl, rfl, rfl⟩)) fun _ _ _ => .pure gives_none
  · split
    · exact (fetchInstr_reads noEffectYet_reads parseLen_offWindow.inRange s).emits
    · split
      · exact .pure (gives_some fun _ => rfl)
      · exact .pure (gives_some fun _ => rfl)

/-- The dispatcher's states in which the token of a block comes next. -/
abbrev Fsm.InBlock (f : Fsm) : Prop := f = .lz ∨ f = .aud ∨ f = .ppm

/-- What the fetch gives puts nothing into the window but for the tokens of a block, which are short. -/
theorem fetchCore_emits (s : State) :
    emitContract.Holds (fetchCore s) s (Gives fun i => i.OffWindow ∨ i.Short ∧ s.ses.fsm.InBlock) := by
  have hoff {x : FetchM (Option Instr)} (h : emitContract.Holds x s (Gives Instr.OffWindow)) :
      emitContract.Holds x s (Gives fun i => i.OffWindow ∨ i.Short ∧ s.ses.fsm.InBlock) := h.imp fun _ ho i hi => .inl (ho i hi)
  have hblock {x : FetchM (Option Instr)} (hf : s.ses.fsm.InBlock) (h : emitContract.Holds x s (Gives Instr.Short)) :
      emitContract.Holds x s (Gives fun i => i.OffWindow ∨ i.Short ∧ s.ses.fsm.InBlock) :=
    h.imp fun _ ho i hi => .inr ⟨ho i hi, hf⟩
  unfold fetchCore
  split
  · exact .pure gives_none
  · exact .pure gives_none
  · exact hoff (fetchTables_emits s)
  · exact hoff (fetchInstr_reads ppmHdrEffectYet_reads parsePpmHdr_offWindow.inRange s).emits
  all_goals
    split
    · exact .bind (.assign ⟨rfl, rfl, rfl, rfl⟩) fun _ _ _ => .pure gives_none
    · split
      next hf =>
        rw [fetchLz_eq]
        exact hblock (.inl hf) (fetchToken_emits blockBoundary_emits (fun _ => lzEffectYet_reads _) (fun _ => parseLz_short _) s)
      next hf =>
        rw [fetchAud_eq]
        exact hblock (.inr (.inl hf))
          (fetchToken_emits blockBoundary_emits (fun _ => noEffectYet_reads) (fun _ => parseAud_short) s)
      next hf =>
        rw [fetchPpm_eq]
        exact hblock (.inr (.inr hf))
          (fetchToken_emits ppmBoundary_emits (fun _ => noEffectYet_reads) (fun _ => parsePpm_short _) s)
      next => exact hoff (fetchPpmOnly_emits s)
      next => exact hoff (fetchHdr_emits s)

/-- When the token of a block has been fetched there is room for it. -/
theorem fetchCore_room {s t : State} {i : Instr} (hf : s.ses.fsm.InBlock) (h : fetchCore s s = .ok (some i) t) :
    t.windowFull = false := by
  unfold fetchCore at h
  obtain hf | hf | hf := hf <;> rw [hf] at h <;> dsimp only at h <;> split at h
  · cases h
  · rw [fetchLz_eq] at h
    exact fetchToken_room (fun _ => lzEffectYet_reads _) (fun _ => parseLz_short _) h
  · cases h
  · rw [fetchAud_eq] at h
    exact fetchToken_room (fun _ => noEffectYet_reads) (fun _ => parseAud_short) h
  · cases h
  · rw [fetchPpm_eq] at h
    exact fetchToken_room (fun _ => noEffectYet_reads) (fun _ => parsePpm_short _) h

end Sys2Proof.Machine
end

section
/-! PROOFS. What an instruction does to the window and the output: it changes no more than a flush does, or it puts its bytes into
the window; or a `RESET` came while it was blocked in a port call (spec/70_reset_and_hazards.md R430). -/

namespace Sys2Proof.Machine

theorem State.accept_reads (s : State) : s.Reads s.accept := ⟨rfl, rfl, rfl, rfl⟩

theorem State.setResult_reads (s : State) (v : Word) : s.Reads (s.setResult v) := ⟨rfl, rfl, rfl, rfl⟩

/-- The ways an instruction that puts `n` bytes into the window can run. -/
inductive State.Runs (n : Nat) (s t : State) : Prop where
  | emits (h : s.Emits t)
  | puts (h : s.Puts n t)
  | reset {u : State} (h : s.Emits u) (hs : s.calm = false) (ht : t = u.hardReset)

/-- The bytes go into the window after an update of other parts of the state. -/
theorem State.Puts.of_eq {n : Nat} {s u t : State} (h : u.Puts n t) (hwin : u.win = s.win) (hout : u.out = s.out)
    (hwritten : u.st.written = s.st.written) : s.Puts n t :=
  ⟨hwin ▸ h.win, h.out.trans hout, h.written.trans hwritten⟩

theorem State.Reads.runs {n : Nat} {s t : State} (h : s.Reads t) : s.Runs n t := .emits h.emits

/-- An abandoned operation: the fatal condition is raised, or the `RESET` takes effect, which does not happen with calm ports. -/
theorem State.Emits.halted {n : Nat} {s t : State} {e : Halt} (h : s.Emits t) (he : s.calm = true → e ≠ .reset) :
    s.Runs n (t.halted e) := by
  cases e with
  | fatal f => exact .emits (h.trans (.finish t _ _ _))
  | reset => exact .reset h (Bool.eq_false_of_not_eq_true fun hs => he hs rfl) rfl

/-- Every next state of this outcome comes about in one of those ways. -/
def DoesRun (n : Nat) (s : State) (o : Out) : Prop := ∀ t, o = .next t → s.Runs n t

theorem DoesRun.next {n : Nat} {s t : State} (h : s.Runs n t) : DoesRun n s (.next t) := fun _ hu => Host.Outcome.next.inj hu ▸ h

theorem DoesRun.reads {n : Nat} {s t : State} (h : s.Reads t) : DoesRun n s (.next t) := .next h.runs

/-- Where an operation leads, abandoned or not, from a state that is no less calm. -/
theorem State.Emits.settle {n : Nat} {x : M Unit} {s u : State} (hsu : s.Emits u) (hcalm : s.calm = true → u.calm = true)
    (h : emitContract.Holds x u) (hx : coreContract.Holds x u) : s.Runs n (settle x u) := by
  unfold Machine.settle
  cases hr : x u with
  | ok _ t => exact .emits (hsu.trans (h.ok trivial hr).1)
  | error e t => exact (hsu.trans (h.error trivial hr).1).halted fun hs => (hx.error (hcalm hs) hr).2

/-- An instruction that is an operation leads where the operation does. -/
theorem runOp_eq_settle (x : M Unit) (s : State) : runOp x s = .next (settle x s) := by
  unfold runOp settle
  cases x s <;> rfl

theorem DoesRun.runOp {n : Nat} {x : M Unit} {s u : State} (hsu : s.Reads u) (hcalm : s.calm = true → u.calm = true)
    (h : emitContract.Holds x u) (hx : coreContract.Holds x u) : DoesRun n s (runOp x u) := by
  rw [runOp_eq_settle]
  exact .next (hsu.emits.settle hcalm h hx)

theorem DoesRun.idleCommand {n : Nat} {c : Bool} {f : State → State} {s : State} (h : s.Runs n (f s.accept)) :
    DoesRun n s (idleCommand c f s) := by
  intro t ht
  obtain rfl | rfl := idleCommand_next ht
  · exact .emits (State.Reads.emits ⟨rfl, rfl, rfl, rfl⟩)
  · exact h

theorem DoesRun.portCommand {n : Nat} {c : Bool} {x : M (Option Word)} {s : State} (h : readContract.Holds x s.accept)
    (hx : coreContract.Holds x s.accept) : DoesRun n s (portCommand c x s) := by
  have hacc := s.accept_reads
  obtain ⟨-, hr⟩ | ⟨-, -, ⟨v, t, hrun, hr⟩ | ⟨t, hrun, hr⟩ | ⟨f, t, hrun, hr⟩ | ⟨t, hrun, hr⟩⟩ := portCommand_cases c x s <;>
    rw [hr]
  · exact .reads ⟨rfl, rfl, rfl, rfl⟩
  · have hst : s.Reads t := hacc.trans (h.ok trivial hrun).1
    exact .reads (hst.trans ⟨rfl, rfl, rfl, rfl⟩)
  · exact .reads (hacc.trans (h.ok trivial hrun).1)
  · exact .reads ⟨rfl, rfl, rfl, rfl⟩
  · have hst : s.Reads t := hacc.trans (h.error trivial hrun).1
    exact .next (hst.emits.halted fun hs => (hx.error hs hrun).2)

/-! ### Single instructions -/

theorem State.registerFilter_reads (s : State) (t : FilterTok) : s.Reads (s.registerFilter t) := by
  have hstore : s.Reads (s.storeProgram t) := by
    unfold State.storeProgram
    split
    · exact State.Reads.noteIf ⟨rfl, rfl, rfl, rfl⟩
    · exact .refl s
  unfold State.registerFilter
  refine hstore.trans ?_
  dsimp only
  split <;> exact ⟨rfl, rfl, rfl, rfl⟩

theorem State.reserved_reads (s : State) : s.Reads s.reserved := ⟨rfl, rfl, rfl, rfl⟩

theorem State.cacheToken_runs (s : State) (k l e : Nat) : s.Runs (cacheLength l e) (s.cacheToken k l e) := by
  unfold State.cacheToken
  split
  · exact .puts ((State.copyMatch_puts _ _ _).of_eq rfl rfl rfl)
  · exact s.reserved_reads.runs

theorem State.matchToken_puts (s : State) (l e1 d e2 : Nat) : s.Puts (matchLength l e1) (s.matchToken l e1 d e2) :=
  (State.copyMatch_puts _ _ _).of_eq rfl rfl rfl

theorem execBcExhausted_runs {n : Nat} (s : State) : DoesRun n s (execBcExhausted s) := by
  refine .portCommand (.bind (onCur_reads _ _) fun past t _ => ?_) (.bind (onCur_holds (overrun_holds _)) fun past t _ => ?_)
  · split
    · exact .pure trivial
    · refine .bind (onCur_reads _ _) fun ended u _ => ?_
      split <;> exact .pure trivial
  · split
    · exact .pure trivial
    · refine .bind (onCur_holds (exhausted_holds _)) fun ended u _ => ?_
      split <;> exact .pure trivial

theorem execRcInit_runs {n : Nat} (s : State) : DoesRun n s (execRcInit s) :=
  .portCommand
    (.bind (onCur_reads _ _) fun _ _ _ => .bind (onPpm_reads _ _) fun _ _ _ => .pure trivial)
    (.bind (onCur_holds (.update (Cursor.align_onward _))) fun _ _ _ => .bind (onPpm_holds (rcInit_holds _)) fun _ _ _ =>
      .pure trivial)

/-- `WIN.FLUSH` (R178): a port error keeps the `TF`, the `WRITTEN` and the output reached. -/
theorem execWinFlush_runs {n : Nat} (s : State) : DoesRun n s (execWinFlush s) := by
  have hacc : s.Emits s.accept := s.accept_reads.emits
  have h := doFlush_emits false s.accept
  unfold execWinFlush flush
  split
  · cases hx : doFlush false s.accept with
    | ok a t => exact .next (.emits (hacc.trans (h.ok trivial hx).1))
    | error e t =>
      have hst : s.Emits t := hacc.trans (h.error trivial hx).1
      cases e with
      | fatal f => exact .next (.emits ⟨rfl, hst.grows, hst.counted, rfl⟩)
      | reset => exact .next (hst.halted fun hs => ((doFlush_holds false s.accept).error hs hx).2)
  · exact .reads ⟨rfl, rfl, rfl, rfl⟩

theorem execFvExec_runs {n : Nat} (kind len : Word) (s : State) : DoesRun n s (execFvExec kind len s) := by
  refine .idleCommand ?_
  split <;> exact State.Reads.runs ⟨rfl, rfl, rfl, rfl⟩

theorem execFilter_runs {n : Nat} (t : FilterTok) (s : State) : DoesRun n s (execFilter t s) := by
  refine .reads ?_
  split
  · exact s.registerFilter_reads t
  · exact s.reserved_reads

theorem execRepeat_runs (s : State) : DoesRun s.tok.lastLen.toNat s (execRepeat s) := by
  refine .next ?_
  split
  · split
    · exact (State.Reads.refl s).runs
    · exact .puts (s.copyMatch_puts _ _)
  · exact s.reserved_reads.runs

theorem State.enterBlock_reads (s : State) : s.Reads s.enterBlock := by
  unfold State.enterBlock
  split
  · exact ⟨rfl, rfl, rfl, rfl⟩
  split
  · exact s.readTables_reads _
  split <;> exact ⟨rfl, rfl, rfl, rfl⟩

theorem execHdr_runs {n : Nat} (flags chk : Byte) (size : List Byte) (s : State) : DoesRun n s (execHdr flags chk size s) := by
  refine .reads ?_
  split
  · exact ⟨rfl, rfl, rfl, rfl⟩
  split
  · exact ⟨rfl, rfl, rfl, rfl⟩
  · have hlatch : s.Reads (s.latchHeader flags size) := ⟨rfl, rfl, rfl, rfl⟩
    exact hlatch.trans (State.enterBlock_reads _)

theorem State.finish_reads (s : State) (k : ResultKind) (r : Reason) (d : Detail) : s.Reads (s.finish k r d) :=
  ⟨rfl, rfl, rfl, rfl⟩

theorem State.closeTables_reads (s : State) (f : Fsm) : s.Reads (s.closeTables f) := ⟨rfl, rfl, rfl, rfl⟩

theorem State.setTabs_reads (s : State) (t : Tables) : s.Reads (s.setTabs t) := ⟨rfl, rfl, rfl, rfl⟩

theorem execLzTables_runs {n : Nat} (lens : List (BitVec 4)) (s : State) : DoesRun n s (execLzTables lens s) := by
  refine .reads ?_
  split
  · exact ((s.setTabs_reads _).trans (State.setTabs_reads _ _)).trans (State.closeTables_reads _ _)
  · exact (s.setTabs_reads _).trans (State.finish_reads _ _ _ _)

theorem execAudioTables_runs {n : Nat} (ch1 : BitVec 2) (lens : List (BitVec 4)) (s : State) :
    DoesRun n s (execAudioTables ch1 lens s) := by
  have hset (t : Tables) : s.Reads ((s.setTabs t).setTok { s.tok with audioCh := ch1.toNat + 1 }) := ⟨rfl, rfl, rfl, rfl⟩
  refine .reads ?_
  split
  · exact ⟨rfl, rfl, rfl, rfl⟩
  · exact (hset _).trans (State.finish_reads _ _ _ _)

theorem execPpmHdr_runs {n : Nat} (p : Byte) (mem esc : Option Byte) (s : State) : DoesRun n s (execPpmHdr p mem esc s) := by
  have hmodel : s.Reads (if p.getLsbD 7 then s.resetModel p (mem.getD 0) else s) ∧
      s.Onward (if p.getLsbD 7 then s.resetModel p (mem.getD 0) else s) := by
    split
    · exact ⟨s.createModel_reads _ _, .createModel (.refl s)⟩
    · exact ⟨.refl s, .refl s⟩
  unfold execPpmHdr
  dsimp only
  generalize (if p.getLsbD 7 then s.resetModel p (mem.getD 0) else s) = u at *
  obtain ⟨hread, hon⟩ := hmodel
  split
  · exact .reads (hread.trans (u.finish_reads _ _ _))
  · split
    · exact .runOp (hread.trans ⟨rfl, rfl, rfl, rfl⟩) hon.setPpm.calm (ppmBlockBegin_emits _) (ppmBlockBegin_holds _)
    · exact .runOp hread hon.calm (ppmBlockBegin_emits u) (ppmBlockBegin_holds u)

/-! ### Every instruction -/

/-- Every instruction but `START`, `RESET` and `WIN.INIT` runs in one of those ways. -/
theorem exec_runs {i : Instr} (hi : i ∉ [.start, .reset, .winInit]) (s : State) :
    DoesRun (i.windowBytes s.tok.lastLen.toNat) s (exec i s) := by
  cases i with
  | start | reset | winInit => simp at hi
  | nop | cancel => exact .reads ⟨rfl, rfl, rfl, rfl⟩
  | bcAttach | bcConsume _ | bcAlign | hufSetlen _ _ | hufBuild _ _ | winRead _ | winStat | saAlloc _ | saFree _ _ | saInit _
  | fvLoad _ _ | fvSetreg _ _ | fvRead _ =>
    dsimp only [exec]
    refine .idleCommand ?_
    exact State.Reads.runs ⟨rfl, rfl, rfl, rfl⟩
  | ppmInit order bytes =>
    dsimp only [exec]
    refine .idleCommand ?_
    exact ((s.accept_reads.trans (State.createModel_reads _ _ _)).trans (State.setResult_reads _ _)).runs
  | fvIdent plen =>
    dsimp only [exec]
    refine .idleCommand ?_
    exact (s.accept_reads.noteIf.trans (State.setResult_reads _ _)).runs
  | fvExec kind len => exact execFvExec_runs kind len s
  | bcPeek n =>
    exact .portCommand (.bind (onCur_reads _ _) fun _ _ _ => .pure trivial)
      (.bind (onCur_holds (peek_holds _ _)) fun _ _ _ => .pure trivial)
  | bcRefill =>
    exact .portCommand (.bind (onCur_reads _ _) fun _ _ _ => .pure trivial)
      (.bind (onCur_holds (refill_holds _)) fun _ _ _ => .pure trivial)
  | bcExhausted => exact execBcExhausted_runs s
  | hufDecode id =>
    exact .portCommand (.bind (decodeTable_reads _ _ _) fun _ _ _ => .pure trivial)
      (.bind (decodeTable_holds _ _ _) fun _ _ _ => .pure trivial)
  | ppmDecode =>
    exact .portCommand (.bind (onPpmQuietly_reads _ _) fun _ _ _ => .pure trivial)
      (.bind (onPpmQuietly_holds (ppmDecode_holds _)) fun _ _ _ => .pure trivial)
  | rcInit => exact execRcInit_runs s
  | winFlush => exact execWinFlush_runs s
  | winPut byte =>
    dsimp only [exec]
    refine .idleCommand (.puts ?_)
    exact (State.put_puts _ _).of_eq rfl rfl rfl
  | winCopy distance length =>
    dsimp only [exec]
    refine .idleCommand (.puts ?_)
    exact (State.copyMatch_puts _ _ _).of_eq rfl rfl rfl
  | lit _ | ppmLit _ | ppmLitesc => exact .next (.puts (s.put_puts _))
  | audDelta _ => exact .next (.puts ((State.put_puts _ _).of_eq rfl rfl rfl))
  | end00 | audEnd00 => exact .runOp (.refl s) id (segmentEnd_emits s) (segmentEnd_holds s)
  | end01 | audEnd01 => exact .runOp (.refl s) id (newTables_emits s) (newTables_holds s)
  | end10 | audEnd10 | ppmNewfile => exact .runOp (.refl s) id (endFile_emits s) (endFile_holds s)
  | end11 | audEnd11 => exact .runOp ⟨rfl, rfl, rfl, rfl⟩ id (endFile_emits s.dropTables) (endFile_holds s.dropTables)
  | filter t => exact execFilter_runs t s
  | repeatLast => exact execRepeat_runs s
  | cache0 l e | cache1 l e | cache2 l e | cache3 l e => exact .next (s.cacheToken_runs _ l e)
  | match0 e1 d e2 | match1 e1 d e2 | match2 e1 d e2 | match3 e1 d e2 | match4 e1 d e2 | match5 e1 d e2
  | match6 e1 d e2 | match7 e1 d e2 | match8 e1 d e2 | match9 e1 d e2 | match10 e1 d e2 | match11 e1 d e2
  | match12 e1 d e2 | match13 e1 d e2 | match14 e1 d e2 | match15 e1 d e2 | match16 e1 d e2 | match17 e1 d e2
  | match18 e1 d e2 | match19 e1 d e2 | match20 e1 d e2 | match21 e1 d e2 | match22 e1 d e2 | match23 e1 d e2
  | match24 e1 d e2 | match25 e1 d e2 | match26 e1 d e2 | match27 e1 d e2 =>
    exact .next (.puts (s.matchToken_puts _ e1 d e2))
  | ppmFilter t | filterTok t => exact .reads (s.registerFilter_reads t)
  | ppmMatch d2 d1 d0 l => exact .next (.puts (s.copyMatch_puts _ _))
  | ppmReserved c => exact .runOp (.refl s) id (fallback_emits s) (fallback_holds s)
  | ppmonlyByte b => exact .runOp (.refl s) id (FlushFrame.emit [b] s).holds (emit_holds [b] s)
  | hdr flags chk size => exact execHdr_runs flags chk size s
  | lenV _ | len15 | lenZrun _ => exact .reads (s.setTabs_reads _)
  | audioTables ch1 lens => exact execAudioTables_runs ch1 lens s
  | lzTables lens => exact execLzTables_runs lens s
  | ppmHdr p mem esc => exact execPpmHdr_runs p mem esc s
  | fkNone | fkE8 | fkE8E9 | fkItanium | fkDelta | fkRgb | fkAudio => exact .reads ⟨rfl, rfl, rfl, rfl⟩

end Sys2Proof.Machine
end

section
/-! PROOFS. Output only grows, and no byte is overwritten before it is flushed (spec/10_state.md R25, R42, spec/20_memory.md R53,
spec/48_session.md R360, R366): the two claims of an instruction, of the CORE's fetch, and of a step. -/

namespace Sys2Proof.Machine

/-! ### The two claims -/

/-- The output is the old output followed by more bytes, and with calm ports `WRITTEN` has grown by their number. -/
def State.Outputs (s t : State) : Prop :=
  ∃ more, t.out.bytes = s.out.bytes ++ more ∧ (s.calm = true → t.st.written = s.st.written + more.length)

/-- Unless the window is another or `TW` goes back, what was pending and still is reads as before. -/
def State.KeepsPending (s t : State) : Prop :=
  s.win.w = t.win.w → s.win.tw ≤ t.win.tw → ∀ a, t.win.tf ≤ a → a < s.win.tw → t.win.byteAt a = s.win.byteAt a

theorem State.Emits.outputs {s t : State} (h : s.Emits t) : s.Outputs t := by
  obtain ⟨more, hmore⟩ := h.grows
  refine ⟨more, hmore, fun hs => ?_⟩
  have hcount := (h.counted (s.calm_iff.1 hs).2).2
  rw [hmore, List.length_append] at hcount
  omega

theorem State.Emits.trans_outputs {s t u : State} (h : s.Emits t) (hcalm : s.calm = true → t.calm = true) (k : t.Outputs u) :
    s.Outputs u := by
  obtain ⟨l, hl, hlw⟩ := h.outputs
  obtain ⟨m, hm, hmw⟩ := k
  refine ⟨l ++ m, by rw [hm, hl, List.append_assoc], fun hs => ?_⟩
  rw [hmw (hcalm hs), hlw hs, List.length_append]
  omega

theorem State.Runs.outputs {n : Nat} {s t : State} (h : s.Runs n t) : s.Outputs t := by
  cases h with
  | emits h => exact h.outputs
  | puts h => exact ⟨[], by rw [h.out, List.append_nil], fun _ => h.written⟩
  | reset h hs ht =>
    obtain ⟨more, hmore⟩ := h.grows
    exact ⟨more, ht ▸ hmore, fun hs' => absurd hs' (by simp [hs])⟩

theorem State.Emits.byteAt {s t : State} (h : s.Emits t) (a : Nat) : t.win.byteAt a = s.win.byteAt a := by
  rw [h.win]
  rfl

theorem State.Emits.w {s t : State} (h : s.Emits t) : t.win.w = s.win.w := by rw [h.win]

theorem State.Emits.trans_keepsPending {s t u : State} (h : s.Emits t) (k : t.KeepsPending u) : s.KeepsPending u :=
  fun hw htw a ha has =>
    (k (h.w.trans hw) (h.tw.trans_le htw) a ha (h.tw.symm ▸ has)).trans (h.byteAt a)

/-! ### The commands that begin anew -/

/-- The output grows; and the window is the old one but for `TF`, or nothing has been written to it. -/
structure State.Restarts (s t : State) : Prop where
  grows : ∃ more, t.out.bytes = s.out.bytes ++ more
  win : t.win = { s.win with tf := t.win.tf } ∨ t.win.tw = 0

theorem State.Emits.restarts {s t : State} (h : s.Emits t) : s.Restarts t := ⟨h.grows, .inl h.win⟩

theorem State.Restarts.trans {s t u : State} (h : s.Restarts t) (k : t.Restarts u) : s.Restarts u where
  grows := by
    obtain ⟨l, hl⟩ := h.grows
    obtain ⟨m, hm⟩ := k.grows
    exact ⟨l ++ m, by rw [hm, hl, List.append_assoc]⟩
  win := by
    obtain hu | hu := k.win
    · obtain ht | ht := h.win
      · exact .inl (by rw [hu, ht])
      · exact .inr (by rw [hu]; exact ht)
    · exact .inr hu

theorem State.hardReset_restarts (s : State) : s.Restarts s.hardReset := ⟨⟨[], (List.append_nil _).symm⟩, .inr rfl⟩

theorem State.halted_restarts (s : State) (e : Halt) : s.Restarts (s.halted e) := by
  cases e with
  | fatal f => exact (State.Emits.finish s _ _ _).restarts
  | reset => exact s.hardReset_restarts

theorem State.decoderReset_restarts (s : State) : s.Restarts s.decoderReset := ⟨⟨[], (List.append_nil _).symm⟩, .inr rfl⟩

theorem State.latch_restarts (s : State) : s.Restarts s.latch := by
  unfold State.latch
  dsimp only
  split
  · exact ⟨⟨[], (List.append_nil _).symm⟩, .inr rfl⟩
  · exact ⟨⟨[], (List.append_nil _).symm⟩, .inl rfl⟩

theorem runOp_restarts {x : M Unit} {s t : State} (h : readContract.Holds x s) (ht : runOp x s = .next t) : s.Restarts t := by
  obtain ⟨u, hr, ho⟩ | ⟨e, u, hr, ho⟩ := runOp_next x s <;> rw [ho] at ht <;> cases ht
  · exact (h.ok trivial hr).1.emits.restarts
  · exact (h.error trivial hr).1.emits.restarts.trans (u.halted_restarts e)

theorem execStart_restarts {s t : State} (h : execStart s = .next t) : s.Restarts t := by
  have hacc : s.Restarts s.accept := s.accept_reads.emits.restarts
  have hbegin : s.Restarts (if s.effectiveSolid then s.accept else s.accept.decoderReset) := by
    split
    · exact hacc
    · exact hacc.trans (State.decoderReset_restarts _)
  unfold execStart at h
  dsimp only at h
  have hlatch := hbegin.trans (State.latch_restarts _)
  split at h
  · split at h
    · cases h
      exact hlatch
    · exact hlatch.trans (runOp_restarts (ppmOnlyBegin_reads _ _) h)
  · cases h
    exact State.Emits.restarts (State.Reads.emits ⟨rfl, rfl, rfl, rfl⟩)

theorem execWinInit_restarts {s t : State} (h : execWinInit s = .next t) : s.Restarts t := by
  obtain rfl | rfl := idleCommand_next h
  · exact State.Emits.restarts (State.Reads.emits ⟨rfl, rfl, rfl, rfl⟩)
  · exact ⟨⟨[], (List.append_nil _).symm⟩, .inr rfl⟩

theorem exec_restarts {i : Instr} {s t : State} (hi : i ∈ [Instr.start, .reset, .winInit]) (h : exec i s = .next t) :
    s.Restarts t := by
  simp only [List.mem_cons, List.not_mem_nil, or_false] at hi
  obtain rfl | rfl | rfl := hi
  · exact execStart_restarts h
  · cases h
    exact s.hardReset_restarts
  · exact execWinInit_restarts h

theorem State.Restarts.keepsPending {s t : State} (h : s.Restarts t) : s.KeepsPending t := by
  intro _ htw a _ ha
  obtain hwin | hzero := h.win
  · rw [hwin]
    rfl
  · omega

/-! ### An instruction -/

/-- An instruction for whose bytes there is room overwrites nothing that is pending. -/
theorem State.Runs.keepsPending {n : Nat} {s t : State} (h : s.Runs n t) (hwf : Memory.wf s.win.mem = true)
    (hpos : s.win.pos = s.win.tw % s.win.w) (hroom : 0 < n → s.win.tw - s.win.tf + n ≤ s.win.w) : s.KeepsPending t := by
  cases h with
  | emits h => exact h.restarts.keepsPending
  | puts h =>
    intro _ _ a htf ha
    rw [h.win.tf] at htf
    exact h.win.kept hwf hpos a ha fun hn => by have := hroom hn; omega
  | reset h hs ht => exact ht ▸ (h.restarts.trans (State.hardReset_restarts _)).keepsPending

theorem exec_keepsPending {i : Instr} {s t : State} (h : exec i s = .next t) (hwf : Memory.wf s.win.mem = true)
    (hpos : s.win.pos = s.win.tw % s.win.w)
    (hroom : 0 < i.windowBytes s.tok.lastLen.toNat → s.win.tw - s.win.tf + i.windowBytes s.tok.lastLen.toNat ≤ s.win.w) :
    s.KeepsPending t := by
  by_cases hi : i ∈ [Instr.start, .reset, .winInit]
  · exact (exec_restarts hi h).keepsPending
  · exact (exec_runs hi s t h).keepsPending hwf hpos hroom

/-- A command that fills the window is refused where it would overwrite what is pending (R175, R176). -/
theorem keepsPending_of_hasRoom {n : Nat} {c : Bool} {f : State → State} {s t : State} (hs : s.win.Sound)
    (h : idleCommand c f s = .next t) (hr : s.Runs n t) (hc : c = true → s.win.hasRoom n = true) : s.KeepsPending t := by
  obtain ⟨-, hcond, -⟩ | ⟨-, ho⟩ := idleCommand_cases c f s
  · have hroom := of_decide_eq_true (Bool.and_eq_true_iff.1 (hc hcond)).2
    exact hr.keepsPending hs.canonical hs.pos fun _ => hroom
  · rw [ho] at h
    cases h
    exact State.Restarts.keepsPending (State.Emits.restarts (State.Reads.emits ⟨rfl, rfl, rfl, rfl⟩))

theorem command_keepsPending {i : Instr} {s t : State} (hs : s.win.Sound) (hi : i.WindowCommand) (h : exec i s = .next t) :
    s.KeepsPending t := by
  obtain hoff | ⟨a, rfl⟩ | ⟨a, b, rfl⟩ := hi
  · exact exec_keepsPending h hs.canonical hs.pos fun hn => absurd hn (by rw [hoff]; exact Nat.lt_irrefl 0)
  · exact keepsPending_of_hasRoom (f := fun s => s.put (a.setWidth 8)) hs h (exec_runs (by simp) s t h) fun hc =>
      (Bool.and_eq_true_iff.1 hc).2
  · exact keepsPending_of_hasRoom (f := fun s => s.copyMatch a.toNat b.toNat) hs h (exec_runs (by simp) s t h) id

/-! ### The fetch -/

/-- What the CORE's fetch leads to from `s`. -/
def Fetched.Emits (s : State) : Fetched → Prop
  | .instr _ t => s.Emits t
  | .done t => s.Runs 0 t
  | .fault _ => True

theorem abandon_emits (e : Abort) {s t : State} (hst : s.Emits t) (hcalm : s.calm = true → t.calm = true)
    (he : s.calm = true → e ≠ .halt .reset) : (abandon e t).Emits s := by
  cases e with
  | halt h => exact hst.halted fun hs hh => he hs (congrArg Abort.halt hh)
  | endSegment =>
    show s.Runs 0 (if _ then _ else _)
    split
    · exact .emits (hst.trans (.finish t _ _ _))
    · exact hst.settle hcalm (segmentEnd_emits t) (segmentEnd_holds t)
  | corrupt =>
    show s.Runs 0 (if _ then _ else _)
    split
    · exact .emits (hst.trans (.finish t _ _ _))
    · exact hst.settle hcalm (fallback_emits t) (fallback_holds t)
  | nomem => exact .emits (hst.trans (.finish t _ _ _))
  | reject sym => trivial

theorem coreFetch_emits (s : State) : (coreFetch s).Emits s := by
  unfold coreFetch
  cases hf : fetchCore s s with
  | ok o t =>
    have hst : s.Emits t := ((fetchCore_emits s).ok trivial hf).1
    cases o with
    | some i => exact hst
    | none => exact .emits hst
  | error e t =>
    have hcore := fun hs : s.calm = true => (fetchCore_holds s).error hs hf
    exact abandon_emits e ((fetchCore_emits s).error trivial hf).1 (fun hs => (hcore hs).1.calm hs) fun hs => (hcore hs).2

/-- An instruction comes from a fetch that was not abandoned. -/
theorem coreFetch_instr {s t : State} {i : Instr} (h : coreFetch s = .instr i t) : fetchCore s s = .ok (some i) t := by
  unfold coreFetch at h
  cases hf : fetchCore s s with
  | ok o u =>
    rw [hf] at h
    cases o with
    | some j =>
      cases h
      rfl
    | none => cases h
  | error e u =>
    rw [hf] at h
    cases e <;> cases h

/-- There is room for what a fetched instruction puts into the window. -/
theorem coreFetch_room {s t : State} {i : Instr} (hs : s.Sound) (h : coreFetch s = .instr i t)
    (hn : 0 < i.windowBytes t.tok.lastLen.toNat) : t.win.tw - t.win.tf + i.windowBytes t.tok.lastLen.toNat ≤ t.win.w := by
  have hf := coreFetch_instr h
  obtain ⟨hst, hgives⟩ := (fetchCore_emits s).ok trivial hf
  obtain hoff | ⟨hshort, hblock⟩ := hgives i rfl
  · rw [hoff] at hn
    exact absurd hn (Nat.lt_irrefl 0)
  · have hlen : i.windowBytes t.tok.lastLen.toNat ≤ Config.maxToken := hshort _ (hst.lastLen ▸ hs.lastLen)
    have hfull : ¬t.win.w - Config.maxToken < t.win.tw - t.win.tf := of_decide_eq_false (fetchCore_room hblock hf)
    have hwin : 2 ^ 18 ≤ s.win.w := by
      obtain hzero | ⟨k, -, hk, hw⟩ := hs.size
      · exact absurd hzero (hs.latched (by obtain h | h | h := hblock <;> simp [h]))
      · exact hw ▸ Nat.pow_le_pow_right (by decide) hk
    rw [← hst.w] at hwin
    rw [Config.maxToken] at hfull hlen
    omega

/-! ### A step -/

theorem State.Sound.tick {s : State} (hs : s.Sound) : s.tick.Sound := by
  unfold State.tick
  split
  · exact hs
  · exact { hs with }

theorem State.tick_reads (s : State) : s.Reads s.tick := by
  unfold State.tick
  split <;> exact ⟨rfl, rfl, rfl, rfl⟩

/-- With an action of the host due, that is the fetch. -/
theorem fetchNext_due {s : State} (hq : s.quiet = false) : ∃ a rest, fetchNext s = hostFetch a (s.setHost rest) := by
  unfold State.quiet at hq
  unfold fetchNext
  cases hh : s.host with
  | nil => simp [hh] at hq
  | cons e rest =>
    simp only [hh, Bool.and_eq_false_iff, bne_eq_false_iff_eq, Bool.not_eq_false'] at hq
    exact ⟨e.act, rest, if_pos hq⟩

theorem State.regWrite_win (s : State) (idx : Byte) (v : Word) : (s.regWrite idx v).win = s.win := by
  unfold State.regWrite
  split
  · split <;> rfl
  · rfl

/-- An action of the host leaves the window, or is a command. -/
theorem hostFetch_cases (a : HostAction) (s : State) :
    (∃ t, hostFetch a s = .done t ∧ t.win = s.win) ∨ ∃ i, hostFetch a s = .instr i s ∧ i.WindowCommand := by
  cases a with
  | cmd w =>
    cases hd : decodeCmd w with
    | ok i => exact .inr ⟨i, by simp only [hostFetch, hd], decodeCmd_windowCommand hd⟩
    | error e => exact .inl ⟨s.refuse, by simp only [hostFetch, hd], rfl⟩
  | regRead idx => exact .inl ⟨_, rfl, by rw [State.regRead_eq]⟩
  | regWrite idx v => exact .inl ⟨_, rfl, s.regWrite_win idx v⟩
  | positionIn reads => exact .inl ⟨_, rfl, by split <;> rfl⟩
  | positionOut answers => exact .inl ⟨_, rfl, by split <;> rfl⟩

theorem keepsPending_of_win_eq {s t : State} (h : t.win = s.win) : s.KeepsPending t := fun _ _ _ _ _ => by rw [h]

/-- A step of the CORE's own: its fetch moves only `TF`, and there is room for what it has fetched. -/
theorem step_keepsPending_of_quiet {s t : State} (hs : s.Sound) (hq : s.quiet = true) (h : step s = .next t) :
    s.KeepsPending t := by
  have htick := s.tick_reads.emits
  have hem := coreFetch_emits s.tick
  unfold step at h
  rw [fetchNext_quiet hq] at h
  cases hc : coreFetch s.tick with
  | instr i u =>
    rw [hc] at h hem
    have hu : s.Emits u := htick.trans hem
    refine hu.trans_keepsPending (exec_keepsPending h ?_ ?_ (coreFetch_room hs.tick hc))
    · rw [hu.win]
      exact hs.win.canonical
    · rw [hu.win]
      exact hs.win.pos
  | done u =>
    rw [hc] at h hem
    cases h
    exact htick.trans_keepsPending (State.Runs.keepsPending hem hs.tick.win.canonical hs.tick.win.pos
      fun hn => absurd hn (Nat.lt_irrefl 0))
  | fault f =>
    rw [hc] at h
    cases h

/-- A step of the host's: its commands check for room themselves. -/
theorem step_keepsPending_of_due {s t : State} (hs : s.Sound) (hq : s.quiet = false) (h : step s = .next t) :
    s.KeepsPending t := by
  obtain ⟨a, rest, hfetch⟩ := fetchNext_due hq
  unfold step at h
  rw [hfetch] at h
  obtain ⟨u, hdone, hwin⟩ | ⟨i, hinstr, hi⟩ := hostFetch_cases a (s.setHost rest)
  · rw [hdone] at h
    cases h
    exact keepsPending_of_win_eq hwin
  · rw [hinstr] at h
    exact command_keepsPending (s := s.setHost rest) hs.win hi h

/-- No step from a sound state overwrites what is pending. -/
theorem step_keepsPending {s t : State} (hs : s.Sound) (h : step s = .next t) : s.KeepsPending t := by
  cases hq : s.quiet with
  | true => exact step_keepsPending_of_quiet hs hq h
  | false => exact step_keepsPending_of_due hs hq h

/-- Every instruction but those that clear `WRITTEN` outputs; those let the output grow. -/
theorem exec_outputs {i : Instr} {s t : State} (h : exec i s = .next t) : ∃ more, t.out.bytes = s.out.bytes ++ more ∧
    (s.calm = true → i ∉ [.start, .reset, .winInit] → t.st.written = s.st.written + more.length) := by
  by_cases hi : i ∈ [Instr.start, .reset, .winInit]
  · obtain ⟨more, hmore⟩ := (exec_restarts hi h).grows
    exact ⟨more, hmore, fun _ hn => absurd hi hn⟩
  · obtain ⟨more, hmore, hwritten⟩ := (exec_runs hi s t h).outputs
    exact ⟨more, hmore, fun hs _ => hwritten hs⟩

/-- A plain instruction is none of those that clear `WRITTEN`. -/
theorem not_mem_of_plain {i : Instr} (h : i.Plain) : i ∉ [Instr.start, .reset, .winInit] := by
  intro hi
  simp only [List.mem_cons, List.not_mem_nil, or_false] at hi
  obtain rfl | rfl | rfl := hi <;> cases h

/-- Every step of the CORE's own outputs. -/
theorem step_outputs {s t : State} (hq : s.quiet = true) (h : step s = .next t) : s.Outputs t := by
  have htick := s.tick_reads.emits
  have hem := coreFetch_emits s.tick
  have htickCalm := s.tick_onward.calm
  unfold step at h
  rw [fetchNext_quiet hq] at h
  cases hc : coreFetch s.tick with
  | instr i u =>
    rw [hc] at h hem
    have honward (hs : s.calm = true) : s.tick.Onward u ∧ i.Plain := by
      have ho := coreFetch_onward s.tick (htickCalm hs)
      rwa [hc] at ho
    have hcalm (hs : s.calm = true) : u.calm = true := (honward hs).1.calm (htickCalm hs)
    obtain ⟨l, hl, hlw⟩ := (htick.trans hem).outputs
    obtain ⟨m, hm, hmw⟩ := exec_outputs h
    refine ⟨l ++ m, by rw [hm, hl, List.append_assoc], fun hs => ?_⟩
    rw [hmw (hcalm hs) (not_mem_of_plain (honward hs).2), hlw hs, List.length_append, Nat.add_assoc]
  | done u =>
    rw [hc] at h hem
    cases h
    exact htick.trans_outputs htickCalm (State.Runs.outputs hem)
  | fault f =>
    rw [hc] at h
    cases h

/-! ### The obligation -/

/-- Settles O59: an instruction outputs, a step of the CORE's own does, and no step overwrites what is pending. -/
theorem outputOnlyGrows : Obligations.OutputOnlyGrows :=
  ⟨fun _ _ _ h => exec_outputs h, fun _ _ hq h => step_outputs hq h, fun _ _ hs h => step_keepsPending hs h⟩

end Sys2Proof.Machine
end

section
/-! PROOFS. Decoding undoes encoding (spec/30_encoding.md): a grammar that finds the encoder's bits reads them and goes on as the
grammar that is left. One rule for each piece of an encoding, one lemma for each place instructions are read from. -/

namespace Sys2Proof

/-- The grammar `p` reads exactly `bits` where they stand first, and goes on as `q`. -/
def Parse.Consumes {α : Type} (p : Parse α) (bits : List Bool) (q : Parse α) : Prop :=
  ∀ rest, p.runBits (bits ++ rest) = q.runBits rest

/-! ### The pieces of an encoding -/

section
variable {α : Type}

theorem Parse.Consumes.refl (p : Parse α) : p.Consumes [] p := fun _ => rfl

theorem Parse.Consumes.append {p q r : Parse α} {l m : List Bool} (h : p.Consumes l q) (k : q.Consumes m r) :
    p.Consumes (l ++ m) r := fun rest => by
  rw [List.append_assoc, h, k]

/-- A field of `n` bits written as a number in range. -/
theorem consumes_field {f : Field} {n v : Nat} (k : Nat → Parse α) (hn : f.width = n) (hv : v < 2 ^ n) :
    (Parse.field f k).Consumes (natToBits n v) (k v) := fun rest => by
  subst hn
  exact runBits_field f k v rest hv

/-- The same, with the grammar it goes on as under another form. -/
theorem consumes_field_of_eq {f : Field} {n v : Nat} {k : Nat → Parse α} {q : Parse α} (hn : f.width = n) (hv : v < 2 ^ n)
    (hq : k v = q) : (Parse.field f k).Consumes (natToBits n v) q := hq ▸ consumes_field k hn hv

/-- A field of eight bits written as a byte. -/
theorem consumes_byte {f : Field} (k : Nat → Parse α) (hf : f.width = 8) (b : Byte) :
    (Parse.field f k).Consumes (encByte b) (k b.toNat) := consumes_field k hf b.isLt

/-- A little-endian number of `n` bytes (R98). -/
theorem consumes_le {f : Field} (hf : f.width = 8) (n v : Nat) (k : Nat → Parse α) (hv : v < 256 ^ n) :
    (Parse.le f n k).Consumes (encLe n v) (k v) := by
  induction n generalizing v k with
  | zero =>
    obtain rfl : v = 0 := by omega
    exact .refl _
  | succ n ih =>
    have hhigh : v / 256 < 256 ^ n := Nat.div_lt_of_lt_mul (by rwa [Nat.pow_succ'] at hv)
    have hsum : v % 256 + 256 * (v / 256) = v := Nat.mod_add_div v 256
    have hlow : (Parse.le f (n + 1) k).Consumes (natToBits 8 (v % 256)) (Parse.le f n fun w => k (v % 256 + 256 * w)) :=
      consumes_field _ hf (Nat.mod_lt _ (by decide))
    refine hlow.append ?_
    simpa only [hsum] using ih (v / 256) (fun w => k (v % 256 + 256 * w)) hhigh

theorem consumes_bytes {f : Field} (hf : f.width = 8) (l : List Byte) (k : List Byte → Parse α) :
    (Parse.bytes f l.length k).Consumes (encBytes l) (k l) := by
  induction l generalizing k with
  | nil => exact .refl _
  | cons b t ih =>
    have hhead := consumes_byte (fun b => Parse.bytes f t.length fun l => k (toByte b :: l)) hf b
    rw [toByte_toNat] at hhead
    exact hhead.append (ih fun l => k (b :: l))

@[simp] theorem toWord_toNat (w : Word) : toWord w.toNat = w := by simp [toWord]

theorem consumes_words {f : Field} (hf : f.width = 8) (l : List Word) (k : List Word → Parse α) :
    (Parse.words f l.length k).Consumes (l.flatMap fun r => encLe 4 r.toNat) (k l) := by
  induction l generalizing k with
  | nil => exact .refl _
  | cons w t ih =>
    have hhead := consumes_le hf 4 w.toNat (fun w => Parse.words f t.length fun l => k (toWord w :: l)) w.isLt
    rw [toWord_toNat] at hhead
    exact hhead.append (ih fun l => k (w :: l))

theorem maskRegs_zero : maskRegs 0 = [] := by decide

/-- The program part of a filter token (R107). -/
theorem consumes_program {f : Field} (hf : f.width = 8) {f0 : Byte} {prog : List Byte} (hprog : f0.getLsbD 7 = true ∨ prog = [])
    (hlen : prog.length < 65536) (k : List Byte → Parse α) :
    Parse.Consumes (if f0.getLsbD 7 then Parse.le f 2 fun plen => Parse.bytes f plen k else k [])
      (if f0.getLsbD 7 then encLe 2 prog.length ++ encBytes prog else []) (k prog) := by
  by_cases h : f0.getLsbD 7 = true
  · rw [if_pos h, if_pos h]
    exact (consumes_le hf 2 prog.length _ hlen).append (consumes_bytes hf prog k)
  · rw [if_neg h, if_neg h, hprog.resolve_left h]
    exact .refl _

/-- The registers of a filter token (R107). -/
theorem consumes_registers {f : Field} (hf : f.width = 8) {f0 mask : Byte} {regs : List Word}
    (hmask : f0.getLsbD 6 = true ∨ mask = 0) (hregs : regs.length = (maskRegs mask).length)
    (rest : Byte → List Word → Parse α) :
    Parse.Consumes
      (if f0.getLsbD 6 then
        .field f fun m => Parse.words f (maskRegs (toByte m)).length fun regs => rest (toByte m) regs
      else rest 0 [])
      (if f0.getLsbD 6 then encByte mask ++ regs.flatMap (fun r => encLe 4 r.toNat) else []) (rest mask regs) := by
  by_cases h : f0.getLsbD 6 = true
  · rw [if_pos h, if_pos h]
    have hhead := consumes_byte
      (fun m => Parse.words f (maskRegs (toByte m)).length fun regs => rest (toByte m) regs) hf mask
    rw [toByte_toNat, ← hregs] at hhead
    exact hhead.append (consumes_words hf regs (rest mask))
  · rw [if_neg h, if_neg h]
    obtain rfl := hmask.resolve_left h
    obtain rfl : regs = [] := List.eq_nil_of_length_eq_zero (by rw [hregs, maskRegs_zero]; rfl)
    exact .refl _

/-- What R107 asks of a filter token. -/
theorem FilterTok.wf_iff (t : FilterTok) : t.wf = true ↔ (t.f0.getLsbD 6 = true ∨ t.mask = 0) ∧
    t.regs.length = (maskRegs t.mask).length ∧ (t.f0.getLsbD 7 = true ∨ t.prog = []) ∧ t.prog.length < 65536 := by
  simp only [FilterTok.wf, Bool.and_eq_true, Bool.or_eq_true, beq_iff_eq, List.isEmpty_iff, decide_eq_true_eq, and_assoc]

/-- A filter token (R107). -/
theorem consumes_filter {f : Field} (hf : f.width = 8) {t : FilterTok} (ht : t.wf = true) (k : FilterTok → Parse α) :
    (parseFilter f k).Consumes (encFilter t) (k t) := by
  obtain ⟨f0, start, len, mask, regs, prog⟩ := t
  obtain ⟨hmask, hregs, hprog, hplen⟩ := (FilterTok.wf_iff _).1 ht
  unfold parseFilter encFilter
  refine .append (.append (.append (.append (consumes_byte _ hf f0) (consumes_le hf 4 start.toNat _ start.isLt))
    (consumes_le hf 3 len.toNat _ len.isLt)) ?_) (consumes_program hf hprog hplen fun prog => k ⟨f0, start, len, mask, regs, prog⟩)
  simp only [toByte_toNat, toWord_toNat, BitVec.ofNat_toNat, BitVec.setWidth_eq]
  exact consumes_registers hf hmask hregs fun mask regs =>
    if f0.getLsbD 7 then
      Parse.le f 2 fun plen => Parse.bytes f plen fun prog => k ⟨f0, start, len, mask, regs, prog⟩
    else k ⟨f0, start, len, mask, regs, []⟩

/-- A byte that is there only if a flag says so. -/
theorem consumes_option {f : Field} (hf : f.width = 8) {flag : Bool} {x : Option Byte} (hx : x.isSome = flag)
    (k : Option Byte → Parse α) :
    Parse.Consumes (if flag then .field f fun v => k (some (toByte v)) else k none) (encBytes x.toList) (k x) := by
  subst hx
  cases x with
  | none => exact .refl _
  | some b => exact consumes_bytes hf [b] fun l => k l.head?

/-- A sequence of lengths, each its own entry (R88); the reading has rounds enough. -/
theorem consumes_lens (l : List (BitVec 4)) {fuel : Nat} (hfuel : l.length ≤ fuel) (k : List (BitVec 4) → Parse α) :
    (parseLens fuel l.length k).Consumes (encLens l) (k l) := by
  induction l generalizing fuel k with
  | nil => cases fuel <;> exact .refl _
  | cons v t ih =>
    obtain ⟨fuel, rfl⟩ : ∃ m, fuel = m + 1 := Nat.exists_eq_succ_of_ne_zero (by simp only [List.length_cons] at hfuel; omega)
    have htail := ih (Nat.le_of_succ_le_succ hfuel) fun l => k (v :: l)
    by_cases hv : v = 15
    · subst hv
      exact ((consumes_field _ rfl (by decide)).append (consumes_field _ rfl (by decide))).append htail
    · have hlt : v.toNat < 15 := by bv_omega
      have hbits : encLens (v :: t) = natToBits 4 v.toNat ++ encLens t := congrArg (· ++ encLens t) (if_neg hv)
      rw [hbits]
      refine (consumes_field_of_eq rfl v.isLt ?_).append htail
      rw [if_pos hlt, BitVec.ofNat_toNat, BitVec.setWidth_eq]
      rfl

end

/-! ### The places instructions are read from -/

/-- The encoder's bits of `i` are what the grammar of its place reads. -/
abbrev Instr.RoundTrips (c : Ctx) (i : Instr) : Prop := (slotOf c i).grammar.Consumes (encode c i) (.ret i)

/-- A command word (R81). -/
theorem consumes_cmd {op : Nat} {a b : Word} {i : Instr} (hop : op < 256) (hi : commandOf op a b = some i) :
    parseCmd.Consumes (encCmd op a b) (.ret i) := by
  refine ((consumes_field _ rfl hop).append (consumes_field _ rfl a.isLt)).append (consumes_field_of_eq rfl b.isLt ?_)
  rw [toWord_toNat, toWord_toNat, hi]

theorem consumes_end (e00 e01 e10 e11 : Instr) {n : Nat} (hn : n < 4) :
    (parseEnd e00 e01 e10 e11).Consumes (natToBits 2 n)
      (.ret (if n = 0 then e00 else if n = 1 then e01 else if n = 2 then e10 else e11)) :=
  consumes_field _ rfl hn

/-! #### LZ tokens (R90) -/

theorem parseLzRest_lit (g : BitVec 3) (b : Byte) : parseLzRest g b.toNat = .ret (.lit b) :=
  (if_pos b.isLt).trans (by rw [toByte_toNat])

theorem parseLzRest_cache (g : BitVec 3) {k : Nat} {i : Instr} (hk : k < 4) (hi : Instr.cacheSlot k 0 0 = some i) :
    parseLzRest g (259 + k) = if cacheLive g k then parseCache k else .ret i := by
  have hlo : ¬ 259 + k < Config.litLimit := by simp only [Config.litLimit]; omega
  have hhi : 259 + k < Config.thresh := by simp only [Config.thresh]; omega
  rw [parseLzRest, if_neg hlo, if_neg (by omega), if_neg (by omega), if_neg (by omega), if_pos hhi, Nat.add_sub_cancel_left, hi]

theorem parseLzRest_match (g : BitVec 3) {s : Nat} (hs : s < 28) : parseLzRest g (263 + s) = parseMatch s := by
  have hlo : ¬ 263 + s < Config.litLimit := by simp only [Config.litLimit]; omega
  have hth : ¬ 263 + s < Config.thresh := by simp only [Config.thresh]; omega
  have hhi : 263 + s < Config.nc := by simp only [Config.nc]; omega
  rw [parseLzRest, if_neg hlo, if_neg (by omega), if_neg (by omega), if_neg (by omega), if_neg hth, if_pos hhi]
  exact congrArg parseMatch (Nat.add_sub_cancel_left 263 s)

/-- Every generation has the entries 0 to 2 (R180). -/
theorem cacheLive_of_lt (g : BitVec 3) {k : Nat} (hk : k < 3) : cacheLive g k = true := by
  unfold cacheLive Config.cacheN
  split <;> exact decide_eq_true (by omega)

/-- `CACHE k` (R97), or its symbol alone where the generation reserves it (R209). -/
theorem consumes_cache {c : Ctx} {k s e : Nat} {i j : Instr} (hk : k < 4) (hi : Instr.cacheSlot k s e = some i)
    (hj : Instr.cacheSlot k 0 0 = some j) (hwf : (if cacheLive c.gen k then cacheWf s e else s == 0 && e == 0) = true) :
    (parseLz c.gen).Consumes (encCache c k s e) (.ret i) := by
  refine (consumes_field_of_eq rfl (show 259 + k < 2 ^ 9 by omega) (parseLzRest_cache _ hk hj)).append ?_
  by_cases hlive : cacheLive c.gen k = true
  · rw [if_pos hlive] at hwf
    rw [if_pos hlive, if_pos hlive]
    obtain ⟨hs, he⟩ : s < Config.rc ∧ e < 2 ^ Config.lbits s := by simpa [cacheWf] using hwf
    refine (consumes_field_of_eq rfl (Nat.lt_trans hs (by decide)) (if_pos hs)).append (consumes_field_of_eq rfl he ?_)
    rw [hi]
  · rw [if_neg hlive] at hwf
    rw [if_neg hlive, if_neg hlive]
    obtain ⟨rfl, rfl⟩ : s = 0 ∧ e = 0 := by simpa using hwf
    obtain rfl : j = i := Option.some.inj (hj.symm.trans hi)
    exact .refl _

/-- `MATCH s` (R97). -/
theorem consumes_match {g : BitVec 3} {s e1 d e2 : Nat} {i : Instr} (hs : s < 28) (hi : Instr.matchSlot s e1 d e2 = some i)
    (hwf : matchWf s e1 d e2 = true) : (parseLz g).Consumes (encMatch s e1 d e2) (.ret i) := by
  obtain ⟨he1, hd, he2⟩ : e1 < 2 ^ Config.lbits s ∧ d < Config.dc ∧ e2 < 2 ^ Config.dbits d := by
    simpa [matchWf, and_assoc] using hwf
  refine (((consumes_field_of_eq rfl (show 263 + s < 2 ^ 9 by omega) (parseLzRest_match g hs)).append
    (consumes_field _ rfl he1)).append (consumes_field_of_eq rfl (Nat.lt_trans hd (by decide)) (if_pos hd))).append
    (consumes_field_of_eq rfl he2 ?_)
  rw [hi]

/-- `FILTER`, reserved outside G4 (R90, R209). -/
theorem consumes_lzFilter {c : Ctx} {t : FilterTok} (hwf : (if isG4 c.gen then t.wf else t == FilterTok.zero) = true) :
    (Instr.filter t).RoundTrips c := by
  refine (consumes_field (f := .ld) (parseLzRest c.gen) rfl (show 257 < 2 ^ 9 by decide)).append ?_
  show Parse.Consumes (if isG4 c.gen then parseFilter .byte fun t => .ret (Instr.filter t) else .ret (Instr.filter .zero)) _ _
  by_cases hg : isG4 c.gen = true
  · rw [if_pos hg] at hwf
    rw [if_pos hg, if_pos hg]
    exact consumes_filter rfl hwf _
  · rw [if_neg hg, beq_iff_eq] at hwf
    subst hwf
    rw [if_neg hg, if_neg hg]
    exact .refl _

theorem toNat_lt_symbols (b : Byte) : b.toNat < 2 ^ 9 := Nat.lt_trans b.isLt (by decide)

theorem consumes_lit (g : BitVec 3) (b : Byte) : (parseLz g).Consumes (encLd b.toNat) (.ret (.lit b)) :=
  consumes_field_of_eq rfl (toNat_lt_symbols b) (parseLzRest_lit g b)

/-! #### Audio tokens (R100) -/

theorem consumes_audDelta (d : Byte) : parseAud.Consumes (natToBits 9 d.toNat) (.ret (.audDelta d)) := by
  refine consumes_field_of_eq rfl (toNat_lt_symbols d) ((if_pos d.isLt).trans ?_)
  rw [toByte_toNat]

/-! #### PPM tokens (R102) -/

/-- The rest of a command of a PPM block, after the escape byte and the command byte `c`. -/
def ppmCommand (c : Nat) : Parse Instr :=
  if c = 1 then .ret .ppmLitesc
  else if c = 2 then .ret .ppmNewfile
  else if c = 3 then parseFilter .ppm fun t => .ret (.ppmFilter t)
  else if c = 4 then
    .field .ppm fun d2 => .field .ppm fun d1 => .field .ppm fun d0 => .field .ppm fun l =>
      .ret (.ppmMatch (toByte d2) (toByte d1) (toByte d0) (toByte l))
  else .ret (.ppmReserved (toByte c))

/-- A command of a PPM block begins with the escape byte. -/
theorem consumes_esc (esc b : Byte) : (parsePpm esc).Consumes (encByte esc ++ encByte b) (ppmCommand b.toNat) :=
  have hesc : ¬ toByte esc.toNat ≠ esc := not_not_intro (toByte_toNat esc)
  (consumes_field_of_eq rfl esc.isLt (if_neg hesc)).append (consumes_field_of_eq rfl b.isLt rfl)

theorem consumes_ppmLit {esc b : Byte} (h : (b != esc) = true) : (parsePpm esc).Consumes (encByte b) (.ret (.ppmLit b)) := by
  have hne : toByte b.toNat ≠ esc := by rwa [toByte_toNat, ← bne_iff_ne]
  refine consumes_field_of_eq rfl b.isLt ((if_pos hne).trans ?_)
  rw [toByte_toNat]

theorem consumes_ppmFilter (esc : Byte) {t : FilterTok} (hwf : t.wf = true) :
    (parsePpm esc).Consumes (encByte esc ++ encByte 3 ++ encFilter t) (.ret (.ppmFilter t)) := by
  have hcmd : ppmCommand (3 : Byte).toNat = parseFilter .ppm fun t => .ret (Instr.ppmFilter t) := rfl
  have hhead := consumes_esc esc 3
  rw [hcmd] at hhead
  exact hhead.append (consumes_filter rfl hwf _)

theorem consumes_ppmMatch (esc d2 d1 d0 l : Byte) :
    (parsePpm esc).Consumes (encByte esc ++ encByte 4 ++ encByte d2 ++ encByte d1 ++ encByte d0 ++ encByte l)
      (.ret (.ppmMatch d2 d1 d0 l)) := by
  have h := ((((consumes_esc esc 4).append (consumes_byte _ rfl d2)).append (consumes_byte _ rfl d1)).append
    (consumes_byte _ rfl d0)).append (consumes_byte _ rfl l)
  rwa [toByte_toNat, toByte_toNat, toByte_toNat, toByte_toNat] at h

/-- A command byte that R102 reserves. -/
theorem consumes_ppmReserved {esc b : Byte} (h : (b == 0 || decide (5 ≤ b.toNat)) = true) :
    (parsePpm esc).Consumes (encByte esc ++ encByte b) (.ret (.ppmReserved b)) := by
  have hrange : b.toNat = 0 ∨ 5 ≤ b.toNat := by
    rw [Bool.or_eq_true, beq_iff_eq, decide_eq_true_iff] at h
    exact h.imp_left (congrArg BitVec.toNat)
  have hcmd : ppmCommand b.toNat = .ret (.ppmReserved b) := by
    rw [ppmCommand, if_neg (by omega), if_neg (by omega), if_neg (by omega), if_neg (by omega), toByte_toNat]
  exact hcmd ▸ consumes_esc esc b

/-! #### Stream structures -/

/-- A block header (R84, R85). -/
theorem consumes_hdr {flags chk : Byte} {size : List Byte} (hwf : hdrWf flags size = true) :
    parseHdr.Consumes (encByte flags ++ encByte chk ++ encBytes size) (.ret (.hdr flags chk size)) := by
  refine ((consumes_byte _ rfl flags).append (consumes_byte _ rfl chk)).append ?_
  dsimp only
  rw [toByte_toNat, toByte_toNat]
  unfold hdrWf at hwf
  by_cases h : flags.extractLsb' 3 2 = 3
  · rw [if_pos h, List.isEmpty_iff] at hwf
    subst hwf
    rw [if_pos (by rw [h]; rfl)]
    exact .refl _
  · rw [if_neg h, beq_iff_eq] at hwf
    have hn : (flags.extractLsb' 3 2).toNat ≠ 3 := fun hn => h (BitVec.eq_of_toNat_eq hn)
    rw [if_neg hn, ← hwf]
    exact consumes_bytes rfl size _

/-- A length below 15 (R88). -/
theorem consumes_lenV {v : BitVec 4} (h : (v != 15) = true) : parseLen.Consumes (natToBits 4 v.toNat) (.ret (.lenV v)) := by
  rw [bne_iff_ne] at h
  have hlt : v.toNat < 15 := by bv_omega
  refine consumes_field_of_eq rfl v.isLt ((if_pos hlt).trans ?_)
  rw [BitVec.ofNat_toNat, BitVec.setWidth_eq]

/-- A run of zeros (R88). -/
theorem consumes_lenZrun {z : BitVec 4} (h : (z != 0) = true) :
    parseLen.Consumes (natToBits 4 15 ++ natToBits 4 z.toNat) (.ret (.lenZrun z)) := by
  rw [bne_iff_ne] at h
  have hne : z.toNat ≠ 0 := by bv_omega
  refine (consumes_field _ rfl (by decide)).append (consumes_field_of_eq rfl z.isLt ((if_neg hne).trans ?_))
  rw [BitVec.ofNat_toNat, BitVec.setWidth_eq]

/-- An LZ table set (R89). -/
theorem consumes_lzTables {lens : List (BitVec 4)} (h : lens.length = Config.nc + Config.dc + Config.rc) :
    parseLzTables.Consumes (encLens lens) (.ret (.lzTables lens)) := by
  unfold parseLzTables
  rw [← h]
  exact consumes_lens lens (Nat.le_refl _) fun l => .ret (Instr.lzTables l)

/-- An audio table set (R89). -/
theorem consumes_audioTables {ch1 : BitVec 2} {lens : List (BitVec 4)} (h : lens.length = Config.mc * (ch1.toNat + 1)) :
    parseAudioTables.Consumes (natToBits 2 ch1.toNat ++ encLens lens) (.ret (.audioTables ch1 lens)) := by
  refine (consumes_field _ rfl ch1.isLt).append ?_
  rw [← h, BitVec.ofNat_toNat, BitVec.setWidth_eq]
  exact consumes_lens lens (Nat.le_refl _) fun l => .ret (Instr.audioTables ch1 l)

/-- A PPM sub-header (R101). -/
theorem consumes_ppmHdr {p : Byte} {mem esc : Option Byte}
    (hwf : (mem.isSome == p.getLsbD 7 && esc.isSome == p.getLsbD 6) = true) :
    parsePpmHdr.Consumes (encByte p ++ encBytes mem.toList ++ encBytes esc.toList) (.ret (.ppmHdr p mem esc)) := by
  obtain ⟨hmem, hesc⟩ : mem.isSome = p.getLsbD 7 ∧ esc.isSome = p.getLsbD 6 := by simpa using hwf
  refine ((consumes_byte _ rfl p).append ?_).append (consumes_option (f := .byte) rfl hesc fun e => .ret (Instr.ppmHdr p mem e))
  dsimp only
  rw [toByte_toNat]
  exact consumes_option (f := .byte) rfl hmem fun mem =>
    if p.getLsbD 6 then .field .byte fun e => .ret (Instr.ppmHdr p mem (some (toByte e))) else .ret (Instr.ppmHdr p mem none)

/-- A filter kind tag (R109). -/
theorem consumes_kind {n : Nat} {kd : FilterKind} (hn : n < 8) (h : FilterKind.ofTag n = some kd) :
    parseKind.Consumes (natToBits 3 n) (.ret kd.instr) := by
  refine consumes_field_of_eq rfl hn ?_
  rw [h]

/-! ### The obligation -/

/-- A well-formed instruction's encoding is what the grammar of its place reads. -/
theorem roundTrips (c : Ctx) (i : Instr) (hwf : i.wf c = true) : i.RoundTrips c := by
  cases i with
  | nop | reset | start | cancel | bcAttach | bcPeek _ | bcConsume _ | bcRefill | bcAlign | bcExhausted | hufSetlen _ _
  | hufBuild _ _ | hufDecode _ | winPut _ | winCopy _ _ | winRead _ | winFlush | winStat | winInit | ppmInit _ _
  | ppmDecode | saAlloc _ | saFree _ _ | rcInit | saInit _ | fvLoad _ _ | fvSetreg _ _ | fvExec _ _ | fvRead _
  | fvIdent _ => exact consumes_cmd (by decide) rfl
  | lit b => exact consumes_lit c.gen b
  | end00 | end01 | end10 | end11 =>
    exact (consumes_field_of_eq (q := parseEnd .end00 .end01 .end10 .end11) rfl (by decide) rfl).append
      (consumes_end _ _ _ _ (by decide))
  | repeatLast => exact consumes_field_of_eq rfl (by decide) rfl
  | filter t => exact consumes_lzFilter hwf
  | cache0 s e | cache1 s e | cache2 s e =>
    exact consumes_cache (by decide) rfl rfl (by rw [if_pos (cacheLive_of_lt _ (by decide))]; exact hwf)
  | cache3 s e => exact consumes_cache (by decide) rfl rfl hwf
  | match0 e1 d e2 | match1 e1 d e2 | match2 e1 d e2 | match3 e1 d e2 | match4 e1 d e2 | match5 e1 d e2
  | match6 e1 d e2 | match7 e1 d e2 | match8 e1 d e2 | match9 e1 d e2 | match10 e1 d e2 | match11 e1 d e2
  | match12 e1 d e2 | match13 e1 d e2 | match14 e1 d e2 | match15 e1 d e2 | match16 e1 d e2 | match17 e1 d e2
  | match18 e1 d e2 | match19 e1 d e2 | match20 e1 d e2 | match21 e1 d e2 | match22 e1 d e2 | match23 e1 d e2
  | match24 e1 d e2 | match25 e1 d e2 | match26 e1 d e2 | match27 e1 d e2 => exact consumes_match (by decide) rfl hwf
  | audDelta d => exact consumes_audDelta d
  | audEnd00 | audEnd01 | audEnd10 | audEnd11 =>
    exact (consumes_field_of_eq (q := parseEnd .audEnd00 .audEnd01 .audEnd10 .audEnd11) rfl (by decide) rfl).append
      (consumes_end _ _ _ _ (by decide))
  | ppmLit b => exact consumes_ppmLit hwf
  | ppmLitesc => exact consumes_esc c.esc 1
  | ppmNewfile => exact consumes_esc c.esc 2
  | ppmFilter t => exact consumes_ppmFilter c.esc hwf
  | ppmMatch d2 d1 d0 l => exact consumes_ppmMatch c.esc d2 d1 d0 l
  | ppmReserved b => exact consumes_ppmReserved hwf
  | ppmonlyByte b => exact consumes_field_of_eq rfl b.isLt (by rw [toByte_toNat])
  | hdr flags chk size => exact consumes_hdr hwf
  | lenV v => exact consumes_lenV hwf
  | len15 => exact (consumes_field _ rfl (by decide)).append (consumes_field_of_eq rfl (by decide) rfl)
  | lenZrun z => exact consumes_lenZrun hwf
  | lzTables lens =>
    exact consumes_lzTables (beq_iff_eq.1 hwf)
  | audioTables ch1 lens => exact consumes_audioTables (beq_iff_eq.1 hwf)
  | ppmHdr p mem esc => exact consumes_ppmHdr hwf
  | filterTok t => exact consumes_filter (f := .byte) (t := t) rfl hwf fun t => .ret (Instr.filterTok t)
  | fkNone => exact consumes_kind (by decide) (kd := .none) rfl
  | fkE8 => exact consumes_kind (by decide) (kd := .e8) rfl
  | fkE8E9 => exact consumes_kind (by decide) (kd := .e8e9) rfl
  | fkItanium => exact consumes_kind (by decide) (kd := .itanium) rfl
  | fkDelta => exact consumes_kind (by decide) (kd := .delta) rfl
  | fkRgb => exact consumes_kind (by decide) (kd := .rgb) rfl
  | fkAudio => exact consumes_kind (by decide) (kd := .audio) rfl

/-- Settles O53: the grammar reads the encoder's bits, so `decode` gives the instruction and the bits after it. -/
theorem decodeUndoesEncode : Obligations.DecodeUndoesEncode := fun c i rest hwf => roundTrips c i hwf rest

end Sys2Proof
end

section
/-! PROOFS. The accepted and the refused host commands (spec/30_encoding.md R81 to R83, spec/60_exceptions.md R405): `NOP`, `CANCEL`
and its poll, and every way a command is refused. -/

namespace Sys2Proof

/-! ### Command words (R81) -/

/-- Bits written in two parts. -/
theorem natToBits_add (m n v : Nat) : natToBits (m + n) v = natToBits m (v / 2 ^ n) ++ natToBits n v := by
  induction m with
  | zero => simp [natToBits]
  | succ m ih => rw [Nat.succ_add, natToBits, ih, natToBits, Nat.testBit_div_two_pow, List.cons_append]

/-- A grammar that reads a field of `n` bits reads the low `n` bits of what was written. -/
theorem runBits_field_mod {α : Type} (f : Field) (k : Nat → Parse α) (v : Nat) (l : List Bool) :
    (Parse.field f k).runBits (natToBits f.width v ++ l) = (k (v % 2 ^ f.width)).runBits l := by
  have hl : (natToBits f.width v ++ l).length = f.width + l.length := by simp
  rw [Parse.runBits, if_neg (by omega), List.take_left' (length_natToBits _ _), List.drop_left' (length_natToBits _ _),
    bitsToNat_natToBits]

/-- A command word is `op`, `a` and `b` one after the other. -/
theorem natToBits_cmd (v : Nat) :
    natToBits 72 v = natToBits 8 (v / 2 ^ 64) ++ (natToBits 32 (v / 2 ^ 32) ++ (natToBits 32 v ++ [])) := by
  rw [List.append_nil, ← natToBits_add, ← natToBits_add]

/-- A command word whose `op` R83 does not list is no command. -/
theorem decodeCmd_unknown {w : BitVec 72} (h : ∀ a b, commandOf (w.extractLsb' 64 8).toNat a b = none) :
    decodeCmd w = .error (.unknownOp (w.extractLsb' 64 8).toNat) := by
  have hop : (w.extractLsb' 64 8).toNat = w.toNat / 2 ^ 64 % 2 ^ 8 := by
    rw [BitVec.extractLsb'_toNat, Nat.shiftRight_eq_div_pow]
  have hdecode : decode .cmd (natToBits 72 w.toNat) = .error (.unknownOp (w.extractLsb' 64 8).toNat) := by
    rw [natToBits_cmd]
    refine (runBits_field_mod (.raw 8) _ _ _).trans ((runBits_field_mod (.raw 32) _ _ _).trans
      ((runBits_field_mod (.raw 32) _ _ _).trans ?_))
    change Parse.runBits (match commandOf (w.toNat / 2 ^ 64 % 2 ^ 8) _ _ with
      | some i => .ret i
      | none => .fail (.unknownOp (w.toNat / 2 ^ 64 % 2 ^ 8))) [] = _
    rw [← hop, h]
    rfl
  rw [decodeCmd, hdecode]
  rfl

theorem commandOf_unlisted {op : Nat} (h : op ∉ [0x00, 0x01, 0x02, 0x03, 0x10, 0x11, 0x12, 0x13, 0x14, 0x15, 0x20, 0x21, 0x22,
    0x30, 0x31, 0x32, 0x33, 0x34, 0x35, 0x40, 0x41, 0x42, 0x43, 0x44, 0x45, 0x50, 0x51, 0x52, 0x53, 0x54]) (a b : Word) :
    commandOf op a b = none := by
  unfold commandOf
  split
  case h_31 => rfl
  all_goals exact absurd h (by decide)

/-- Settles O54: each word is read field by field. -/
theorem sampleWordsDecode : Obligations.SampleWordsDecode := ⟨rfl, rfl, rfl, rfl, rfl, rfl, rfl, rfl, rfl⟩

end Sys2Proof

namespace Sys2Proof.Machine

/-! ### Commands accepted in every state -/

/-- Settles O1: `NOP` clears `CMD_ERR`. -/
theorem nopChangesOnlyCmdErr : Obligations.NopChangesOnlyCmdErr := fun _ => rfl

/-- A step of the CORE's own that fetches an instruction executes it. -/
theorem step_of_fetchCore_instr {s t : State} {i : Instr} (hq : s.quiet = true) (h : fetchCore s.tick s.tick = .ok (some i) t) :
    step s = exec i t := by
  have hfetch : fetchNext s = .instr i t := by rw [fetchNext_quiet hq, coreFetch, h]
  rw [step, hfetch]

/-- A step of the CORE's own that ends without an instruction. -/
theorem step_of_fetchCore_done {s t : State} (hq : s.quiet = true) (h : fetchCore s.tick s.tick = .ok none t) :
    step s = .next t := by
  have hfetch : fetchNext s = .done t := by rw [fetchNext_quiet hq, coreFetch, h]
  rw [step, hfetch]

/-- Only the host's coming actions differ in the state the CORE's own step runs in. -/
theorem State.tick_eq (s : State) : s.tick = s.setHost s.tick.host := by
  unfold State.tick
  split <;> rfl

/-- The poll (R357). -/
theorem fetchCore_cancelled {s : State} (hc : s.par.cancel = true)
    (hfsm : s.ses.fsm ∈ [Fsm.hdr, .lz, .aud, .ppm, .ppmonly]) : fetchCore s s = .ok none s.cancelled := by
  simp only [List.mem_cons, List.not_mem_nil, or_false] at hfsm
  unfold fetchCore
  obtain h | h | h | h | h := hfsm <;> rw [h] <;> dsimp only <;> rw [if_pos hc] <;> rfl

@[simp] theorem State.tick_cur (s : State) : s.tick.cur = s.cur := (congrArg State.cur s.tick_eq :)
@[simp] theorem State.tick_win (s : State) : s.tick.win = s.win := (congrArg State.win s.tick_eq :)
@[simp] theorem State.tick_tabs (s : State) : s.tick.tabs = s.tabs := (congrArg State.tabs s.tick_eq :)
@[simp] theorem State.tick_tok (s : State) : s.tick.tok = s.tok := (congrArg State.tok s.tick_eq :)
@[simp] theorem State.tick_par (s : State) : s.tick.par = s.par := (congrArg State.par s.tick_eq :)
@[simp] theorem State.tick_st (s : State) : s.tick.st = s.st := (congrArg State.st s.tick_eq :)
@[simp] theorem State.tick_ppm (s : State) : s.tick.ppm = s.ppm := (congrArg State.ppm s.tick_eq :)
@[simp] theorem State.tick_vm (s : State) : s.tick.vm = s.vm := (congrArg State.vm s.tick_eq :)
@[simp] theorem State.tick_ses (s : State) : s.tick.ses = s.ses := (congrArg State.ses s.tick_eq :)

/-- Settles O3: `CANCEL` sets the flag, and the fetch that polls it ends the session. -/
theorem cancelEndsTheSessionAtTheNextPoll : Obligations.CancelEndsTheSessionAtTheNextPoll := by
  refine ⟨fun _ => rfl, fun s hq hc hfsm => ?_⟩
  have hfetch : fetchCore s.tick s.tick = .ok none s.tick.cancelled :=
    fetchCore_cancelled (by rwa [s.tick_par]) (by rwa [s.tick_ses])
  rw [step_of_fetchCore_done hq hfetch, ← s.tick_st, ← s.tick_cur, ← s.tick_vm, ← s.tick_ses]
  rfl

/-! ### How a command is refused (R82, R405) -/

theorem portCommand_refuse (c : Bool) (x : M (Option Word)) (s : State) (h : s.isIdle = false ∨ c = false) :
    portCommand c x s = .next s.refuse := by
  obtain h | h := h <;> simp [portCommand, h]

/-- A command that a port error refuses keeps the cursor's progress only (R82, R134; log entry 19). -/
theorem portCommand_fatal {c : Bool} {x : M (Option Word)} {s t : State} {f : Fatal} (hi : s.isIdle = true) (hc : c = true)
    (hx : x s.accept = .error (.fatal f) t) : portCommand c x s = .next (s.setCur t.cur).refuse := by
  simp [portCommand, hi, hc, hx]

theorem bind_error {σ ε α β : Type} {x : EStateM ε σ α} {f : α → EStateM ε σ β} {s t : σ} {e : ε} (h : x s = .error e t) :
    (x >>= f) s = .error e t := by simp only [Bind.bind, EStateM.bind, h]

theorem bind_of_ok {σ ε α β : Type} {x : EStateM ε σ α} {f : α → EStateM ε σ β} {s t : σ} {a : α} (h : x s = .ok a t) :
    (x >>= f) s = f a t := by simp only [Bind.bind, EStateM.bind, h]

theorem onCur_error {α : Type} {x : CurM α} {s : State} {c : Cursor} {e : Halt} (h : x s.cur = .error e c) :
    onCur x s = .error e (s.setCur c) := by simp only [onCur, h]

theorem onCur_of_ok {α : Type} {x : CurM α} {s : State} {c : Cursor} {a : α} (h : x s.cur = .ok a c) :
    onCur x s = .ok a (s.setCur c) := by simp only [onCur, h]

/-- While busy every command but `NOP`, `RESET`, `CANCEL` is refused. -/
theorem exec_busy {i : Instr} {c : Ctx} {s : State} (hi : slotOf c i = .cmd) (hne : i ∉ [Instr.nop, .reset, .cancel])
    (hbusy : s.isIdle = false) : exec i s = .next s.refuse := by
  cases i with
  | nop | reset | cancel => simp at hne
  | start => exact if_neg (by simp [State.startAccepted, hbusy])
  | winFlush => exact if_neg (by simp [hbusy])
  | bcPeek _ | bcRefill | bcExhausted | hufDecode _ | ppmDecode | rcInit => exact portCommand_refuse _ _ s (.inl hbusy)
  | bcAttach | bcConsume _ | bcAlign | hufSetlen _ _ | hufBuild _ _ | winPut _ | winCopy _ _ | winRead _ | winStat | winInit
  | ppmInit _ _ | saAlloc _ | saFree _ _ | saInit _ | fvLoad _ _ | fvSetreg _ _ | fvExec _ _ | fvRead _ | fvIdent _ =>
    dsimp only [exec]
    exact idleCommand_refuse _ s _ (.inl hbusy)
  | _ => cases hi

theorem Window.not_hasRoom {x : Window} {n : Nat} (h : x.w = 0 ∨ x.w < x.tw - x.tf + n) : x.hasRoom n = false := by
  simp only [Window.hasRoom, Bool.and_eq_false_iff, bne_eq_false_iff_eq, decide_eq_false_iff_not]
  omega

section
variable {s : State}

theorem execBcPeek_unfit {n : Word} (h : 32 < n.toNat) : execBcPeek n s = .next s.refuse :=
  portCommand_refuse _ _ s (.inr (decide_eq_false (Nat.not_le.2 h)))

theorem execBcConsume_unfit {n : Word} (h : 32 < n.toNat) : execBcConsume n s = .next s.refuse :=
  idleCommand_refuse _ s _ (.inr (decide_eq_false (Nat.not_le.2 h)))

theorem execHufSetlen_unfit {x l : Word} (h : 1027 < x.toNat ∨ 255 < l.toNat) : execHufSetlen x l s = .next s.refuse := by
  refine idleCommand_refuse _ s _ (.inr ?_)
  rw [Bool.and_eq_false_iff, decide_eq_false_iff_not, decide_eq_false_iff_not, Nat.not_lt, Nat.not_le]
  exact h

/-- A table or a count out of range (R156). -/
theorem execHufBuild_unfit {id n : Word} (h : 6 < id.toNat ∨ n = 0 ∨ (id = 0 ∧ 291 < n.toNat) ∨ (id = 1 ∧ 48 < n.toNat) ∨
    (id = 2 ∧ 28 < n.toNat) ∨ (3 ≤ id.toNat ∧ 257 < n.toNat)) : execHufBuild id n s = .next s.refuse := by
  refine idleCommand_refuse _ s _ (.inr ?_)
  obtain h | h | ⟨rfl, h⟩ | ⟨rfl, h⟩ | ⟨rfl, h⟩ | ⟨hid, h⟩ := h
  · simp [h]
  · simp [h]
  · simpa [tableCapacity, Config.nc] using fun _ => h
  · simpa [tableCapacity, Config.dc] using fun _ => h
  · simpa [tableCapacity, Config.rc] using fun _ => h
  · have hcap : tableCapacity id.toNat = 257 := by
      unfold tableCapacity
      split
      case h_4 => rfl
      all_goals omega
    simpa [hcap] using fun _ _ => h

theorem execHufDecode_unfit {id : Word} (h : 6 < id.toNat ∨ (s.tabs.byId id.toNat).valid = false) :
    execHufDecode id s = .next s.refuse := by
  refine portCommand_refuse _ _ s (.inr ?_)
  rw [Bool.and_eq_false_iff, decide_eq_false_iff_not, Nat.not_le]
  exact h

theorem execWinPut_unfit {b : Word} (h : 255 < b.toNat ∨ s.win.w = 0 ∨ s.win.w < s.win.tw - s.win.tf + 1) :
    execWinPut b s = .next s.refuse := by
  refine idleCommand_refuse _ s _ (.inr ?_)
  rw [Bool.and_eq_false_iff, decide_eq_false_iff_not, Nat.not_le]
  exact h.imp_right Window.not_hasRoom

theorem execWinCopy_unfit {d n : Word} (h : s.win.w = 0 ∨ s.win.w < s.win.tw - s.win.tf + n.toNat) :
    execWinCopy d n s = .next s.refuse :=
  idleCommand_refuse _ s _ (.inr (Window.not_hasRoom h))

theorem execWinFlush_unfit (h : s.win.w = 0) : execWinFlush s = .next s.refuse := if_neg (by simp [h])

theorem execWinStat_unfit (h : s.win.w = 0) : execWinStat s = .next s.refuse :=
  idleCommand_refuse _ s _ (.inr (by rw [h]; rfl))

theorem execWinRead_unfit {x : Word} (h : s.win.w = 0) : execWinRead x s = .next s.refuse :=
  idleCommand_refuse _ s _ (.inr (by rw [h]; rfl))

theorem execSaAlloc_unfit {n : Word} (h : s.ppm.alloc = true ∨ n = 0 ∨ 128 < n.toNat) : execSaAlloc n s = .next s.refuse := by
  refine idleCommand_refuse _ s _ (.inr ?_)
  simp only [Bool.and_eq_false_iff, Bool.not_eq_false', bne_eq_false_iff_eq, decide_eq_false_iff_not, Nat.not_le, or_assoc]
  exact h

theorem execSaFree_unfit {x n : Word} (h : s.ppm.alloc = true ∨ n = 0 ∨ 128 < n.toNat ∨ s.sa.brk < x.toNat + n.toNat) :
    execSaFree x n s = .next s.refuse := by
  refine idleCommand_refuse _ s _ (.inr ?_)
  simp only [Bool.and_eq_false_iff, Bool.not_eq_false', bne_eq_false_iff_eq, decide_eq_false_iff_not, Nat.not_le, or_assoc]
  exact h

theorem execSaInit_unfit : execSaInit 0xFFFFFFFF#32 s = .next s.refuse := idleCommand_refuse _ s _ (.inr rfl)

theorem execFvLoad_unfit {o b : Word} (h : 262144 ≤ o.toNat ∨ 255 < b.toNat) : execFvLoad o b s = .next s.refuse := by
  refine idleCommand_refuse _ s _ (.inr ?_)
  rw [Bool.and_eq_false_iff, decide_eq_false_iff_not, decide_eq_false_iff_not, Nat.not_lt, Nat.not_le]
  exact h

theorem execFvSetreg_unfit {r v : Word} (h : 7 < r.toNat) : execFvSetreg r v s = .next s.refuse :=
  idleCommand_refuse _ s _ (.inr (decide_eq_false (Nat.not_le.2 h)))

theorem execFvRead_unfit {o : Word} (h : 262144 ≤ o.toNat) : execFvRead o s = .next s.refuse :=
  idleCommand_refuse _ s _ (.inr (decide_eq_false (Nat.not_lt.2 h)))

theorem execFvIdent_unfit {n : Word} (h : 262144 < n.toNat) : execFvIdent n s = .next s.refuse :=
  idleCommand_refuse _ s _ (.inr (decide_eq_false (Nat.not_le.2 h)))

theorem execFvExec_unfit {k n : Word} (h : 6 < k.toNat ∨ 262144 < n.toNat) : execFvExec k n s = .next s.refuse := by
  refine idleCommand_refuse _ s _ (.inr ?_)
  rw [Bool.and_eq_false_iff, decide_eq_false_iff_not, decide_eq_false_iff_not, Nat.not_le, Nat.not_le]
  exact h

/-! ### Refused after a port error (R134, R248, R287) -/

theorem refill_error_bitpos {c d : Cursor} {e : Halt} (h : refill c = .error e d) : d.bitpos = c.bitpos := by
  have hpos := bitpos_refill c
  rwa [h] at hpos

/-- The commands that refill first, refused because the port failed. -/
theorem exec_refillFails {i : Instr} {c : Cursor} {f : Fatal} (hi : s.isIdle = true) (h : refill s.cur = .error (.fatal f) c)
    (hc : (∃ n : Word, n.toNat ≤ 32 ∧ i = .bcPeek n) ∨ i = .bcRefill ∨ i = .bcExhausted ∨
      ∃ id : Word, id.toNat ≤ 6 ∧ (s.tabs.byId id.toNat).valid = true ∧ (s.tabs.byId id.toNat).fake = none ∧
        i = .hufDecode id) : exec i s = .next (s.setCur c).refuse := by
  have hrefill : refill s.accept.cur = .error (.fatal f) c := h
  obtain ⟨n, hn, rfl⟩ | rfl | rfl | ⟨id, hid, hvalid, hfake, rfl⟩ := hc
  · have hpeek : peek n.toNat s.accept.cur = .error (.fatal f) c := by rw [peek_eq, hrefill]
    exact portCommand_fatal hi (decide_eq_true hn) (bind_error (onCur_error hpeek))
  · exact portCommand_fatal hi rfl (bind_error (onCur_error hrefill))
  · have hover : overrun s.accept.cur = .error (.fatal f) c := by rw [overrun_eq, hrefill]
    exact portCommand_fatal hi rfl (bind_error (onCur_error hover))
  · have hdecode (n : Nat) : (s.tabs.byId id.toNat).decode n s.accept.cur = .error (.fatal f) c := by
      rw [HuffTable.decode_eq, hfake, hrefill]
    exact portCommand_fatal hi (by rw [decide_eq_true hid, hvalid]; rfl) (bind_error (bind_error (onCur_error (hdecode _))))

/-- `RC.INIT` (R248) refused because the port failed. -/
theorem execRcInit_fails {w : PpmWorld} {f : Fatal} (hi : s.isIdle = true)
    (h : rcInit { s.world with cur := s.cur.align } = .error (.fatal f) w) : execRcInit s = .next (s.setCur w.cur).refuse := by
  have hinit : onPpm rcInit (s.accept.setCur s.cur.align) = .error (.fatal f)
      (((s.accept.setCur s.cur.align).setWorld w).noteIf w.restarted .ppmRestart) := by
    unfold onPpm
    exact h ▸ rfl
  refine (portCommand_fatal hi rfl ((bind_of_ok rfl).trans (bind_error hinit))).trans ?_
  rw [State.noteIf_cur]
  rfl

/-- `PPM.DECODE` (R287) refused because the port failed. -/
theorem execPpmDecode_fails {w : PpmWorld} {f : Fatal} (hi : s.isIdle = true) (ha : s.ppm.alloc = true)
    (h : ppmDecode s.world = .error (.fatal f) w) : execPpmDecode s = .next (s.setCur w.cur).refuse := by
  have hdecode : onPpmQuietly ppmDecode s.accept = .error (.fatal f) (s.accept.setWorld w) := by
    unfold onPpmQuietly
    exact h ▸ rfl
  exact portCommand_fatal hi ha (bind_error hdecode)

end

/-- Settles O9: a busy CORE, an unfit command, an unlisted `op` and a failing port each lead to `State.refuse`. -/
theorem refusedCommandsHaveNoEffect : Obligations.RefusedCommandsHaveNoEffect := by
  refine ⟨fun i c s hcmd hne hbusy => exec_busy hcmd hne hbusy, ?_, fun s w d rest hop hhost hdue => ?_,
    fun s f c i hi h hc => ⟨refill_error_bitpos h, exec_refillFails hi h hc⟩,
    fun s f w hi => ⟨execRcInit_fails hi, execPpmDecode_fails hi⟩⟩
  · rintro s i (⟨n, h, rfl | rfl⟩ | ⟨x, l, h, rfl⟩ | ⟨id, n, h, rfl⟩ | ⟨id, h, rfl⟩ | ⟨b, h, rfl⟩ | ⟨d, n, h, rfl⟩ |
      ⟨h, rfl | rfl | ⟨x, rfl⟩⟩ | ⟨h, rfl⟩ | ⟨n, h, rfl⟩ | ⟨x, n, h, rfl⟩ | rfl | ⟨o, b, h, rfl⟩ | ⟨r, v, h, rfl⟩ |
      ⟨k, n, h, rfl⟩ | ⟨o, h, rfl⟩ | ⟨n, h, rfl⟩)
    · exact execBcPeek_unfit h
    · exact execBcConsume_unfit h
    · exact execHufSetlen_unfit h
    · exact execHufBuild_unfit h
    · exact execHufDecode_unfit h
    · exact execWinPut_unfit h
    · exact execWinCopy_unfit h
    · exact execWinFlush_unfit h
    · exact execWinStat_unfit h
    · exact execWinRead_unfit h
    · exact portCommand_refuse _ _ s (.inr h)
    · exact execSaAlloc_unfit h
    · exact execSaFree_unfit h
    · exact execSaInit_unfit
    · exact execFvLoad_unfit h
    · exact execFvSetreg_unfit h
    · exact execFvExec_unfit h
    · exact execFvRead_unfit h
    · exact execFvIdent_unfit h
  · have hcode : decodeCmd w = .error _ := decodeCmd_unknown (commandOf_unlisted hop)
    have hfetch : hostFetch (.cmd w) (s.setHost rest) = .done (s.setHost rest).refuse := by rw [hostFetch, hcode]
    exact step_due hhost hdue hfetch

end Sys2Proof.Machine
end

section
/-! PROOFS. The stream structures before the tokens: a block header (spec/30_encoding.md R84 to R87, spec/43_tokens.md R182 to R186),
the entries of a length sequence (R88) and a whole table set (R89, spec/43_tokens.md R188, R231). -/

namespace Sys2Proof.Machine

/-! ### Length entries (R88) -/

/-- The tables with the length `v` at the next place. -/
def Tables.pushOne (t : Tables) (v : Byte) : Tables :=
  { t with lenbuf := t.lenbuf.setIfInBounds t.lenPos v, lenPos := t.lenPos + 1 }

theorem Tables.pushLens_succ {t : Tables} (h : t.lenPos < t.lenTot) (v : Byte) (n : Nat) :
    t.pushLens v (n + 1) = (t.pushOne v).pushLens v n := if_pos h

theorem Tables.pushLens_full {t : Tables} (h : t.lenTot ≤ t.lenPos) (v : Byte) (n : Nat) : t.pushLens v n = t := by
  cases n with
  | zero => rfl
  | succ n => exact if_neg (Nat.not_lt.2 h)

/-- A run of lengths changes the stage and the place only. -/
theorem Tables.pushLens_eq (t : Tables) (v : Byte) (n : Nat) :
    t.pushLens v n = { t with lenbuf := (t.pushLens v n).lenbuf, lenPos := (t.pushLens v n).lenPos } := by
  induction n generalizing t with
  | zero => rfl
  | succ n ih =>
    obtain h | h := Nat.lt_or_ge t.lenPos t.lenTot
    · rw [Tables.pushLens_succ h]
      exact ih (t.pushOne v)
    · rw [Tables.pushLens_full h]

/-- A run is cut short at the end of the set. -/
theorem Tables.pushLens_lenPos {t : Tables} (hpos : t.lenPos ≤ t.lenTot) (v : Byte) (n : Nat) :
    (t.pushLens v n).lenPos = min (t.lenPos + n) t.lenTot := by
  induction n generalizing t with
  | zero => exact (Nat.min_eq_left hpos).symm
  | succ n ih =>
    obtain h | h := Nat.lt_or_ge t.lenPos t.lenTot
    · rw [Tables.pushLens_succ h, ih (t := t.pushOne v) h]
      simp only [Tables.pushOne]
      omega
    · rw [Tables.pushLens_full h]
      omega

/-- The places from the old one up to the new one hold the length, every other what it held. -/
theorem Tables.pushLens_lenbuf {t : Tables} (hpos : t.lenPos ≤ t.lenTot) (htot : t.lenTot ≤ Config.lenbufSize) (v : Byte)
    (n j : Nat) : (t.pushLens v n).lenbuf[j]? =
      if t.lenPos ≤ j ∧ j < (t.pushLens v n).lenPos then some v else t.lenbuf[j]? := by
  rw [Tables.pushLens_lenPos hpos]
  induction n generalizing t with
  | zero =>
    rw [if_neg (by omega)]
    rfl
  | succ n ih =>
    obtain h | h := Nat.lt_or_ge t.lenPos t.lenTot
    · have hhead : (t.pushOne v).lenbuf[j]? = if t.lenPos = j then some v else t.lenbuf[j]? := by
        rw [Tables.pushOne, Vector.getElem?_setIfInBounds]
        split <;> grind
      rw [Tables.pushLens_succ h, ih (t := t.pushOne v) h htot, hhead]
      simp only [Tables.pushOne]
      grind
    · rw [Tables.pushLens_full h, if_neg (by omega)]

/-- Settles O45: one length, or as many zeros as the run and the set allow. -/
theorem lengthEntriesFillTheStage : Obligations.LengthEntriesFillTheStage := by
  intro s hpos htot
  have hone (v : Byte) : s.tabs.pushLens v 1 = s.tabs.pushOne v := Tables.pushLens_succ hpos v 0
  refine ⟨fun v => ?_, ?_, fun z => ⟨_, rfl, ?_, fun j => ?_, ?_⟩⟩
  · exact congrArg (Host.Outcome.next ∘ s.setTabs) (hone _)
  · exact congrArg (Host.Outcome.next ∘ s.setTabs) (hone _)
  · exact (Tables.pushLens_lenPos hpos.le _ _).trans (by rw [Nat.add_assoc])
  · exact Tables.pushLens_lenbuf hpos.le htot _ _ j
  · exact congrArg s.setTabs (Tables.pushLens_eq _ _ _)

/-! ### Block headers -/

theorem hdrSize_toNat (flags : Byte) : (flags.extractLsb' 3 2).toNat = (flags.toNat / 8) % 4 := by
  rw [BitVec.extractLsb'_toNat, Nat.shiftRight_eq_div_pow]

/-- `SIZE` is little-endian (R84). -/
theorem sum_zipIdx_eq (size : List Byte) (n : Nat) :
    ((size.zipIdx n).map fun p => p.1.toNat * 256 ^ p.2).sum = sizeValue size * 256 ^ n := by
  induction size generalizing n with
  | nil => simp [sizeValue]
  | cons b t ih =>
    rw [List.zipIdx_cons, List.map_cons, List.sum_cons, ih, sizeValue]
    ring

theorem payloadBits_eq (flags : Byte) (n : Nat) :
    payloadBits flags n = if n = 0 then 0 else 8 * (n - 1) + flags.toNat % 8 + 1 := by
  rw [payloadBits, BitVec.extractLsb'_toNat]
  rfl

/-- A flag of the header by its weight. -/
theorem getLsbD_iff (flags : Byte) (k : Nat) : flags.getLsbD k = true ↔ 2 ^ k ≤ flags.toNat % 2 ^ (k + 1) := by
  have hlow : flags.toNat % 2 ^ k < 2 ^ k := Nat.mod_lt _ (Nat.two_pow_pos k)
  have hbit : flags.toNat / 2 ^ k % 2 = 0 ∨ flags.toNat / 2 ^ k % 2 = 1 := Nat.mod_two_eq_zero_or_one _
  rw [BitVec.getLsbD, Nat.testBit_eq_decide_div_mod_eq, decide_eq_true_iff, Nat.pow_succ, Nat.mod_mul]
  obtain h | h := hbit <;> rw [h] <;> omega

/-! #### Where the dispatcher goes (R185) -/

section
variable {s : State}

theorem State.enterBlock_ppm (hp : s.ses.hPpm = true) : s.enterBlock = s.setFsm .ppmhdr := if_pos hp

theorem State.enterBlock_tables (hp : s.ses.hPpm = false) (ht : s.ses.hTables = true) :
    s.enterBlock = s.readTables s.tokenFsm := by
  rw [State.enterBlock, if_neg (by rw [hp]; decide), if_pos ht]

theorem State.enterBlock_tokens (hp : s.ses.hPpm = false) (ht : s.ses.hTables = false) (hr : s.tablesReady = true) :
    s.enterBlock = s.setFsm s.tokenFsm := by
  rw [State.enterBlock, if_neg (by rw [hp]; decide), if_neg (by rw [ht]; decide), if_pos hr]

theorem State.enterBlock_noTables (hp : s.ses.hPpm = false) (ht : s.ses.hTables = false) (hr : s.tablesReady = false) :
    s.enterBlock = s.raiseFatal .corrupt .noTables := by
  rw [State.enterBlock, if_neg (by rw [hp]; decide), if_neg (by rw [ht]; decide), if_neg (by rw [hr]; decide)]

end

/-- Only `FSM` of the dispatcher's registers changes. -/
theorem State.enterBlock_ses (s : State) : s.enterBlock.ses = { s.ses with fsm := s.enterBlock.ses.fsm } := by
  unfold State.enterBlock State.readTables
  repeat' split
  all_goals rfl

theorem State.isG1_iff (s : State) : s.isG1 = true ↔ s.ses.verL.toNat = 0 := by
  rw [State.isG1, beq_iff_eq, ← BitVec.toNat_inj]
  rfl

/-- Which tables a block's tokens need (R186). -/
theorem State.tablesReady_iff (s : State) : s.tablesReady = true ↔ s.ses.verL.toNat = 0 ∨
    (s.ses.hAudio = true ∧ s.tabs.audioValid = true) ∨ (¬ s.ses.hAudio = true ∧ s.tabs.tablesValid = true) := by
  rw [State.tablesReady, Bool.or_eq_true, s.isG1_iff]
  cases s.ses.hAudio <;> simp

/-- The latches of a header (R183, R184). -/
theorem latchHeader_flags (s : State) (flags : Byte) (size : List Byte) :
    ((s.latchHeader flags size).ses.hTables = true ↔ 128 ≤ flags.toNat) ∧
    ((s.latchHeader flags size).ses.hAudio = true ↔
      64 ≤ flags.toNat % 128 ∧ (s.ses.verL.toNat = 1 ∨ s.ses.verL.toNat = 2)) ∧
    ((s.latchHeader flags size).ses.hPpm = true ↔
      32 ≤ flags.toNat % 64 ∧ s.ses.verL.toNat = 3 ∧ s.ppm.disabled = false) := by
  have hver (k : BitVec 3) : (s.ses.verL == k) = true ↔ s.ses.verL.toNat = k.toNat := by rw [beq_iff_eq, BitVec.toNat_inj]
  have h7 : flags.getLsbD 7 = true ↔ 128 ≤ flags.toNat := by rw [getLsbD_iff, Nat.mod_eq_of_lt flags.isLt]; rfl
  refine ⟨h7, ?_, ?_⟩
  · exact Bool.and_eq_true_iff.trans (and_congr (getLsbD_iff flags 6) (Bool.or_eq_true_iff.trans (or_congr (hver 1) (hver 2))))
  · have hdis : (!s.ppm.disabled) = true ↔ s.ppm.disabled = false := by rw [Bool.not_eq_true']
    refine Bool.and_eq_true_iff.trans ((and_congr (Bool.and_eq_true_iff.trans ?_) hdis).trans and_assoc)
    exact and_congr (getLsbD_iff flags 5) (hver 3)

/-! #### The outcomes of a header (R85) -/

section
variable {s : State} {flags chk : Byte} {size : List Byte}

/-- The reserved number of `SIZE` bytes. -/
theorem hdr_reserved_iff : flags.extractLsb' 3 2 = 3 ↔ (flags.toNat / 8) % 4 = 3 := by
  rw [← hdrSize_toNat, ← BitVec.toNat_inj]
  rfl

theorem exec_hdr_reserved (h : flags.extractLsb' 3 2 = 3) :
    exec (.hdr flags chk size) s = .next (s.raiseFatal .corrupt .badHeader) := congrArg Host.Outcome.next (if_pos h)

theorem exec_hdr_badCheck (h : ¬ flags.extractLsb' 3 2 = 3) (hchk : hdrCheck flags size ≠ chk) :
    exec (.hdr flags chk size) s = .next (s.raiseFatal .hdrChecksum .none) :=
  congrArg Host.Outcome.next ((if_neg h).trans (if_pos hchk))

theorem exec_hdr_good (h : ¬ flags.extractLsb' 3 2 = 3) (hchk : hdrCheck flags size = chk) :
    exec (.hdr flags chk size) s = .next (s.latchHeader flags size).enterBlock :=
  congrArg Host.Outcome.next ((if_neg h).trans (if_neg (not_not_intro hchk)))

end

/-- Settles O44: the failures in order, then the latches, then the ways of R185 one by one. -/
theorem headerStartsABlock : Obligations.HeaderStartsABlock := by
  intro s flags chk size n fail
  refine ⟨fun h3 => exec_hdr_reserved (hdr_reserved_iff.2 h3),
    fun h3 _ hchk => exec_hdr_badCheck (fun h => h3.ne (hdr_reserved_iff.1 h)) hchk, fun h3 _ hchk => ?_⟩
  intro bytes g audio ppm tables next
  obtain ⟨htables, haudio, hppm⟩ := latchHeader_flags s flags size
  have hexec := exec_hdr_good (s := s) (fun h => h3.ne (hdr_reserved_iff.1 h)) hchk
  generalize hu : s.latchHeader flags size = u at *
  have hses := u.enterBlock_ses
  have hend : u.ses.blockEnd = s.cur.bitpos + (if bytes = 0 then 0 else 8 * (bytes - 1) + flags.toNat % 8 + 1) := by
    have hbytes : bytes = sizeValue size := (sum_zipIdx_eq size 0).trans (by rw [Nat.pow_zero, Nat.mul_one])
    rw [hbytes, ← payloadBits_eq, ← hu]
    rfl
  have hkeep : u.ses = { s.ses with
      blockEnd := u.ses.blockEnd, hTables := u.ses.hTables, hAudio := u.ses.hAudio, hPpm := u.ses.hPpm } := hu ▸ rfl
  have hstate : u = { s with ses := u.ses } := hu ▸ rfl
  have hg : u.ses.verL.toNat = g := hu ▸ rfl
  have htabs : u.tabs = s.tabs := hu ▸ rfl
  have hg1 : u.isG1 = true ↔ g = 0 := u.isG1_iff.trans (by rw [hg])
  have hready := u.tablesReady_iff
  rw [hg, htabs, haudio] at hready
  have hnext : u.tokenFsm = next := if_congr haudio rfl rfl
  have hppm' (h : ¬ ppm) : u.ses.hPpm = false := Bool.eq_false_iff.2 (mt hppm.1 h)
  have htables' (h : ¬ tables) : u.ses.hTables = false := Bool.eq_false_iff.2 (mt htables.1 h)
  refine ⟨u.enterBlock, hexec, by rw [hses]; exact hend, by rw [hses]; exact htables, by rw [hses]; exact haudio,
    by rw [hses]; exact hppm, by rw [hses, hkeep], fun hp => ?_, fun hp ht h0 => ?_, fun hp ht h0 => ?_, fun hp ht hr => ?_,
    fun hp ht hr => ?_⟩
  · rw [State.enterBlock_ppm (hppm.2 hp), hstate]
    exact ⟨rfl, rfl⟩
  · have hlz : u.tokenFsm = .lz := hnext.trans (if_neg (by omega))
    rw [State.enterBlock_tables (hppm' hp) (htables.2 ht), State.readTables, if_pos (hg1.2 h0), hlz, hstate]
    exact ⟨rfl, rfl⟩
  · rw [State.enterBlock_tables (hppm' hp) (htables.2 ht), State.readTables, if_neg (mt hg1.1 h0), hstate]
    exact ⟨rfl, rfl⟩
  · rw [State.enterBlock_tokens (hppm' hp) (htables' ht) (hready.2 hr), hnext, hstate]
    exact ⟨rfl, rfl⟩
  · rw [State.enterBlock_noTables (hppm' hp) (htables' ht) (Bool.eq_false_iff.2 (mt hready.1 hr)), hstate]
    exact ⟨rfl, rfl⟩

end Sys2Proof.Machine
end

section
/-! PROOFS. Whole table sets (spec/30_encoding.md R89, spec/43_tokens.md R188, R231): the lengths go to the stage, each table is built
from its part of them, and none of 4-bit lengths is rejected (spec/41_huffman.md R143). -/

namespace Sys2Proof.Machine

/-! ### The stage -/

/-- The stage holds the lengths, and beyond them what it held. -/
theorem Tables.putLens_lenbuf (t : Tables) (lens : List (BitVec 4)) {j : Nat} (hj : j < Config.lenbufSize) :
    (t.putLens lens).lenbuf[j]? = if j < lens.length then (lens[j]?).map (·.setWidth 8) else t.lenbuf[j]? := by
  rw [Tables.putLens, Vector.getElem?_ofFn, dif_pos hj]
  by_cases h : j < lens.length
  · rw [if_pos h]
    simp only [List.getElem?_eq_getElem h, Option.map_some]
  · rw [if_neg h]
    simp only [List.getElem?_eq_none (Nat.not_lt.1 h), Vector.getElem?_eq_getElem hj, Fin.getElem_fin]

/-- The lengths from place `a` on, `n` of them, as a build takes them. -/
def lensPart (lens : List (BitVec 4)) (a n : Nat) : List Byte := ((lens.drop a).take n).map (·.setWidth 8)

/-- A part of the stage that lies within the lengths. -/
theorem Tables.lenSlice_putLens (t : Tables) {lens : List (BitVec 4)} {a n : Nat} (ha : a + n ≤ lens.length)
    (hlens : lens.length ≤ Config.lenbufSize) :
    (t.putLens lens).lenSlice a n = lensPart lens a n := by
  refine List.ext_getElem? fun j => ?_
  rw [Tables.lenSlice, lensPart, List.getElem?_map, List.getElem?_take, List.getElem?_take]
  by_cases h : j < n
  · rw [if_pos h, if_pos h, List.getElem?_drop, List.getElem?_drop, Vector.getElem?_toList,
      t.putLens_lenbuf lens (by omega), if_pos (by omega)]
  · rw [if_neg h, if_neg h]
    rfl

/-! ### Built tables -/

/-- A build of lengths of at most 16 bits is not rejected (R143). -/
theorem HuffTable.build_eq_built {lengths : List Byte} (h : ∀ x ∈ lengths, x.toNat ≤ 16) (count : Nat) :
    HuffTable.build lengths count = some (HuffTable.built lengths count) ∧ (HuffTable.built lengths count).valid = true := by
  have hany : ¬ (lengths.take count).any (fun x => decide (Config.maxCodeLen < x.toNat)) = true := by
    rw [List.any_eq_true]
    rintro ⟨x, hx, hlong⟩
    have hle := h x (List.mem_of_mem_take hx)
    have hgt : 16 < x.toNat := of_decide_eq_true hlong
    omega
  unfold HuffTable.built HuffTable.build
  dsimp only
  rw [if_neg (fun hrej => hany hrej.2)]
  exact ⟨rfl, rfl⟩

/-- The table built from a part of a set's lengths, which have 4 bits. -/
theorem build_lensPart (lens : List (BitVec 4)) (a n count : Nat) :
    HuffTable.build (lensPart lens a n) count = some (HuffTable.built (lensPart lens a n) count) ∧
      (HuffTable.built (lensPart lens a n) count).valid = true := by
  refine HuffTable.build_eq_built (fun x hx => ?_) count
  obtain ⟨v, -, rfl⟩ := List.mem_map.1 hx
  rw [BitVec.toNat_setWidth]
  have hv := v.isLt
  omega

/-! ### The LZ tables (R188) -/

/-- What an LZ table set does when its tables are not rejected. -/
theorem execLzTables_of_valid {s : State} {lens : List (BitVec 4)} {t : Tables} {ld dd rd : HuffTable}
    (ht : t = s.tabs.putLens lens) (hld : ld = HuffTable.built (t.lenSlice 0 291) 291)
    (hdd : dd = HuffTable.built (t.lenSlice 291 48) 48) (hrd : rd = HuffTable.built (t.lenSlice 339 28) 28)
    (hvalid : ld.valid = true ∧ dd.valid = true ∧ rd.valid = true) :
    execLzTables lens s = .next { s with
      tabs := { t with ld := ld, dd := dd, rd := rd, tablesValid := true, lenPos := 0, lenTot := 0 }
      ses := { s.ses with fsm := .lz } } := by
  obtain ⟨hl, hd, hr⟩ := hvalid
  unfold execLzTables
  dsimp only [Config.nc, Config.dc, Config.rc, Nat.reduceAdd]
  rw [← ht, ← hld, ← hdd, ← hrd, hl, hd, hr]
  rfl

/-! ### The audio tables (R231) -/

/-- Building the audio tables changes no other. -/
theorem Tables.buildAudio_eq (t : Tables) (n : Nat) : t.buildAudio n = { t with md := (t.buildAudio n).md } := by
  induction n with
  | zero => rfl
  | succ n ih =>
    rw [Tables.buildAudio, ih]

theorem Tables.buildAudio_md (t : Tables) (n : Nat) (c : Fin 4) : (t.buildAudio n).md[c] =
    if c.val < n then HuffTable.built (t.lenSlice (Config.mc * c.val) Config.mc) Config.mc else t.md[c] := by
  induction n with
  | zero => rfl
  | succ n ih =>
    rw [Tables.buildAudio]
    simp only [Fin.getElem_fin, Vector.getElem_setIfInBounds] at ih ⊢
    by_cases h : n = c.val
    · rw [if_pos h, if_pos (by omega), h]
    · rw [if_neg h, ih]
      exact if_congr (by omega) rfl rfl

/-- What an audio table set does when its tables are not rejected. -/
theorem execAudioTables_of_valid {s : State} {ch1 : BitVec 2} {lens : List (BitVec 4)} {t : Tables}
    (ht : t = (s.tabs.putLens lens).buildAudio (ch1.toNat + 1)) (hvalid : ∀ c : Fin 4, c.val ≤ ch1.toNat → t.md[c].valid = true) :
    execAudioTables ch1 lens s = .next { s with
      tabs := { t with audioValid := true, lenPos := 0, lenTot := 0 }
      tok := { s.tok with audioCh := ch1.toNat + 1, acur := 0, alast := Vector.replicate 4 0 }
      ses := { s.ses with fsm := .aud } } := by
  have hall : (t.md.toList.take (ch1.toNat + 1)).all (·.valid) = true := by
    rw [List.all_eq_true]
    intro x hx
    obtain ⟨c, hc, rfl⟩ := List.mem_take_iff_getElem.1 hx
    rw [Vector.length_toList] at hc
    exact hvalid ⟨c, by omega⟩ (by dsimp only; omega)
  unfold execAudioTables
  dsimp only
  rw [← ht, hall]
  rfl

/-- Settles O46: the tables are those of the parts, and none is rejected. -/
theorem tableSetsBuildTheTables : Obligations.TableSetsBuildTheTables := by
  intro s lens staged part
  have hbuild (a n : Nat) : HuffTable.build (part a n) n = some (HuffTable.built (part a n) n) := (build_lensPart lens a n n).1
  have hvalid (a n : Nat) : (HuffTable.built (part a n) n).valid = true := (build_lensPart lens a n n).2
  obtain ⟨b, hb⟩ : ∃ b, b = (s.tabs.putLens lens).lenbuf := ⟨_, rfl⟩
  have hput : { s.tabs with lenbuf := b } = s.tabs.putLens lens := hb ▸ rfl
  have hstage : ∀ j < 1028, b[j]? = if j < lens.length then (lens[j]?).map (·.setWidth 8) else s.tabs.lenbuf[j]? :=
    fun j hj => by
      rw [hb]
      exact s.tabs.putLens_lenbuf lens hj
  have hslice {a n : Nat} (ha : a + n ≤ lens.length) (hlens : lens.length ≤ 1028) :
      Tables.lenSlice { s.tabs with lenbuf := b } a n = part a n := hput ▸ s.tabs.lenSlice_putLens ha hlens
  refine ⟨fun hlen => ?_, fun ch1 hlen => ?_⟩
  · have hpart {a n : Nat} (ha : a + n ≤ 367) := hslice (hlen ▸ ha) (by omega)
    have hexec : exec (.lzTables lens) s = .next _ := execLzTables_of_valid hput (by rw [hpart (by decide)])
      (by rw [hpart (by decide)]) (by rw [hpart (by decide)]) ⟨hvalid 0 291, hvalid 291 48, hvalid 339 28⟩
    exact ⟨_, hexec, hbuild 0 291, hbuild 291 48, hbuild 339 28, rfl, rfl, rfl, ⟨rfl, rfl, hstage⟩, rfl, rfl⟩
  · have hmc : Config.mc = 257 := rfl
    obtain ⟨m, hm⟩ : ∃ m, m = (Tables.buildAudio { s.tabs with lenbuf := b } (ch1.toNat + 1)).md := ⟨_, rfl⟩
    have haudio : { s.tabs with lenbuf := b, md := m } = (s.tabs.putLens lens).buildAudio (ch1.toNat + 1) := by
      rw [hm, ← hput, Tables.buildAudio_eq]
    have hmd (c : Fin 4) : m[c] = if c.val ≤ ch1.toNat then HuffTable.built (part (257 * c.val) 257) 257 else s.tabs.md[c] := by
      rw [hm, Tables.buildAudio_md, hmc]
      by_cases h : c.val ≤ ch1.toNat
      · rw [if_pos h, if_pos (Nat.lt_succ_of_le h), hslice (by omega) (by have hch := ch1.isLt; omega)]
      · rw [if_neg h, if_neg (by omega)]
    have hexec : exec (.audioTables ch1 lens) s = .next _ := execAudioTables_of_valid haudio fun c hc => by
      show m[c].valid = true
      rw [hmd, if_pos hc]
      exact hvalid _ _
    refine ⟨_, hexec, fun c => ?_, rfl, rfl, rfl, rfl, rfl, ⟨rfl, rfl, hstage⟩, rfl, rfl, rfl⟩
    show if c.val ≤ ch1.toNat then HuffTable.build (part (257 * c.val) 257) 257 = some m[c] else m[c] = s.tabs.md[c]
    by_cases h : c.val ≤ ch1.toNat
    · rw [if_pos h, hmd, if_pos h]
      exact hbuild _ _
    · rw [if_neg h, hmd, if_neg h]

end Sys2Proof.Machine
end

section
/-! PROOFS. The cursor over the whole stream (spec/40_bitcursor.md R124 to R126, R129, R131): a refill changes neither the place nor the
bits ahead nor how many are left, and reading `n` bits gives the next `n` bits of the stream, whatever the sizes of the port's
answers. -/

namespace Sys2Proof.Machine

/-! ### One stream seen from two cursors -/

/-- Bytes are skipped before an empty buffer only (log entry 27). -/
def Cursor.Gapless (c : Cursor) : Prop := 0 < c.skip → c.buf = []

theorem Cursor.Sound.gapless {c : Cursor} (h : c.Sound) : c.Gapless := fun h0 => (h.skipped h0).2.1

/-- `d` stands `n` bits after `c` in the same stream. -/
structure Cursor.Ahead (n : Nat) (c d : Cursor) : Prop where
  bitpos : d.bitpos = c.bitpos + n
  stream : ∀ k, d.streamBit k = c.streamBit (n + k)
  ready : c.ready = true → d.ready = true
  left : c.Gapless → d.Gapless ∧ d.bitsLeft = c.bitsLeft - n

theorem Cursor.Ahead.refl (c : Cursor) : c.Ahead 0 c := ⟨rfl, fun k => by rw [Nat.zero_add], id, fun h => ⟨h, rfl⟩⟩

theorem Cursor.Ahead.trans {m n : Nat} {c d e : Cursor} (h : c.Ahead m d) (k : d.Ahead n e) : c.Ahead (m + n) e where
  bitpos := by rw [k.bitpos, h.bitpos, Nat.add_assoc]
  stream j := by rw [k.stream, h.stream, Nat.add_assoc]
  ready := k.ready ∘ h.ready
  left hc := by
    obtain ⟨hd, hdl⟩ := h.left hc
    obtain ⟨he, hel⟩ := k.left hd
    exact ⟨he, by rw [hel, hdl, Nat.sub_sub]⟩

theorem Cursor.Ahead.of_zero {n : Nat} {c d e : Cursor} (h : c.Ahead 0 d) (k : d.Ahead n e) : c.Ahead n e := by
  simpa using h.trans k

theorem Cursor.Ahead.streamBits {n : Nat} {c d : Cursor} (h : c.Ahead n d) (k m : Nat) :
    d.streamBits k m = c.streamBits (n + k) m := by
  simp only [Cursor.streamBits, h.stream, Nat.add_assoc]

/-- The byte that bit `k` after `BITPOS` is in. -/
theorem Cursor.streamBit_eq (c : Cursor) (k : Nat) :
    c.streamBit k = (c.ahead.getD (c.rd + (c.bit.val + k) / 8) 0).getLsbD (7 - (c.bit.val + k) % 8) := by
  have hdiv : (8 * c.rd + c.bit.val + k) / 8 = c.rd + (c.bit.val + k) / 8 := by omega
  have hmod : (8 * c.rd + c.bit.val + k) % 8 = (c.bit.val + k) % 8 := by omega
  rw [Cursor.streamBit, hdiv, hmod]

/-- Cursors at one place that see the same bytes from there on. -/
theorem Cursor.Ahead.of_bytes {c d : Cursor} (hpos : d.bitpos = c.bitpos) (hbit : d.bit = c.bit)
    (hbytes : ∀ i, d.ahead.getD (d.rd + i) 0 = c.ahead.getD (c.rd + i) 0) (hready : c.ready = true → d.ready = true)
    (hleft : c.Gapless → d.Gapless ∧ d.bitsLeft = c.bitsLeft) : c.Ahead 0 d where
  bitpos := hpos
  stream k := by rw [Nat.zero_add, Cursor.streamBit_eq, Cursor.streamBit_eq, hbit, hbytes]
  ready := hready
  left := hleft

/-! ### Compacting and consuming -/

theorem Cursor.ahead_compact (c : Cursor) : c.compact.ahead = c.ahead.drop c.rd := by
  rw [Cursor.ahead, Cursor.ahead, List.drop_append, List.drop_drop]
  rfl

theorem Cursor.compact_gapless {c : Cursor} (h : c.Gapless) : c.compact.Gapless := fun h0 => by
  obtain h1 | h1 : 0 < c.skip ∨ c.top ≤ c.rd := by
    simp only [Cursor.compact] at h0
    omega
  · rw [Cursor.compact, h h1, List.drop_nil]
  · exact List.drop_eq_nil_of_le h1

theorem Cursor.bitsLeft_compact (c : Cursor) : c.compact.bitsLeft = c.bitsLeft := by
  have hcoming : c.compact.coming = c.coming := rfl
  rw [Cursor.bitsLeft, Cursor.bitsLeft, hcoming]
  simp only [Cursor.top, Cursor.compact, List.length_drop]
  omega

theorem Cursor.compact_ahead (c : Cursor) : c.Ahead 0 c.compact :=
  .of_bytes c.bitpos_compact rfl (fun i => by
    rw [c.ahead_compact, Cursor.rd_compact, Nat.zero_add, List.getD_eq_getElem?_getD, List.getElem?_drop,
      ← List.getD_eq_getElem?_getD]) id fun h => ⟨compact_gapless h, c.bitsLeft_compact⟩

theorem Cursor.settle_ahead (c : Cursor) : c.Ahead 0 c.settle := by
  obtain ⟨-, h⟩ | ⟨-, -, h⟩ := c.settle_cases <;> rw [h]
  · exact .refl c
  · exact c.compact_ahead

/-- The cursor `n` bits on, before R121's bound is restored. -/
def Cursor.moved (c : Cursor) (n : Nat) : Cursor :=
  { c with rd := c.rd + (c.bit.val + n) / 8, bit := ⟨(c.bit.val + n) % 8, Nat.mod_lt _ (by decide)⟩ }

theorem Cursor.moved_ahead (c : Cursor) (n : Nat) : c.Ahead n (c.moved n) where
  bitpos := by
    simp only [Cursor.moved, Cursor.bitpos]
    omega
  stream k := by
    have hplace : 8 * (c.rd + (c.bit.val + n) / 8) + (c.bit.val + n) % 8 + k = 8 * c.rd + c.bit.val + (n + k) := by omega
    simp only [Cursor.streamBit, Cursor.moved, hplace]
    rfl
  ready := id
  left h := by
    refine ⟨h, ?_⟩
    have hcoming : (c.moved n).coming = c.coming := rfl
    rw [Cursor.bitsLeft, Cursor.bitsLeft, hcoming]
    simp only [Cursor.top, Cursor.moved]
    omega

theorem Cursor.consume_ahead (c : Cursor) (n : Nat) : c.Ahead n (c.consume n) :=
  (c.moved_ahead n).trans (Cursor.settle_ahead _)

/-! ### Refilling -/

/-- The cursor with `port` as the coming answers of the port. -/
def Cursor.withPort (c : Cursor) (port : List PortRead) : Cursor := { c with port := port }

/-- The end of the stream (R129) shows no other bytes. -/
theorem Cursor.ended_ahead {c : Cursor} {port : List PortRead} (hport : portBytes port = []) (p : List PortRead) :
    (c.withPort port).Ahead 0 (c.ended.withPort p) := by
  have hcoming : (c.withPort port).coming = [] := by
    rw [Cursor.coming]
    split
    · rfl
    · exact hport
  have hended : (c.ended.withPort p).coming = [] := rfl
  refine .of_bytes c.bitpos_ended rfl (fun i => ?_) (fun _ => rfl) fun h => ⟨fun h0 => absurd h0 (Nat.lt_irrefl 0), ?_⟩
  · rw [Cursor.ahead, Cursor.ahead, hcoming, hended, List.drop_nil, List.drop_nil]
    cases hbuf : c.buf <;> simp [Cursor.withPort, Cursor.ended, hbuf]
  · rw [Cursor.bitsLeft, Cursor.bitsLeft, hcoming, hended]
    cases hbuf : c.buf with
    | nil => simp [Cursor.top, Cursor.withPort, Cursor.ended, hbuf]
    | cons b t =>
      have hskip : c.skip = 0 := Nat.eq_zero_of_not_pos fun h0 => by simpa [Cursor.withPort, hbuf] using h h0
      simp [Cursor.top, Cursor.withPort, Cursor.ended, hbuf, hskip]

/-- What `append` takes of an answer and what it leaves are the answer, but for what is skipped. -/
theorem Cursor.append_bytes (c : Cursor) (l r : List Byte) :
    ((l.drop c.skip).take (Config.inbufSize - c.top)) ++ (c.leftOver l ++ r).drop (c.skip - l.length) = (l ++ r).drop c.skip := by
  obtain hlt | hle := Nat.lt_or_ge c.skip l.length
  · rw [Nat.sub_eq_zero_of_le hlt.le, List.drop_zero, ← List.append_assoc, Cursor.leftOver, List.take_append_drop,
      List.drop_append_of_le_length hlt.le]
  · have hdrop : l.drop c.skip = [] := List.drop_eq_nil_of_le hle
    rw [Cursor.leftOver, hdrop, List.drop_nil, List.take_nil, List.nil_append, List.nil_append, List.drop_append, hdrop,
      List.nil_append]

/-- An answer moves bytes of the stream into the buffer (R129). -/
theorem Cursor.append_ahead {c : Cursor} {b : Byte} {t : List Byte} {rest next : List PortRead} (he : c.eos = false)
    (hbytes : portBytes next = c.leftOver (b :: t) ++ portBytes rest) (hclean : portClean next = portClean rest) :
    (c.withPort (.data (b :: t) :: rest)).Ahead 0 ((c.append (b :: t)).withPort next) := by
  have hold : (c.withPort (.data (b :: t) :: rest)).coming = b :: t ++ portBytes rest := if_neg (by simp [Cursor.withPort, he])
  have hnew : ((c.append (b :: t)).withPort next).coming = c.leftOver (b :: t) ++ portBytes rest :=
    (if_neg (by simp [Cursor.withPort, Cursor.append, he])).trans hbytes
  have hahead : ((c.append (b :: t)).withPort next).ahead = (c.withPort (.data (b :: t) :: rest)).ahead := by
    rw [Cursor.ahead, Cursor.ahead, hold, hnew]
    exact (List.append_assoc _ _ _).trans (congrArg (c.buf ++ ·) (c.append_bytes (b :: t) (portBytes rest)))
  refine .of_bytes rfl rfl (fun i => by rw [hahead]; rfl) (fun h => ?_) fun h => ⟨fun h0 => ?_, ?_⟩
  · simp only [Cursor.ready, Cursor.withPort, Cursor.append, he, Bool.false_or] at h ⊢
    exact hclean.trans h
  · have hlt : (b :: t).length < c.skip := Nat.lt_of_sub_pos h0
    have hbuf : c.buf = [] := h (Nat.zero_lt_of_lt hlt)
    simp [Cursor.withPort, Cursor.append, hbuf, List.drop_eq_nil_of_le hlt.le]
  · rw [Cursor.bitsLeft, Cursor.bitsLeft, hold, hnew]
    simp only [Cursor.top, Cursor.withPort, Cursor.append, Cursor.leftOver, List.length_append, List.length_take,
      List.length_drop]
    omega

/-- Where `append` leaves bytes of the answer, the buffer is at its size. -/
theorem Cursor.append_full {c : Cursor} {l : List Byte} (hrd : c.rd = 0) (h : c.leftOver l ≠ []) : (c.append l).full = true := by
  have hlen : Config.inbufSize - c.top < (l.drop c.skip).length := by
    rw [Cursor.leftOver, ne_eq, List.drop_eq_nil_iff, Nat.not_le] at h
    exact h
  have htop : Config.inbufSize ≤ (c.append l).top := by
    rw [Cursor.top, Cursor.append, List.length_append, List.length_take_of_le hlen.le]
    exact Nat.sub_le_iff_le_add'.1 (Nat.le_refl _)
  have hsize : Config.refillThreshold ≤ Config.inbufSize := by decide
  simp only [Cursor.full, decide_eq_true_eq, show (c.append l).rd = 0 from hrd]
  omega

/-- Enough is buffered: the rest of the stream, or 30 bytes (R129). -/
def Cursor.filled (c : Cursor) : Bool := c.eos || c.full

/-- The pulling loop stays in the stream and stops with enough buffered. -/
theorem Cursor.pull_ahead {c d : Cursor} {port : List PortRead} (he : c.eos = false) (hrd : c.rd = 0)
    (h : c.pull port = .ok () d) : (c.withPort port).Ahead 0 d ∧ d.filled = true := by
  induction port generalizing c with
  | nil =>
    cases h
    exact ⟨ended_ahead rfl [], rfl⟩
  | cons r rest ih =>
    match r with
    | .error | .reset => cases h
    | .data [] =>
      cases h
      exact ⟨ended_ahead rfl _, rfl⟩
    | .data (b :: t) =>
      simp only [Cursor.pull] at h
      split at h
      next hleft =>
        have happ : (c.withPort (.data (b :: t) :: rest)).Ahead 0 ((c.append (b :: t)).withPort rest) :=
          append_ahead he (by rw [hleft]; rfl) rfl
        split at h
        next hfull =>
          cases h
          exact ⟨happ, Bool.or_eq_true_iff.2 (.inr hfull)⟩
        next =>
          obtain ⟨hd, hfill⟩ := ih (c := c.append (b :: t)) he hrd h
          exact ⟨happ.of_zero hd, hfill⟩
      next more hne =>
        cases h
        obtain ⟨x, l, hmore⟩ := List.exists_cons_of_ne_nil hne
        exact ⟨append_ahead he (by rw [hmore]; rfl) (by rw [hmore]; rfl),
          Bool.or_eq_true_iff.2 (.inr (append_full (c := c) hrd hne))⟩

theorem Cursor.pull_succeeds (c : Cursor) {port : List PortRead} (h : portClean port = true) : ∃ d, c.pull port = .ok () d := by
  induction port generalizing c with
  | nil => exact ⟨_, rfl⟩
  | cons r rest ih =>
    match r with
    | .error | .reset => cases h
    | .data [] => exact ⟨_, rfl⟩
    | .data (b :: t) =>
      simp only [Cursor.pull]
      split
      · split
        · exact ⟨_, rfl⟩
        · exact ih _ h
      · exact ⟨_, rfl⟩

theorem refill_ahead {c d : Cursor} (h : refill c = .ok () d) : c.Ahead 0 d ∧ d.filled = true := by
  simp only [refill] at h
  split at h
  next hfill =>
    cases h
    exact ⟨.refl c, hfill⟩
  next hfill =>
    have he : c.eos = false := Bool.eq_false_iff.2 fun he => hfill (by rw [he]; rfl)
    obtain ⟨hd, hdf⟩ := Cursor.pull_ahead (c := c.compact) he rfl h
    exact ⟨c.compact_ahead.of_zero hd, hdf⟩

theorem refill_succeeds {c : Cursor} (h : c.ready = true) : ∃ d, refill c = .ok () d := by
  simp only [refill]
  split
  · exact ⟨c, rfl⟩
  next hfill =>
    have he : c.eos = false := Bool.eq_false_iff.2 fun he => hfill (by rw [he]; rfl)
    rw [Cursor.ready, he] at h
    exact c.compact.pull_succeeds h

/-- At the end of the stream no bits are left (R130). -/
theorem Cursor.atEnd_of_bitsLeft {c : Cursor} (hs : c.Sound) (h : c.bitsLeft ≠ 0) : c.atEnd = false := by
  refine Bool.eq_false_iff.2 fun hend => h ?_
  obtain ⟨he, hpos⟩ := Bool.and_eq_true_iff.1 hend
  have hskip : c.skip = 0 := Nat.eq_zero_of_not_pos fun h0 => by simp [(hs.skipped h0).1] at he
  have hcoming : c.coming = [] := if_pos he
  simp only [decide_eq_true_eq, hs.streamLen he, Cursor.bitpos] at hpos
  rw [Cursor.bitsLeft, hcoming, hskip, List.length_nil]
  omega

/-! ### Reading -/

theorem Cursor.bitsFrom_eq (c : Cursor) (p n acc : Nat) :
    c.bitsFrom p n acc = acc * 2 ^ n + bitsToNat ((List.range n).map fun j => c.bitAt (p + j)) := by
  induction n generalizing p acc with
  | zero => simp [Cursor.bitsFrom]
  | succ n ih =>
    have hshift : (fun j => c.bitAt (p + j)) ∘ Nat.succ = fun j => c.bitAt (p + 1 + j) := by
      funext j
      simp only [Function.comp_apply, Nat.succ_eq_add_one, Nat.add_assoc, Nat.add_comm 1]
    rw [Cursor.bitsFrom, ih, List.range_succ_eq_map, List.map_cons, List.map_map, hshift, bitsToNat_cons, List.length_map,
      List.length_range, Nat.add_zero p]
    ring

/-- The next 32 bits of the stream are in the buffer, or end with it. -/
theorem Cursor.bitAt_of_filled {c : Cursor} (h : c.filled = true) {k : Nat} (hk : k < 32) :
    c.bitAt (8 * c.rd + c.bit.val + k) = c.streamBit k := by
  rw [Cursor.bitAt, Cursor.streamBit, Cursor.ahead]
  obtain he | hf := Bool.or_eq_true_iff.1 h
  · rw [Cursor.coming, if_pos he, List.drop_nil, List.append_nil]
  · have hbuf : (8 * c.rd + c.bit.val + k) / 8 < c.buf.length := by
      have hroom : 30 ≤ c.buf.length - c.rd := of_decide_eq_true hf
      have hbit := c.bit.isLt
      omega
    rw [List.getD_append _ _ _ _ hbuf]

theorem Cursor.look_of_filled {c : Cursor} (h : c.filled = true) {n : Nat} (hn : n ≤ 32) : c.look n = c.streamNat 0 n := by
  rw [Cursor.look, Cursor.bitsFrom_eq, Nat.zero_mul, Nat.zero_add, Cursor.streamNat, Cursor.streamBits]
  refine congrArg bitsToNat (List.map_congr_left fun j hj => ?_)
  rw [Nat.zero_add]
  exact bitAt_of_filled h ((List.mem_range.1 hj).trans_le hn)

/-- Reading `n` bits gives the next `n` bits of the stream (R124, R126). -/
theorem getbits_ahead {c : Cursor} (hc : c.ready = true) {n : Nat} (hn : n ≤ 32) :
    ∃ d, getbits n c = .ok (c.streamNat 0 n) d ∧ c.Ahead n d := by
  obtain ⟨e, he⟩ := refill_succeeds hc
  obtain ⟨hahead, hfill⟩ := refill_ahead he
  refine ⟨e.consume n, ?_, hahead.of_zero (e.consume_ahead n)⟩
  rw [getbits_eq, he]
  simp only [e.look_of_filled hfill hn, Cursor.streamNat, hahead.streamBits, Nat.zero_add]

end Sys2Proof.Machine
end

section
/-! PROOFS. A step runs the instruction it decodes (spec/48_session.md R356, R359): what the fetch of each of the dispatcher's
states comes to past its checks, and what a grammar of plain bits reads where the stream holds an instruction's bits. -/

namespace Sys2Proof

/-! ### Grammars of plain bits -/

/-- The grammar reads plain bits only, at most 32 at a time. -/
inductive Parse.Raw {α : Type} : Parse α → Prop
  | ret (a : α) : Raw (.ret a)
  | fail (r : Reject) : Raw (.fail r)
  | field {n : Nat} {k : Nat → Parse α} (hn : n ≤ 32) (h : ∀ v, Raw (k v)) : Raw (.field (.raw n) k)

theorem Parse.Raw.byte {α : Type} {k : Nat → Parse α} (h : ∀ v, Raw (k v)) : Raw (.field .byte k) := .field (by decide) h

theorem Parse.Raw.bytes {α : Type} {n : Nat} {k : List Byte → Parse α} (h : ∀ l, Raw (k l)) : Raw (.bytes .byte n k) := by
  induction n generalizing k with
  | zero => exact h []
  | succ n ih => exact .byte fun b => ih fun l => h _

theorem parseHdr_raw : parseHdr.Raw :=
  .byte fun flags => .byte fun chk => by
    dsimp only
    split
    · exact .ret _
    · exact .bytes fun size => .ret _

theorem parseLen_raw : parseLen.Raw :=
  .field (by decide) fun v => by
    split
    · exact .ret _
    · refine .field (by decide) fun z => ?_
      split <;> exact .ret _

end Sys2Proof

namespace Sys2Proof.Machine

/-! ### Grammars over the machine's stream -/

theorem Cursor.length_streamBits (c : Cursor) (k n : Nat) : (c.streamBits k n).length = n := by
  rw [Cursor.streamBits, List.length_map, List.length_range]

theorem Cursor.take_streamBits (c : Cursor) (k : Nat) {m n : Nat} (h : m ≤ n) : (c.streamBits k n).take m = c.streamBits k m := by
  rw [Cursor.streamBits, ← List.map_take, List.take_range, Nat.min_eq_left h, Cursor.streamBits]

theorem Cursor.drop_streamBits (c : Cursor) (k m n : Nat) : (c.streamBits k n).drop m = c.streamBits (k + m) (n - m) := by
  refine List.ext_getElem (by simp [Cursor.streamBits]) fun j _ _ => ?_
  simp [Cursor.streamBits, Nat.add_assoc]

theorem readField_raw {n : Nat} {s : State} {v : Nat} {d : Cursor} (h : getbits n s.cur = .ok v d) :
    readField (.raw n) s = .ok v (s.setCur d) := by
  simp only [readField, reading, onCur_of_ok h]

/-- A grammar of plain bits makes of the machine's stream what it makes of the bits that stand there. -/
theorem fetchParse_of_streamBits {α : Type} {p : Parse α} (hp : p.Raw) {fix : List Nat → State → State} {vals : List Nat}
    {s : State} {n : Nat} {a : α} (hready : s.cur.ready = true) (hrun : p.runBits (s.cur.streamBits 0 n) = .ok (a, [])) :
    ∃ d, fetchParse fix p vals s = .ok a (s.setCur d) ∧ s.cur.Ahead n d := by
  induction hp generalizing vals s n with
  | ret b =>
    obtain ⟨rfl, hnil⟩ := Prod.mk.inj (Except.ok.inj hrun)
    have hn : n = 0 := by rw [← s.cur.length_streamBits 0 n, hnil, List.length_nil]
    exact ⟨s.cur, rfl, hn ▸ .refl s.cur⟩
  | fail r => cases hrun
  | field hm _ ih =>
    rename_i m k _
    rw [Parse.runBits, Field.width, Cursor.length_streamBits] at hrun
    split at hrun
    · cases hrun
    next hle =>
      have hle : m ≤ n := Nat.le_of_not_lt hle
      obtain ⟨d, hget, hd⟩ := getbits_ahead hready hm
      have hrest : (k (s.cur.streamNat 0 m)).runBits ((s.setCur d).cur.streamBits 0 (n - m)) = .ok (a, []) := by
        rw [s.cur.drop_streamBits, Nat.zero_add, s.cur.take_streamBits 0 hle] at hrun
        rwa [State.setCur_cur, hd.streamBits, Nat.add_zero]
      obtain ⟨e, hfetch, he⟩ := ih _ (hd.ready hready) hrest
      refine ⟨e, ?_, Nat.add_sub_cancel' hle ▸ hd.trans he⟩
      simp only [fetchParse, readField_raw hget]
      exact hfetch

/-- Where the stream holds an instruction's bits the grammar reads it. -/
theorem fetchParse_of_encode {c : Ctx} {i : Instr} {s : State} (fix : List Nat → State → State)
    (hraw : (slotOf c i).grammar.Raw) (hwf : i.wf c = true) (hready : s.cur.ready = true)
    (hbits : s.cur.streamBits 0 (encode c i).length = encode c i) :
    ∃ d, fetchParse fix (slotOf c i).grammar [] s = .ok i (s.setCur d) ∧ s.cur.Ahead (encode c i).length d := by
  refine fetchParse_of_streamBits hraw hready ?_
  have h := roundTrips c i hwf []
  rw [List.append_nil] at h
  rw [hbits, h, Parse.runBits]

/-- A grammar that makes its instruction is not abandoned, whatever that would do. -/
theorem fetchParse_ok_of_fix {α : Type} {fix : List Nat → State → State} (fix' : List Nat → State → State) {p : Parse α}
    {vals : List Nat} {s t : State} {a : α} (h : fetchParse fix p vals s = .ok a t) : fetchParse fix' p vals s = .ok a t := by
  induction p generalizing vals s with
  | ret b => exact h
  | fail r => cases h
  | field f k ih =>
    simp only [fetchParse] at h ⊢
    split at h
    · exact ih _ h
    · cases h

/-! ### Past the checks -/

theorem reading_of_ok {α : Type} {x : M α} {s t : State} {a : α} (h : x s = .ok a t) : reading x s = .ok a t := by
  simp only [reading, h]

theorem map_of_ok {σ ε α β : Type} {f : α → β} {x : EStateM ε σ α} {s t : σ} {a : α} (h : x s = .ok a t) :
    (f <$> x) s = .ok (f a) t := by
  simp only [Functor.map, EStateM.map, h]

theorem get_bind {σ ε β : Type} (f : σ → EStateM ε σ β) (s : σ) : (get >>= f) s = f s s := rfl

theorem exhausted_of_refill {c d : Cursor} (h : refill c = .ok () d) : exhausted c = .ok d.atEnd d := by
  rw [exhausted_eq, h]

theorem overrun_of_refill {c d : Cursor} (h : refill c = .ok () d) : overrun c = .ok d.pastEnd d := by
  rw [overrun_eq, h]

section
variable {s t u : State} {c : Cursor} {i : Instr}

/-- R356: the target, the alignment, the end of the stream, then the header. -/
theorem fetchHdr_past (htarget : s.targetReached = false) (hfill : refill s.cur.align = .ok () c) (hend : c.atEnd = false)
    (h : fetchParse noEffectYet Slot.hdr.grammar [] (s.setCur c) = .ok i t) : fetchHdr s = .ok (some i) t := by
  have hlook : reading (onCur exhausted) (s.setCur s.cur.align) = .ok false (s.setCur c) :=
    reading_of_ok (onCur_of_ok (hend ▸ exhausted_of_refill hfill))
  have halign : reading (onCur (modify (·.align))) s = .ok () (s.setCur s.cur.align) := rfl
  unfold fetchHdr
  rw [get_bind, if_neg (by simp [htarget]), bind_of_ok halign, bind_of_ok hlook]
  exact map_of_ok h

theorem blockBoundary_past (htarget : s.targetReached = false) (hfill : refill s.cur = .ok () c) (hend : c.atEnd = false)
    (hblock : c.bitpos < s.ses.blockEnd) : blockBoundary s = .ok true (s.setCur c) := by
  have hlook : reading (onCur exhausted) s = .ok false (s.setCur c) :=
    reading_of_ok (onCur_of_ok (hend ▸ exhausted_of_refill hfill))
  unfold blockBoundary
  rw [get_bind, if_neg (by simp [htarget]), bind_of_ok hlook, if_neg Bool.false_ne_true, get_bind,
    if_neg (show ¬ (s.setCur c).ses.blockEnd ≤ (s.setCur c).cur.bitpos from Nat.not_le.2 hblock)]
  rfl

theorem ppmBoundary_past (htarget : s.targetReached = false) (hfill : refill s.cur = .ok () c) (hend : c.pastEnd = false) :
    ppmBoundary s = .ok true (s.setCur c) := by
  have hlook : reading (onCur overrun) s = .ok false (s.setCur c) :=
    reading_of_ok (onCur_of_ok (hend ▸ overrun_of_refill hfill))
  unfold ppmBoundary
  rw [get_bind, if_neg (by simp [htarget]), bind_of_ok hlook]
  rfl

theorem fetchPpmOnly_past (htarget : s.st.written < s.ses.targetL) (hfill : refill s.cur = .ok () c) (hend : c.pastEnd = false)
    (h : fetchParse noEffectYet Slot.ppmOnly.grammar [] (s.setCur c) = .ok i t) : fetchPpmOnly s = .ok (some i) t := by
  have hlook : reading (onCur overrun) s = .ok false (s.setCur c) :=
    reading_of_ok (onCur_of_ok (hend ▸ overrun_of_refill hfill))
  unfold fetchPpmOnly
  rw [get_bind, if_neg (Nat.not_le.2 htarget), bind_of_ok hlook]
  exact map_of_ok h

/-- A token past its boundary checks and its flush is what the grammar reads. -/
theorem fetchToken_past {boundary : FetchM Bool} {fix : State → List Nat → State → State} {g : State → Parse Instr}
    (hcheck : boundary s = .ok true (s.setCur c)) (hflush : maybeFlush (s.setCur c) = .ok () u)
    (h : fetchParse noEffectYet (g u) [] u = .ok i t) : fetchToken boundary fix g s = .ok (some i) t := by
  unfold fetchToken
  rw [bind_of_ok hcheck, if_pos rfl, bind_of_ok (reading_of_ok hflush), get_bind]
  exact map_of_ok (fetchParse_ok_of_fix (fix u) h)

/-! ### The dispatcher's states -/

theorem fetchCore_hdr (hf : s.ses.fsm = .hdr) (hc : s.par.cancel = false) : fetchCore s = fetchHdr := by
  simp only [fetchCore, hf, hc, Bool.false_eq_true, if_false]

theorem fetchCore_lz (hf : s.ses.fsm = .lz) (hc : s.par.cancel = false) : fetchCore s = fetchLz := by
  simp only [fetchCore, hf, hc, Bool.false_eq_true, if_false]

theorem fetchCore_aud (hf : s.ses.fsm = .aud) (hc : s.par.cancel = false) : fetchCore s = fetchAud := by
  simp only [fetchCore, hf, hc, Bool.false_eq_true, if_false]

theorem fetchCore_ppm (hf : s.ses.fsm = .ppm) (hc : s.par.cancel = false) : fetchCore s = fetchPpm := by
  simp only [fetchCore, hf, hc, Bool.false_eq_true, if_false]

theorem fetchCore_ppmonly (hf : s.ses.fsm = .ppmonly) (hc : s.par.cancel = false) : fetchCore s = fetchPpmOnly := by
  simp only [fetchCore, hf, hc, Bool.false_eq_true, if_false]

theorem fetchCore_ppmhdr (hf : s.ses.fsm = .ppmhdr) : fetchCore s = fetchPpmHdr := by simp only [fetchCore, hf]

theorem fetchCore_tables (hf : s.ses.fsm = .tables) : fetchCore s = fetchTables := by simp only [fetchCore, hf]

/-- An open table set with lengths still to come reads an entry. -/
theorem fetchTables_entry (hopen : s.tabs.lenPos < s.tabs.lenTot)
    (h : fetchParse noEffectYet Slot.len.grammar [] s = .ok i t) : fetchTables s = .ok (some i) t := by
  unfold fetchTables
  rw [get_bind, if_neg (Nat.ne_zero_of_lt hopen), if_pos hopen]
  exact map_of_ok h

/-- An open table set with all its lengths is one instruction. -/
theorem fetchTables_whole (hopen : s.tabs.lenTot ≠ 0) (hfull : s.tabs.lenTot ≤ s.tabs.lenPos) :
    fetchTables s = .ok (some (if s.ses.hAudio then
      .audioTables (BitVec.ofNat 2 (s.tok.audioCh - 1)) (s.tabs.lens s.tabs.lenTot)
      else .lzTables (s.tabs.lens s.tabs.lenTot))) s := by
  unfold fetchTables
  rw [get_bind, if_neg hopen, if_neg (Nat.not_lt.2 hfull)]
  split <;> rfl

end

theorem State.tick_targetReached (s : State) : s.tick.targetReached = s.targetReached := by
  simp only [State.targetReached, State.tick_ses, State.tick_win]

theorem Cursor.align_eos (c : Cursor) : c.align.eos = c.eos := by
  unfold Cursor.align
  split
  · rfl
  · exact Cursor.settle_eos _

theorem Cursor.align_ready {c : Cursor} (h : c.ready = true) : c.align.ready = true := by
  rwa [Cursor.ready, c.align_eos, c.align_port]

/-! ### The clauses -/

section
variable {s : State}

/-- (1) A command of the host that is due. -/
theorem step_command {d : Nat} {w : BitVec 72} {rest : List HostEvent} {i : Instr} (hhost : s.host = ⟨d, .cmd w⟩ :: rest)
    (hdue : d = 0 ∨ s.isIdle = true) (hdec : decodeCmd w = .ok i) : step s = exec i (s.setHost rest) := by
  have hfetch : fetchNext s = .instr i (s.setHost rest) := by
    have hact : hostFetch (.cmd w) (s.setHost rest) = .instr i (s.setHost rest) := by rw [hostFetch, hdec]
    unfold fetchNext
    rw [hhost]
    exact (if_pos hdue).trans hact
  rw [step, hfetch]

/-- (2) A header at the aligned position. -/
theorem step_header {i : Instr} {c : Ctx} (hq : s.quiet = true) (hf : s.ses.fsm = .hdr) (hc : s.par.cancel = false)
    (htarget : s.targetReached = false) (hsound : s.cur.Sound) (hready : s.cur.ready = true) (hleft : s.cur.align.bitsLeft ≠ 0)
    (hslot : slotOf c i = .hdr) (hwf : i.wf c = true)
    (hbits : s.cur.align.streamBits 0 (encode c i).length = encode c i) :
    ∃ d, s.cur.align.Ahead (encode c i).length d ∧ step s = exec i (s.tick.setCur d) := by
  have hasound : s.cur.align.Sound := s.cur.align_sound hsound
  have haready : s.cur.align.ready = true := s.cur.align_ready hready
  obtain ⟨e, he⟩ := refill_succeeds haready
  obtain ⟨hahead, -⟩ := refill_ahead he
  have hesound : e.Sound := by
    have h := refill_sound _ hasound
    rw [he] at h
    exact h
  have hend : e.atEnd = false := e.atEnd_of_bitsLeft hesound (by rwa [(hahead.left hasound.gapless).2])
  have hraw : (slotOf c i).grammar.Raw := by
    rw [hslot]
    exact parseHdr_raw
  obtain ⟨d, hfetch, hd⟩ := fetchParse_of_encode (s := s.tick.setCur e) noEffectYet hraw hwf (hahead.ready haready)
    (by rw [State.setCur_cur, hahead.streamBits, hbits])
  rw [hslot] at hfetch
  refine ⟨d, hahead.of_zero hd, step_of_fetchCore_instr (t := s.tick.setCur d) hq ?_⟩
  rw [fetchCore_hdr (by rwa [s.tick_ses]) (by rwa [s.tick_par])]
  exact fetchHdr_past (by rwa [s.tick_targetReached]) (by rwa [s.tick_cur]) hend hfetch

/-- (3) An entry of an open table set. -/
theorem step_entry {i : Instr} {c : Ctx} (hq : s.quiet = true) (hf : s.ses.fsm = .tables)
    (hopen : s.tabs.lenPos < s.tabs.lenTot) (hready : s.cur.ready = true) (hslot : slotOf c i = .len) (hwf : i.wf c = true)
    (hbits : s.cur.streamBits 0 (encode c i).length = encode c i) :
    ∃ d, s.cur.Ahead (encode c i).length d ∧ step s = exec i (s.tick.setCur d) := by
  have hraw : (slotOf c i).grammar.Raw := by
    rw [hslot]
    exact parseLen_raw
  obtain ⟨d, hfetch, hd⟩ := fetchParse_of_encode (s := s.tick) noEffectYet hraw hwf (by rwa [s.tick_cur]) (by rwa [s.tick_cur])
  rw [s.tick_cur] at hd
  rw [hslot] at hfetch
  refine ⟨d, hd, step_of_fetchCore_instr hq ?_⟩
  rw [fetchCore_tables (by rwa [s.tick_ses])]
  exact fetchTables_entry (by rwa [s.tick_tabs]) hfetch

/-- (4) A complete table set. -/
theorem step_tableSet (hq : s.quiet = true) (hf : s.ses.fsm = .tables) (hopen : s.tabs.lenTot ≠ 0)
    (hfull : s.tabs.lenTot ≤ s.tabs.lenPos) :
    step s = exec (if s.ses.hAudio then .audioTables (BitVec.ofNat 2 (s.tok.audioCh - 1)) (s.tabs.lens s.tabs.lenTot)
      else .lzTables (s.tabs.lens s.tabs.lenTot)) s.tick := by
  have hwhole := fetchTables_whole (s := s.tick) (by rwa [s.tick_tabs]) (by rwa [s.tick_tabs])
  rw [s.tick_ses, s.tick_tok, s.tick_tabs] at hwhole
  refine step_of_fetchCore_instr hq ?_
  rw [fetchCore_tables (by rwa [s.tick_ses])]
  exact hwhole

/-- (5) A token of a block. -/
theorem step_token {u v : State} {c : Cursor} {i : Instr} {sl : Slot} (hq : s.quiet = true) (hc : s.par.cancel = false)
    (htarget : s.targetReached = false) (hfill : refill s.cur = .ok () c)
    (hfsm : (s.ses.fsm = .lz ∧ sl = .lz s.ses.verL ∨ s.ses.fsm = .aud ∧ sl = .aud) ∧ c.atEnd = false ∧
        c.bitpos < s.ses.blockEnd ∨
      s.ses.fsm = .ppm ∧ sl = .ppm s.ppm.esc ∧ c.pastEnd = false)
    (hflush : maybeFlush (s.tick.setCur c) = .ok () u) (h : fetchParse noEffectYet sl.grammar [] u = .ok i v) :
    step s = exec i v := by
  have hframe : FlushFrame (s.tick.setCur c) u := by
    have hm := FlushFrame.maybeFlush (s.tick.setCur c)
    rw [hflush] at hm
    exact hm
  have hses : u.ses = s.ses := hframe.ses.trans s.tick_ses
  have hppm : u.ppm = s.ppm := hframe.ppm.trans s.tick_ppm
  have htick : s.tick.targetReached = false := by rwa [s.tick_targetReached]
  have hpar : s.tick.par.cancel = false := by rwa [s.tick_par]
  rw [← s.tick_cur] at hfill
  refine step_of_fetchCore_instr hq ?_
  obtain ⟨hblock, hend, hpos⟩ | ⟨hf, rfl, hend⟩ := hfsm
  · have hcheck : blockBoundary s.tick = .ok true (s.tick.setCur c) :=
      blockBoundary_past htick hfill hend (by rwa [s.tick_ses])
    obtain ⟨hf, rfl⟩ | ⟨hf, rfl⟩ := hblock
    · rw [fetchCore_lz (by rwa [s.tick_ses]) hpar, fetchLz_eq]
      exact fetchToken_past hcheck hflush (by rw [hses]; exact h)
    · rw [fetchCore_aud (by rwa [s.tick_ses]) hpar, fetchAud_eq]
      exact fetchToken_past hcheck hflush h
  · rw [fetchCore_ppm (by rwa [s.tick_ses]) hpar, fetchPpm_eq]
    exact fetchToken_past (ppmBoundary_past htick hfill hend) hflush (by rw [hppm]; exact h)

/-- (6) A byte of a PPM_ONLY stream. -/
theorem step_ppmOnly {v : State} {c : Cursor} {i : Instr} (hq : s.quiet = true) (hc : s.par.cancel = false)
    (hf : s.ses.fsm = .ppmonly) (htarget : s.st.written < s.ses.targetL) (hfill : refill s.cur = .ok () c)
    (hend : c.pastEnd = false) (h : fetchParse noEffectYet Slot.ppmOnly.grammar [] (s.tick.setCur c) = .ok i v) :
    step s = exec i v := by
  refine step_of_fetchCore_instr hq ?_
  rw [fetchCore_ppmonly (by rwa [s.tick_ses]) (by rwa [s.tick_par])]
  exact fetchPpmOnly_past (by rwa [s.tick_st, s.tick_ses]) (by rwa [s.tick_cur]) hend h

/-- (7) A PPM sub-header. -/
theorem step_ppmHdr {v : State} {i : Instr} (hq : s.quiet = true) (hf : s.ses.fsm = .ppmhdr)
    (h : fetchParse noEffectYet Slot.ppmHdr.grammar [] s.tick = .ok i v) : step s = exec i v := by
  refine step_of_fetchCore_instr hq ?_
  rw [fetchCore_ppmhdr (by rwa [s.tick_ses])]
  exact map_of_ok (fetchParse_ok_of_fix ppmHdrEffectYet h)

end

/-- Settles O55, a lemma for each clause. -/
theorem stepRunsTheDecodedInstruction : Obligations.StepRunsTheDecodedInstruction := by
  refine ⟨fun s d w rest i hhost hdue hdec => step_command hhost hdue hdec,
    fun s i c hq hf hc htarget hsound hready hleft hslot hwf hbits => ?_,
    fun s i c hq hf hopen hready hslot hwf hbits => ?_,
    fun s hq hf hopen hfull => step_tableSet hq hf hopen hfull,
    fun s u v c i sl hq hc htarget hfill hfsm hflush h => step_token hq hc htarget hfill hfsm hflush h,
    fun s v c i hq hc hf htarget hfill hend h => step_ppmOnly hq hc hf htarget hfill hend h,
    fun s v i hq hf h => step_ppmHdr hq hf h⟩
  · obtain ⟨d, hd, hstep⟩ := step_header hq hf hc htarget hsound hready hleft hslot hwf hbits
    exact ⟨d, hd.bitpos, hd.stream, hstep⟩
  · obtain ⟨d, hd, hstep⟩ := step_entry hq hf hopen hready hslot hwf hbits
    exact ⟨d, hd.bitpos, hd.stream, hstep⟩

end Sys2Proof.Machine
end

section
/-! PROOFS. The bit cursor's commands (spec/40_bitcursor.md R121 to R139): where each leaves the cursor in the stream, and what
`BC.PEEK` and `BC.EXHAUSTED` tell of the whole stream. -/

namespace Sys2Proof.Machine

/-! ### Moving without reading (R126, R128) -/

/-- What `settle` leaves alone: `EOS`, `STREAM_LEN` and the port. -/
theorem Cursor.settle_eq (c : Cursor) : c.settle = { c with
    buf := c.settle.buf, bufbase := c.settle.bufbase, rd := c.settle.rd, bit := c.settle.bit, skip := c.settle.skip } := by
  obtain ⟨-, h⟩ | ⟨-, -, h⟩ := c.settle_cases <;> rw [h]
  rfl

/-- Where R121 lets `RD` stand, `settle` does nothing. -/
theorem Cursor.settle_of_read {c : Cursor} (h : c.eos = true ∨ c.rd ≤ c.top) : c.settle = c := by
  obtain ⟨-, hs⟩ | ⟨he, hrd, -⟩ := c.settle_cases
  · exact hs
  · obtain h | h := h
    · simp [he] at h
    · omega

theorem Cursor.consume_eq (c : Cursor) (n : Nat) : c.consume n = (c.moved n).settle := rfl

/-- `align` moves by the bits that are left of the byte (R128). -/
theorem Cursor.align_eq (c : Cursor) : c.align = if c.bit = 0 then c else (c.moved (8 - c.bit.val)).settle := by
  have hbit := c.bit.isLt
  by_cases h : c.bit = 0
  · rw [if_pos h, Cursor.align, if_pos (by simp [h])]
  · have hval : c.bit.val ≠ 0 := fun h0 => h (Fin.ext h0)
    have hbyte : (c.bit.val + (8 - c.bit.val)) = 8 := by omega
    rw [if_neg h, Cursor.align, if_neg hval, Cursor.moved]
    simp only [hbyte]
    rfl

theorem Cursor.align_ahead (c : Cursor) : c.Ahead ((8 - c.bit.val) % 8) c.align := by
  have hbit := c.bit.isLt
  rw [Cursor.align_eq]
  split
  next h =>
    rw [h]
    exact .refl c
  next h =>
    have hval : c.bit.val ≠ 0 := fun h0 => h (Fin.ext h0)
    rw [Nat.mod_eq_of_lt (by omega)]
    exact (c.moved_ahead _).trans (Cursor.settle_ahead _)

theorem Cursor.align_bit (c : Cursor) : c.align.bit = 0 := by
  unfold Cursor.align
  split
  next h => exact Fin.ext h
  next => exact Cursor.settle_bit _

theorem Cursor.align_settled {c : Cursor} (h : c.eos = true ∨ c.rd ≤ c.top) : c.align.eos = true ∨ c.align.rd ≤ c.align.top := by
  rw [Cursor.align_eq]
  split
  · exact h
  · cases he : (c.moved (8 - c.bit.val)).settle.eos with
    | true => exact .inl rfl
    | false => exact .inr (Cursor.settle_read _ he)

/-- Where a byte is left in the buffer or the end of the stream is known, `align` moves `RD` and `BIT` only. -/
theorem Cursor.align_of_read {c : Cursor} (h : c.eos = true ∨ c.rd < c.top) : c.align = { c with rd := c.align.rd, bit := 0 } := by
  have hbit := c.bit.isLt
  rw [Cursor.align_eq]
  split
  next h0 => rw [← h0]
  next h0 =>
    have hval : c.bit.val ≠ 0 := fun h => h0 (Fin.ext h)
    have hbyte : c.bit.val + (8 - c.bit.val) = 8 := by omega
    have hstay : (c.moved (8 - c.bit.val)).settle = c.moved (8 - c.bit.val) := Cursor.settle_of_read (h.imp_right fun h => by
      simp only [Cursor.moved, hbyte]
      exact h)
    rw [hstay, Cursor.moved]
    simp only [hbyte]
    rfl

/-- What moving leaves alone: `EOS`, `STREAM_LEN` and the port. -/
theorem Cursor.align_frame (c : Cursor) : c.align = { c with
    buf := c.align.buf, bufbase := c.align.bufbase, rd := c.align.rd, bit := c.align.bit, skip := c.align.skip } := by
  rw [Cursor.align_eq]
  split
  · rfl
  · exact Cursor.settle_eq _

section
variable {s : State} (hi : s.isIdle = true)
include hi

theorem exec_bcAttach_idle : exec .bcAttach s = .next (s.accept.setCur s.cur.attach) :=
  idleCommand_accept (fun s => s.setCur s.cur.attach) s true hi rfl

theorem exec_bcConsume_idle {n : Word} (hn : n.toNat ≤ 32) : exec (.bcConsume n) s = .next (s.accept.setCur (s.cur.consume n.toNat)) :=
  idleCommand_accept (fun s => s.setCur (s.cur.consume n.toNat)) s _ hi (decide_eq_true hn)

theorem exec_bcAlign_idle : exec .bcAlign s = .next (s.accept.setCur s.cur.align) :=
  idleCommand_accept (fun s => s.setCur s.cur.align) s true hi rfl

end

/-- Settles O10: each command moves the cursor and settles it. -/
theorem cursorCommandsMoveBitpos : Obligations.CursorCommandsMoveBitpos := by
  intro s hi
  refine ⟨⟨_, exec_bcAttach_idle hi, rfl, rfl, rfl, rfl, rfl, rfl, rfl, rfl⟩, fun n hn => ?_, ?_⟩
  · have hahead := s.cur.consume_ahead n.toNat
    refine ⟨_, exec_bcConsume_idle hi hn, hahead.bitpos, hahead.stream, Cursor.settle_read _, fun h => ?_,
      congrArg s.accept.setCur (Cursor.settle_eq (s.cur.moved n.toNat))⟩
    have hstay : s.cur.consume n.toNat = s.cur.moved n.toNat := Cursor.settle_of_read h
    rw [State.setCur_cur, hstay]
    rfl
  · exact ⟨_, exec_bcAlign_idle hi, s.cur.bitpos_align, s.cur.align_bit, s.cur.align_ahead.stream, Cursor.align_settled,
      Cursor.align_of_read, congrArg s.accept.setCur s.cur.align_frame⟩

/-! ### Reading without moving (R122, R124, R129, R130) -/

theorem peek_of_refill {n : Nat} {c d : Cursor} (h : refill c = .ok () d) : peek n c = .ok (d.look n) d := by
  rw [peek_eq, h]

/-- With enough buffered a refill does nothing (R129). -/
theorem refill_of_filled {c : Cursor} (h : c.filled = true) : refill c = .ok () c := if_pos h

theorem portCommand_some {c : Bool} {x : M (Option Word)} {s t : State} {v : Word} (hi : s.isIdle = true) (hc : c = true)
    (hx : x s.accept = .ok (some v) t) : portCommand c x s = .next (t.setResult v) := by
  simp [portCommand, hi, hc, hx]

theorem portCommand_none {c : Bool} {x : M (Option Word)} {s t : State} (hi : s.isIdle = true) (hc : c = true)
    (hx : x s.accept = .ok none t) : portCommand c x s = .next t := by
  simp [portCommand, hi, hc, hx]

section
variable {s : State} {c : Cursor} (hi : s.isIdle = true) (hfill : refill s.cur = .ok () c)
include hi hfill

theorem exec_bcPeek_idle {n : Word} (hn : n.toNat ≤ 32) :
    exec (.bcPeek n) s = .next ((s.accept.setCur c).setResult (BitVec.ofNat 32 (c.look n.toNat))) :=
  portCommand_some hi (decide_eq_true hn) (bind_of_ok (onCur_of_ok (peek_of_refill hfill)))

theorem exec_bcRefill_idle : exec .bcRefill s = .next (s.accept.setCur c) :=
  portCommand_none hi rfl (bind_of_ok (onCur_of_ok hfill))

/-- After the first refill the second finds enough buffered. -/
theorem exec_bcExhausted_idle : exec .bcExhausted s =
    .next ((s.accept.setCur c).setResult (if c.pastEnd then 2 else if c.atEnd then 1 else 0)) := by
  have hagain : refill (s.accept.setCur c).cur = .ok () c := refill_of_filled (refill_ahead hfill).2
  refine portCommand_some hi rfl ((bind_of_ok (onCur_of_ok (s := s.accept) (overrun_of_refill hfill))).trans ?_)
  cases c.pastEnd with
  | true => rfl
  | false =>
    refine (bind_of_ok (onCur_of_ok (exhausted_of_refill hagain))).trans ?_
    cases c.atEnd <;> rfl

end

/-- Settles O11: the refill stays in the stream and buffers what is looked at. -/
theorem peekGivesTheNextBitsOfTheStream : Obligations.PeekGivesTheNextBitsOfTheStream := by
  intro s n hi hn hready
  obtain ⟨c, hfill⟩ := refill_succeeds hready
  obtain ⟨hahead, hfilled⟩ := refill_ahead hfill
  refine ⟨_, exec_bcPeek_idle hi hfill hn, ?_, hahead.bitpos, fun k => (hahead.stream k).trans (by rw [Nat.zero_add]),
    hahead.ready hready, rfl⟩
  show BitVec.ofNat 32 _ = _
  rw [Cursor.look_of_filled hfilled hn, Cursor.streamNat, hahead.streamBits]
  rfl

/-! ### The length of the whole stream -/

/-- How many bytes the stream has from its first to its end: those before `BUF`, those buffered, those to come, less those still to be
skipped, which are counted among those before `BUF` (log entry 27). -/
def Cursor.streamBytes (c : Cursor) : Nat := c.bufbase + c.top + c.coming.length - c.skip

theorem Cursor.streamBytes_compact (c : Cursor) : c.compact.streamBytes = c.streamBytes := by
  have hcoming : c.compact.coming = c.coming := rfl
  rw [Cursor.streamBytes, Cursor.streamBytes, hcoming]
  simp only [Cursor.top, Cursor.compact, List.length_drop]
  omega

theorem Cursor.streamBytes_ended {c : Cursor} {port : List PortRead} (hs : c.Sound) (he : c.eos = false) (hport : portBytes port = [])
    (p : List PortRead) : (c.ended.withPort p).streamBytes = (c.withPort port).streamBytes := by
  have hold : (c.withPort port).coming = [] := (if_neg (by simp [Cursor.withPort, he])).trans hport
  have hnew : (c.ended.withPort p).coming = [] := rfl
  rw [Cursor.streamBytes, Cursor.streamBytes, hold, hnew]
  simp only [Cursor.top, Cursor.withPort, Cursor.ended]
  obtain h0 | h0 := Nat.eq_zero_or_pos c.skip
  · simp [h0]
  · obtain ⟨-, hbuf, hle⟩ := hs.skipped h0
    simp [hbuf, hle]

theorem Cursor.streamBytes_append {c : Cursor} {b : Byte} {t : List Byte} {rest next : List PortRead} (he : c.eos = false)
    (hbytes : portBytes next = c.leftOver (b :: t) ++ portBytes rest) :
    ((c.append (b :: t)).withPort next).streamBytes = (c.withPort (.data (b :: t) :: rest)).streamBytes := by
  have hold : (c.withPort (.data (b :: t) :: rest)).coming = b :: t ++ portBytes rest := if_neg (by simp [Cursor.withPort, he])
  have hnew : ((c.append (b :: t)).withPort next).coming = c.leftOver (b :: t) ++ portBytes rest :=
    (if_neg (by simp [Cursor.withPort, Cursor.append, he])).trans hbytes
  rw [Cursor.streamBytes, Cursor.streamBytes, hold, hnew]
  simp only [Cursor.top, Cursor.withPort, Cursor.append, Cursor.leftOver, List.length_append, List.length_take,
    List.length_drop]
  omega

theorem Cursor.streamBytes_pull {c d : Cursor} {port : List PortRead} (hs : c.Sound) (he : c.eos = false)
    (h : c.pull port = .ok () d) : d.streamBytes = (c.withPort port).streamBytes := by
  induction port generalizing c with
  | nil =>
    cases h
    exact streamBytes_ended hs he rfl []
  | cons r rest ih =>
    match r with
    | .error | .reset => cases h
    | .data [] =>
      cases h
      exact streamBytes_ended hs he rfl _
    | .data (b :: t) =>
      simp only [Cursor.pull] at h
      split at h
      next hleft =>
        have happ : ((c.append (b :: t)).withPort rest).streamBytes = (c.withPort (.data (b :: t) :: rest)).streamBytes :=
          streamBytes_append he (by rw [hleft]; rfl)
        split at h
        next => cases h; exact happ
        next => exact (ih (c.append_sound (b :: t) he hs) he h).trans happ
      next more hne =>
        cases h
        obtain ⟨x, l, hmore⟩ := List.exists_cons_of_ne_nil hne
        exact streamBytes_append he (by rw [hmore]; rfl)

theorem refill_streamBytes {c d : Cursor} (hs : c.Sound) (h : refill c = .ok () d) : d.streamBytes = c.streamBytes := by
  simp only [refill] at h
  split at h
  next => cases h; rfl
  next hfill =>
    have he : c.eos = false := Bool.eq_false_iff.2 fun he => hfill (by rw [he]; rfl)
    exact (Cursor.streamBytes_pull (c.compact_sound he hs.top fun h0 => (hs.skipped h0).2) he h).trans c.streamBytes_compact

/-- `BITPOS` against the end of the whole stream. -/
theorem Cursor.Sound.bitsLeft_eq {c : Cursor} (hs : c.Sound) : c.bitsLeft = 8 * c.streamBytes - c.bitpos := by
  have hskip : c.skip ≤ c.bufbase := by
    obtain h0 | h0 := Nat.eq_zero_or_pos c.skip
    · omega
    · exact (hs.skipped h0).2.2
  rw [Cursor.bitsLeft, Cursor.streamBytes, Cursor.bitpos]
  omega

theorem Cursor.Sound.beyond_eq {c : Cursor} (hs : c.Sound) : c.beyond = decide (8 * c.streamBytes < c.bitpos) := by
  have hskip : c.skip ≤ c.bufbase := by
    obtain h0 | h0 := Nat.eq_zero_or_pos c.skip
    · omega
    · exact (hs.skipped h0).2.2
  rw [Cursor.beyond, Cursor.streamBytes, Cursor.bitpos]
  exact decide_eq_decide.2 (by omega)

/-- Once the end is known `STREAM_LEN` is the length of the stream (R129). -/
theorem Cursor.Sound.streamBytes_eq {c : Cursor} (hs : c.Sound) (he : c.eos = true) : c.streamBytes = c.streamLen := by
  have hskip : c.skip = 0 := Nat.eq_zero_of_not_pos fun h0 => by simp [(hs.skipped h0).1] at he
  have hcoming : c.coming = [] := if_pos he
  rw [hs.streamLen he, Cursor.streamBytes, hcoming, hskip]
  rfl

/-- With 30 bytes buffered bits are left. -/
theorem Cursor.bitpos_lt_of_full {c : Cursor} (hs : c.Sound) (h : c.full = true) : c.bitpos < 8 * c.streamBytes := by
  have hroom : 30 ≤ c.top - c.rd := of_decide_eq_true h
  have hskip : c.skip = 0 := Nat.eq_zero_of_not_pos fun h0 => by simp [Cursor.top, (hs.skipped h0).2.1] at hroom
  have hbit := c.bit.isLt
  rw [Cursor.streamBytes, Cursor.bitpos, hskip]
  omega

/-- With enough buffered the two predicates of R130 tell where `BITPOS` is in the whole stream. -/
theorem Cursor.atEnd_of_filled {c : Cursor} (hs : c.Sound) (h : c.filled = true) :
    c.atEnd = decide (8 * c.streamBytes ≤ c.bitpos) ∧ c.pastEnd = decide (8 * c.streamBytes < c.bitpos) := by
  rw [Cursor.atEnd, Cursor.pastEnd]
  cases he : c.eos with
  | true =>
    rw [hs.streamBytes_eq he]
    exact ⟨rfl, rfl⟩
  | false =>
    have hlt := bitpos_lt_of_full hs (by simpa [Cursor.filled, he] using h)
    exact ⟨(decide_eq_false (by omega)).symm, (decide_eq_false (by omega)).symm⟩

/-- Settles O12: the refill keeps the place and the length of the stream, and after it the cursor knows whether the end is near. -/
theorem exhaustedTellsTheEndOfTheStream : Obligations.ExhaustedTellsTheEndOfTheStream := by
  intro s hi hready hsound
  obtain ⟨c, hfill⟩ := refill_succeeds hready
  obtain ⟨hahead, hfilled⟩ := refill_ahead hfill
  have hstream (k : Nat) : c.streamBit k = s.cur.streamBit k := by
    rw [hahead.stream, Nat.zero_add]
  have hc : c.Sound := by
    have h := refill_sound s.cur hsound
    rwa [hfill] at h
  obtain ⟨hend, hpast⟩ := Cursor.atEnd_of_filled hc hfilled
  rw [hahead.bitpos, Nat.add_zero, refill_streamBytes hsound hfill] at hend hpast
  refine ⟨⟨_, exec_bcExhausted_idle hi hfill, ?_, hahead.bitpos, hstream, rfl⟩,
    ⟨_, exec_bcRefill_idle hi hfill, ?_, hahead.bitpos, hstream, rfl⟩⟩
  · show (if c.pastEnd then _ else if c.atEnd then _ else _) = _
    rw [hpast, hend, hsound.beyond_eq, hsound.bitsLeft_eq]
    simp only [decide_eq_true_eq, Nat.sub_eq_zero_iff_le]
  · rw [Cursor.filled, Bool.or_eq_true, Cursor.full, decide_eq_true_eq] at hfilled
    exact hfilled.symm

end Sys2Proof.Machine
end

section
/-! PROOFS. Soundness of the parts of the state (`Sys2Proof/Safety.lean`): the operations of the cursor and of the PPM decoder keep it,
however they end, under one contract for invariants. -/

namespace Sys2Proof.Machine

/-- The contract of an invariant: from a state that meets `P` every piece of an operation ends in one that does, and only what meets
`E` abandons it. -/
def Contract.keeping {σ ε : Type} (P : σ → Prop) (E : ε → Prop) : Contract σ ε where
  pre := P
  rel s t := P s → P t
  err := E
  refl _ := id
  trans h k := k ∘ h
  keeps hs h := h hs

/-- A fatal condition is one of those of spec/60_exceptions.md R392; a `RESET` may always come. -/
def Halt.Legal : Halt → Prop
  | .fatal f => legalStatus .failure f.reason f.detail = true
  | .reset => True

/-! ### The cursor (spec/40_bitcursor.md R121) -/

def cursorSoundness : Contract Cursor Halt := .keeping Cursor.Sound Halt.Legal

theorem refill_error_legal {c d : Cursor} {e : Halt} (h : refill c = .error e d) : e.Legal := by
  obtain rfl | ⟨rfl, -⟩ := refill_error _ _ _ h
  · rfl
  · trivial

theorem refill_keeps (c : Cursor) : cursorSoundness.Holds refill c := by
  have hsound := refill_sound c
  cases h : refill c <;> rw [h] at hsound
  case ok => exact .of_ok h fun _ => ⟨hsound, trivial⟩
  case error => exact .of_error h fun _ => ⟨hsound, refill_error_legal h⟩

theorem peek_keeps (n : Nat) (c : Cursor) : cursorSoundness.Holds (peek n) c :=
  .bind (refill_keeps c) fun _ _ _ => .get (.pure trivial)

theorem getbits_keeps (n : Nat) (c : Cursor) : cursorSoundness.Holds (getbits n) c :=
  .bind (peek_keeps n c) fun _ d _ => .bind (.update (d.consume_sound n)) fun _ _ _ => .pure trivial

theorem exhausted_keeps (c : Cursor) : cursorSoundness.Holds exhausted c :=
  .bind (refill_keeps c) fun _ _ _ => .get (.pure trivial)

theorem overrun_keeps (c : Cursor) : cursorSoundness.Holds overrun c :=
  .bind (refill_keeps c) fun _ _ _ => .get (.pure trivial)

theorem align_keeps (c : Cursor) : cursorSoundness.Holds (modify (·.align)) c := .update c.align_sound

theorem HuffTable.decode_keeps (t : HuffTable) (n : Nat) (c : Cursor) : cursorSoundness.Holds (t.decode n) c := by
  unfold HuffTable.decode
  cases t.fake with
  | some p => exact .bind (.update (c.consume_sound _)) fun _ _ _ => .pure trivial
  | none => exact .bind (peek_keeps 16 c) fun _ d _ => .bind (.update (d.consume_sound _)) fun _ _ _ => .pure trivial

/-! ### The arena (spec/45_ppm_model.md R256; log entry 9) -/

/-- The arena lists its blocks by rising unit index. -/
abbrev PpmModel.Ordered (m : PpmModel) : Prop := Sparse.rising m.arena = true

theorem PpmModel.Ordered.putBlock {m : PpmModel} (h : m.Ordered) (i : Nat) (b : Block) : (m.putBlock i b).Ordered :=
  Sparse.rising_put _ i b h

theorem PpmModel.Ordered.setChild {m : PpmModel} (h : m.Ordered) (x : Nat) (s : Byte) (c : Nat) : (m.setChild x s c).Ordered := by
  unfold PpmModel.setChild
  split
  · split
    · exact h.putBlock _ _
    · exact h
  · exact h

theorem PpmModel.Ordered.bump {m n : PpmModel} (h : m.Ordered) {c : Nat} {s : Byte} (hb : m.bump c s = some n) : n.Ordered := by
  unfold PpmModel.bump at hb
  split at hb
  · split at hb
    · cases hb
      exact (h.putBlock _ _).putBlock _ _
    · cases hb
  · cases hb

/-- A model update that is done leaves the arena in order. -/
def Update.Ordered : Update → Prop
  | .done m _ => m.Ordered
  | .nomem => True
  | .broken => True

theorem appendSymbol_ordered {m : PpmModel} (h : m.Ordered) (a : SubAlloc) (x : Nat) (s : Byte) :
    (appendSymbol m a x s).Ordered := by
  unfold appendSymbol
  split
  · trivial
  · split
    · trivial
    · dsimp only
      split
      · split
        · trivial
        · split
          · exact PpmModel.Ordered.putBlock (.putBlock (Sparse.rising_erase _ _ h) _ _) _ _
          · exact (h.putBlock _ _).putBlock _ _
      · split
        · exact (h.putBlock _ _).putBlock _ _
        · trivial

theorem appendAll_ordered {m : PpmModel} (h : m.Ordered) (a : SubAlloc) (s : Byte) (l : List Nat) :
    (appendAll m a s l).Ordered := by
  induction l generalizing m a with
  | nil => exact h
  | cons x t ih =>
    have hx := appendSymbol_ordered h a x s
    rw [appendAll]
    cases hu : appendSymbol m a x s with
    | done n b =>
      rw [hu] at hx
      exact ih hx b
    | nomem => trivial
    | broken => trivial

theorem linkChildren_ordered {m : PpmModel} (h : m.Ordered) (a : SubAlloc) (s : Byte) (lower : Option Nat) (l : List Nat) :
    (linkChildren m a s lower l).1.Ordered := by
  induction l generalizing m a lower with
  | nil => exact h
  | cons x t ih =>
    rw [linkChildren]
    split
    · trivial
    · split
      · exact ih h _ _
      · split
        · trivial
        · exact ih ((h.putBlock _ _).setChild _ _ _) _ _

theorem ppmUpdate_ordered {m : PpmModel} (h : m.Ordered) (a : SubAlloc) (c : Nat) (s : Byte) (escaped : List Nat) :
    (ppmUpdate m a c s escaped).Ordered := by
  unfold ppmUpdate
  split
  · trivial
  next m1 hbump =>
    have hall := appendAll_ordered (h.bump hbump) a s escaped
    split
    next m2 a2 happend =>
      rw [happend] at hall
      have hlink := linkChildren_ordered hall a2 s none ((m2.chain (m2.ord + 1) m2.minctx).reverse.take m2.order)
      split
      next hl => rw [hl] at hlink; exact hlink
      next hl => rw [hl] at hlink; exact hlink
    · exact hall

theorem ppmRestart_ordered (m : PpmModel) (a : SubAlloc) : (ppmRestart m a).2.1.Ordered := by
  have hempty : ({ m with see := seeInit, arena := [] } : PpmModel).Ordered := rfl
  unfold ppmRestart
  dsimp only
  split
  · exact hempty
  · split
    · exact hempty
    · exact (hempty.putBlock _ _).putBlock _ _

theorem ppmCreate_ordered (m : PpmModel) (a : SubAlloc) (order units : Nat) : (ppmCreate m a order units).1.Ordered :=
  ppmRestart_ordered { m with order := order } { a with u := units }

/-! ### The PPM part -/

/-- The cursor is sound and the arena in order. -/
structure PpmWorld.Sound (w : PpmWorld) : Prop where
  cur : w.cur.Sound
  arena : w.ppm.Ordered

def ppmSoundness : Contract PpmWorld Halt := .keeping PpmWorld.Sound Halt.Legal

/-- An operation that leaves the cursor and the arena. -/
theorem ppmSoundness_of_eq {w v : PpmWorld} (hcur : v.cur = w.cur) (harena : v.ppm.arena = w.ppm.arena) : ppmSoundness.rel w v :=
  fun h => ⟨hcur ▸ h.cur, (congrArg Sparse.rising harena).trans h.arena⟩

theorem ofCur_keeps {α : Type} {x : CurM α} {w : PpmWorld} (h : cursorSoundness.Holds x w.cur) :
    ppmSoundness.Holds (PpmM.ofCur x) w :=
  .lift (fun c => { w with cur := c }) id h PpmWorld.Sound.cur (fun _ hc hw => ⟨hc hw.cur, hw.arena⟩) (fun _ => id)
    (fun _ _ hx => by simp only [PpmM.ofCur, hx]) fun _ _ hx => by simp only [PpmM.ofCur, hx, id]

theorem rcShiftIn_keeps (w : PpmWorld) : ppmSoundness.Holds rcShiftIn w :=
  .bind (ofCur_keeps (getbits_keeps 8 w.cur)) fun _ _ _ => .update (ppmSoundness_of_eq rfl rfl)

theorem rcInit_keeps (w : PpmWorld) : ppmSoundness.Holds rcInit w :=
  .bind (.update (ppmSoundness_of_eq rfl rfl)) fun _ _ _ => .bind (rcShiftIn_keeps _) fun _ _ _ =>
    .bind (rcShiftIn_keeps _) fun _ _ _ => .bind (rcShiftIn_keeps _) fun _ _ _ => rcShiftIn_keeps _

theorem rcNormalise_keeps (fuel : Nat) (w : PpmWorld) : ppmSoundness.Holds (rcNormalise fuel) w := by
  induction fuel generalizing w with
  | zero => exact .pure trivial
  | succ fuel ih =>
    refine .get ?_
    cases w.rc.unsettled with
    | none => exact .pure trivial
    | some range =>
      exact .bind (.update (ppmSoundness_of_eq rfl rfl)) fun _ _ _ => .bind (rcShiftIn_keeps _) fun _ _ _ =>
        .bind (.update (ppmSoundness_of_eq rfl rfl)) fun _ _ _ => ih _

theorem rcUpdate_keeps (cum f : Nat) (w : PpmWorld) : ppmSoundness.Holds (rcUpdate cum f) w :=
  .bind (.update (ppmSoundness_of_eq rfl rfl)) fun _ _ _ => .get (rcNormalise_keeps _ _)

/-- The walk writes the escape counters and no block. -/
theorem ppmWalk_keeps (fuel : Nat) (c : Option Nat) (mask : List Byte) (escaped : List Nat) (w : PpmWorld) :
    ppmSoundness.Holds (ppmWalk fuel c mask escaped) w := by
  induction fuel generalizing c mask escaped w with
  | zero => exact .pure trivial
  | succ fuel ih =>
    cases c with
    | none => exact .pure trivial
    | some c =>
      refine .get ?_
      split
      · exact .pure trivial
      split
      · exact .pure trivial
      dsimp only
      split
      · exact ih _ _ _ _
      refine .bind (.set (ppmSoundness_of_eq rfl rfl)) fun _ _ _ => ?_
      split
      · exact .pure trivial
      split
      · split
        · exact .pure trivial
        · exact .bind (rcUpdate_keeps _ _ _) fun _ _ _ => .bind (.update (ppmSoundness_of_eq rfl rfl)) fun _ _ _ =>
            .pure trivial
      · exact .bind (rcUpdate_keeps _ _ _) fun _ _ _ => .bind (.update (ppmSoundness_of_eq rfl rfl)) fun _ _ _ =>
          ih _ _ _ _

theorem ppmDecode_keeps (w : PpmWorld) : ppmSoundness.Holds ppmDecode w := by
  refine .get (.bind (ppmWalk_keeps _ _ _ _ w) fun r v _ => ?_)
  cases r with
  | stop r => exact .pure trivial
  | found c b escaped =>
    refine .get ?_
    have hrestart := ppmRestart_ordered v.ppm v.sa
    split
    next m a hupdate =>
      refine .bind (.set fun hv => ⟨hv.cur, ?_⟩) fun _ _ _ => .pure trivial
      have hm := ppmUpdate_ordered hv.arena v.sa c b escaped
      rwa [hupdate] at hm
    next => exact .pure trivial
    next =>
      generalize ppmRestart v.ppm v.sa = restart at hrestart
      obtain ⟨ok, m, a⟩ := restart
      refine .bind (.set fun hv => ⟨hv.cur, hrestart⟩) fun _ _ _ => ?_
      cases ok <;> exact .pure trivial

end Sys2Proof.Machine
end

section
/-! PROOFS. Soundness of the tables and of the token decoders' state: every table that is built decodes into its alphabet
(spec/41_huffman.md R144, R148), and the adaptation of G1 permutes (spec/43_tokens.md R228). -/

namespace Sys2Proof.Machine

/-! ### Built tables -/

theorem symOf_lt {lens : List Byte} {count x : Nat} (hx : x ∈ symOf lens count) : x < count := by
  rw [symOf] at hx
  obtain hcoded | hzero := List.mem_append.1 hx
  · obtain ⟨l, -, hl⟩ := List.mem_flatMap.1 hcoded
    exact List.mem_range.1 (List.mem_of_mem_filter hl)
  · obtain ⟨hlen, rfl⟩ := List.mem_replicate.1 hzero
    omega

theorem scanFound_sym_lt {limit pos sym : List Nat} {count n : Nat} (hsym : ∀ x ∈ sym, x < n) (hn : 0 < n) (v : Nat) :
    (scanFound limit pos sym count v).sym < n := by
  rw [scanFound]
  dsimp only
  split
  · exact getD_lt hsym hn _
  · exact hn

theorem quickOf_lt {sym : List Nat} {n : Nat} (hsym : ∀ x ∈ sym, x < n) (hn : 0 < n) (limit pos : List Nat) (count : Nat) :
    ∀ x ∈ (quickOf limit pos sym count).map (·.1), x < n := by
  intro x hx
  rw [quickOf, List.map_map] at hx
  obtain ⟨q, -, rfl⟩ := List.mem_map.1 hx
  dsimp only [Function.comp_apply]
  split
  · exact scanFound_sym_lt hsym hn _
  · exact hn

theorem fakeOf_lt {lens : List Byte} {count : Nat} {p : Nat × Nat} (h : fakeOf lens count = some p) : p.1 < count := by
  unfold fakeOf at h
  split at h
  next s hs =>
    cases h
    exact List.mem_range.1 (List.mem_of_mem_filter (hs ▸ List.mem_singleton_self s))
  next => cases h

theorem HuffTable.invalid_below (n : Nat) : HuffTable.invalid.Below n where
  sym _ h := nomatch h
  quick _ h := nomatch h
  fake _ h := nomatch h

/-- A table built of at most `n` lengths decodes to symbols below `n`, also one that was rejected. -/
theorem HuffTable.built_below (lengths : List Byte) {count n : Nat} (hcount : count ≤ n) (hn : 0 < n) :
    (HuffTable.built lengths count).Below n := by
  have hsym (lens : List Byte) : ∀ x ∈ symOf lens count, x < n := fun x hx => (symOf_lt hx).trans_le hcount
  unfold HuffTable.built HuffTable.build
  dsimp only
  split
  · exact HuffTable.invalid_below n
  · refine ⟨hsym _, ?_, fun p hp => (fakeOf_lt hp).trans_le hcount⟩
    dsimp only [Option.getD_some]
    exact quickOf_lt (hsym _) hn _ _ _

/-! ### The tables -/

theorem Vector.below_setIfInBounds {v : Vector HuffTable 4} {n : Nat} (h : ∀ x ∈ v.toList, x.Below n) {t : HuffTable}
    (ht : t.Below n) (i : Nat) : ∀ x ∈ (v.setIfInBounds i t).toList, x.Below n := by
  intro x hx
  rw [Vector.toList_setIfInBounds] at hx
  obtain hx | rfl := List.mem_or_eq_of_mem_set hx
  · exact h x hx
  · exact ht

theorem Tables.Sound.setById {t : Tables} (h : t.Sound) (id : Nat) {x : HuffTable} (hx : x.Below (tableCapacity id)) :
    (t.setById id x).Sound := by
  match id with
  | 0 => exact { h with ld := hx }
  | 1 => exact { h with dd := hx }
  | 2 => exact { h with rd := hx }
  | n + 3 => exact { h with md := Vector.below_setIfInBounds h.md hx n }

theorem Tables.Sound.pushLens {t : Tables} (h : t.Sound) (v : Byte) (n : Nat) : (t.pushLens v n).Sound := by
  have hpos := Tables.pushLens_lenPos h.lens.1 v n
  rw [Tables.pushLens_eq]
  exact { h with lens := ⟨hpos.trans_le (Nat.min_le_right _ _), h.lens.2⟩ }

theorem Tables.Sound.buildAudio {t : Tables} (h : t.Sound) (n : Nat) : (t.buildAudio n).Sound := by
  rw [Tables.buildAudio_eq]
  refine { h with md := ?_ }
  induction n with
  | zero => exact h.md
  | succ n ih => exact Vector.below_setIfInBounds ih (HuffTable.built_below _ (Nat.le_refl _) (by decide)) n

/-- An opened set fits the stage (R88, R89). -/
theorem Tables.Sound.opened {t : Tables} (h : t.Sound) {n : Nat} (hn : n ≤ Config.lenbufSize) :
    ({ t with lenPos := 0, lenTot := n } : Tables).Sound :=
  { h with lens := ⟨Nat.zero_le n, hn⟩ }

/-- Three tables of the sizes of the LZ alphabets. -/
theorem Tables.Sound.lzBuilt {t : Tables} (h : t.Sound) (ld dd rd : List Byte) : ({ t with
    ld := .built ld Config.nc, dd := .built dd Config.dc, rd := .built rd Config.rc } : Tables).Sound :=
  { h with
    ld := HuffTable.built_below _ (Nat.le_refl _) (by decide)
    dd := HuffTable.built_below _ (Nat.le_refl _) (by decide)
    rd := HuffTable.built_below _ (Nat.le_refl _) (by decide) }

/-! ### The statistics of G1 -/

theorem Adaptive.bubble_perm (freq : List Byte) (r : Nat) (order : List Nat) (hr : r < order.length) :
    (Adaptive.bubble freq r order).Perm order := by
  induction r generalizing order with
  | zero => exact .rfl
  | succ r ih =>
    have hr' : r < order.length := Nat.lt_of_succ_lt hr
    rw [Adaptive.bubble, List.getD_eq_getElem _ _ hr, List.getD_eq_getElem _ _ hr']
    split
    · exact (ih _ (by simpa using hr')).trans (List.set_set_perm hr' hr)
    · exact .rfl

theorem Adaptive.reset_sound (n : Nat) : (Adaptive.reset n).Sound n := ⟨.rfl, List.length_replicate⟩

theorem Adaptive.Sound.adapt {a : Adaptive} {n r : Nat} (h : a.Sound n) (hr : r < n) : (a.adapt r).2.Sound n := by
  have hlen : a.order.length = n := h.order.length_eq.trans List.length_range
  refine ⟨(Adaptive.bubble_perm _ r _ (hlen ▸ hr)).trans h.order, ?_⟩
  simp only [Adaptive.adapt, List.length_set]
  split
  · rw [List.length_map, h.freq]
  · exact h.freq

end Sys2Proof.Machine
end

section
/-! PROOFS. Each update of the state keeps it sound (`State.Sound`) where what it puts in place is. -/

namespace Sys2Proof.Machine

/-- The dispatcher's states in a session of G1 to G4. -/
abbrev Fsm.OfSession (f : Fsm) : Prop := f ∈ [Fsm.hdr, .tables, .lz, .aud, .ppmhdr, .ppm]

/-- A session of G1 to G4 runs. -/
abbrev State.InSession (s : State) : Prop := s.ses.fsm.OfSession

theorem State.InSession.of_ses {s t : State} (hs : s.InSession) (h : t.ses = s.ses) : t.InSession := by
  rw [State.InSession, h]
  exact hs

theorem Fsm.OfSession.ne_idle {f : Fsm} (h : f.OfSession) : (f == .idle || f == .done) = false := by
  revert h
  cases f <;> decide

theorem State.InSession.busy {s : State} (h : s.InSession) : s.busy = true := congrArg (!·) (Fsm.OfSession.ne_idle h)

section
variable {s : State}

theorem State.Sound.setCur {x : Cursor} (h : s.Sound) (hx : x.Sound) : (s.setCur x).Sound := { h with cur := hx }

/-- A window of the same size with room for what is pending. -/
theorem State.Sound.setWin {x : Window} (h : s.Sound) (hx : x.Sound) (hw : x.w = s.win.w) (hpending : x.tw - x.tf ≤ x.w) :
    (s.setWin x).Sound :=
  { h with win := hx, pending := hpending, size := hw ▸ h.size, latched := fun hf => hw ▸ h.latched hf }

theorem State.Sound.setTabs {x : Tables} (h : s.Sound) (hx : x.Sound) : (s.setTabs x).Sound := { h with tabs := hx }

theorem State.Sound.setTok {x : TokenState} (h : s.Sound) (hx : x.Sound) (hlast : x.lastLen.toNat ≤ Config.maxToken) :
    (s.setTok x).Sound := { h with tok := hx, lastLen := hlast }

theorem State.Sound.setPar {x : Params} (h : s.Sound) : (s.setPar x).Sound := { h with }

/-- The status with the same result and the same `WRITTEN`. -/
theorem State.Sound.setSt {x : Status} (h : s.Sound) (hk : x.kind = s.st.kind) (hr : x.reason = s.st.reason)
    (hd : x.detail = s.st.detail) (hw : x.written ≤ s.st.written) : (s.setSt x).Sound :=
  { h with
    written := hw.trans h.written
    status := (congrArg₂ (fun k r => legalStatus k r x.detail) hk hr).trans (hd ▸ h.status)
    running := fun hb => hk.trans (h.running hb) }

theorem State.Sound.setPpm {x : PpmModel} (h : s.Sound) (hx : x.Ordered) : (s.setPpm x).Sound := { h with arena := hx }

theorem State.Sound.setRc {x : RangeCoder} (h : s.Sound) : (s.setRc x).Sound := { h with }

theorem State.Sound.setSa {x : SubAlloc} (h : s.Sound) : (s.setSa x).Sound := { h with }

/-- The Filter VM with the same queue. -/
theorem State.Sound.setVm {x : FilterVm} (h : s.Sound) (hfm : Sparse.rising x.fm = true) (hfq : x.fq = s.vm.fq) :
    (s.setVm x).Sound :=
  { h with fm := hfm, fq := (congrArg List.length hfq).trans_le h.fq, idleFq := fun hi => hfq.trans (h.idleFq hi) }

theorem State.Sound.setOut {x : OutPort} (h : s.Sound) : (s.setOut x).Sound := { h with }

theorem State.Sound.setHost {x : List HostEvent} (h : s.Sound) : (s.setHost x).Sound := { h with }

/-- The latches of the session but for the dispatcher's state and the target. -/
theorem State.Sound.setSes {x : Session} (h : s.Sound) (hf : x.fsm = s.ses.fsm) (ht : x.targetL = s.ses.targetL) :
    (s.setSes x).Sound := by
  have hidle : (s.setSes x).isIdle = s.isIdle := by simp [State.isIdle, hf]
  have hbusy : (s.setSes x).busy = s.busy := congrArg (!·) hidle
  exact { h with
    latched := fun hx => h.latched (hf ▸ hx)
    written := h.written.trans_eq ht.symm
    idleFq := fun hi => h.idleFq (hidle ▸ hi)
    running := fun hb => h.running (hbusy ▸ hb) }

/-- Within a session the dispatcher goes on. -/
theorem State.Sound.setFsm {f : Fsm} (h : s.Sound) (hs : s.InSession) (hf : f.OfSession) : (s.setFsm f).Sound := by
  have hbusy : (s.setFsm f).busy = true := State.InSession.busy hf
  exact { h with
    latched := fun _ => h.latched hs
    idleFq := fun hi => by simp [State.busy, hi] at hbusy
    running := fun _ => h.running hs.busy }

/-! ### The named updates -/

theorem State.Sound.note {e : Event} (h : s.Sound) : (s.note e).Sound := h.setSt rfl rfl rfl (Nat.le_refl _)

theorem State.Sound.noteIf {b : Bool} {e : Event} (h : s.Sound) : (s.noteIf b e).Sound := by
  cases b
  · exact h
  · exact h.note

theorem State.Sound.accept (h : s.Sound) : s.accept.Sound := h.setSt rfl rfl rfl (Nat.le_refl _)

theorem State.Sound.refuse (h : s.Sound) : s.refuse.Sound := h.setSt rfl rfl rfl (Nat.le_refl _)

theorem State.Sound.setResult {v : Word} (h : s.Sound) : (s.setResult v).Sound := h.setSt rfl rfl rfl (Nat.le_refl _)

theorem State.Sound.setLens {n : Nat} (h : s.Sound) (hn : n ≤ Config.lenbufSize) : (s.setLens n).Sound :=
  h.setTabs (h.tabs.opened hn)

theorem State.Sound.setWorld {w : PpmWorld} (h : s.Sound) (hw : w.Sound) : (s.setWorld w).Sound :=
  (((h.setCur hw.cur).setRc).setPpm hw.arena).setSa

theorem State.Sound.world (h : s.Sound) : s.world.Sound := ⟨h.cur, h.arena⟩

theorem State.Sound.createModel {order units : Nat} (h : s.Sound) : (s.createModel order units).Sound :=
  (h.setPpm (ppmCreate_ordered _ _ _ _)).setSa

/-- The end of a session with a result of R392. -/
theorem State.Sound.finish {k : ResultKind} {r : Reason} {d : Detail} (h : s.Sound) (hl : legalStatus k r d = true) :
    (s.finish k r d).Sound :=
  { h with
    latched := fun hf => by simp at hf
    fq := Nat.zero_le _
    idleFq := fun _ => rfl
    status := hl
    running := fun hb => nomatch hb }

/-- A reset gives a sound state from any (R432). -/
theorem State.hardReset_sound (s : State) : s.hardReset.Sound where
  win := ⟨rfl, fun h => (h rfl).elim, rfl, fun h => (h rfl).elim, Nat.le_refl _⟩
  cur := ⟨Nat.zero_le _, fun _ => Nat.le_refl _, fun h => (Nat.lt_irrefl 0 h).elim, fun h => nomatch h⟩
  tabs := ⟨HuffTable.invalid_below _, HuffTable.invalid_below _, HuffTable.invalid_below _,
    fun _ h => List.eq_of_mem_replicate (n := 4) h ▸ HuffTable.invalid_below _, Nat.le_refl _, Nat.zero_le _⟩
  tok := ⟨Adaptive.reset_sound _, Adaptive.reset_sound _, Adaptive.reset_sound _, Nat.le_refl 1, by show 1 ≤ 4; decide⟩
  pending := Nat.le_refl _
  size := .inl rfl
  latched := fun h => absurd h (by simp [State.hardReset, State.reset])
  lastLen := Nat.zero_le _
  written := Nat.le_refl _
  fm := rfl
  arena := rfl
  fq := Nat.zero_le _
  idleFq := fun _ => rfl
  status := rfl
  running := fun h => nomatch h

/-- An abandoned operation (R400, R430). -/
theorem State.Sound.halted {e : Halt} (h : s.Sound) (he : e.Legal) : (s.halted e).Sound := by
  cases e with
  | fatal f => exact h.finish he
  | reset => exact s.hardReset_sound

/-! ### Bytes into the window -/

theorem State.Sound.put (h : s.Sound) (b : Byte) (hw : s.win.w ≠ 0) (hroom : s.win.tw - s.win.tf + 1 ≤ s.win.w) :
    (s.put b).Sound := by
  have htf := h.win.flushed
  exact h.setWin (Window.put_sound b h.win hw) rfl (by simp only [Window.put_tw, Window.put_tf, Window.put_w]; omega)

theorem State.Sound.copyMatch (h : s.Sound) (d n : Nat) (hw : s.win.w ≠ 0) (hroom : s.win.tw - s.win.tf + n ≤ s.win.w) :
    (s.copyMatch d n).Sound := by
  have htf := h.win.flushed
  refine (h.setWin (Window.copyMatch_sound d n h.win hw) (Window.copyMatch_w _ _ _) ?_).noteIf
  simp only [Window.copyMatch_tw, Window.copyMatch_tf, Window.copyMatch_w]
  omega

/-! ### What tokens and headers do -/

theorem TokenState.Sound.resetStats {t : TokenState} (h : t.Sound) : t.resetStats.Sound :=
  { h with ld := Adaptive.reset_sound _, dd := Adaptive.reset_sound _, rd := Adaptive.reset_sound _ }

theorem State.Sound.setLast {c : Vector Word 4} {n : Nat} {d : Word} (h : s.Sound) (hn : n ≤ Config.maxToken) :
    (s.setTok (TokenState.setLast { s.tok with cache := c } n d)).Sound := by
  refine h.setTok { h.tok with } ?_
  show (BitVec.ofNat 16 n).toNat ≤ Config.maxToken
  rw [BitVec.toNat_ofNat]
  exact (Nat.mod_le _ _).trans hn

theorem State.Sound.cacheToken (h : s.Sound) (k l e : Nat) (hw : s.win.w ≠ 0) (hn : cacheLength l e ≤ Config.maxToken)
    (hroom : s.win.tw - s.win.tf + cacheLength l e ≤ s.win.w) : (s.cacheToken k l e).Sound := by
  unfold State.cacheToken
  split
  · exact (h.setLast hn).copyMatch _ _ hw hroom
  · exact h.note

theorem State.Sound.matchToken (h : s.Sound) (l e1 d e2 : Nat) (hw : s.win.w ≠ 0) (hn : matchLength l e1 ≤ Config.maxToken)
    (hroom : s.win.tw - s.win.tf + matchLength l e1 ≤ s.win.w) : (s.matchToken l e1 d e2).Sound :=
  (h.setLast hn).copyMatch _ _ hw hroom

theorem State.Sound.storeProgram (h : s.Sound) (t : FilterTok) : (s.storeProgram t).Sound := by
  unfold State.storeProgram
  split
  · refine State.Sound.noteIf ?_
    exact h.setVm h.fm rfl
  · exact h

theorem State.storeProgram_ses (s : State) (t : FilterTok) : (s.storeProgram t).ses = s.ses := by
  unfold State.storeProgram
  split
  · exact State.noteIf_ses _ _ _
  · rfl

/-- A filter is queued only within a session, and only while there is room (spec/47_filtervm.md R312). -/
theorem State.Sound.registerFilter (h : s.Sound) (hs : s.InSession) (t : FilterTok) : (s.registerFilter t).Sound := by
  have hstore := h.storeProgram t
  have hbusy : (s.storeProgram t).busy = true := (hs.of_ses (s.storeProgram_ses t)).busy
  unfold State.registerFilter
  dsimp only
  split
  · exact hstore.note
  next hfit =>
    have hroom : (s.storeProgram t).vm.fq.length < Config.fqMax := Nat.not_le.1 fun hfull => hfit (.inr (.inr hfull))
    exact { hstore with
      fq := (List.length_append.trans_le hroom)
      idleFq := fun hi => absurd (congrArg (!·) hi) (Bool.not_eq_false _ ▸ hbusy) }

theorem State.Sound.readTables {f : Fsm} (h : s.Sound) (hs : s.InSession) (hf : f.OfSession) : (s.readTables f).Sound := by
  unfold State.readTables
  split
  · exact (h.setTok h.tok.resetStats h.lastLen).setFsm hs hf
  · exact (h.setLens (Nat.zero_le _)).setFsm hs (by decide)

theorem State.tokenFsm_ofSession (s : State) : s.tokenFsm.OfSession := by
  unfold State.tokenFsm
  split <;> decide

theorem State.Sound.enterBlock (h : s.Sound) (hs : s.InSession) : s.enterBlock.Sound := by
  unfold State.enterBlock
  split
  · exact h.setFsm hs (by decide)
  split
  · exact h.readTables hs s.tokenFsm_ofSession
  split
  · exact h.setFsm hs s.tokenFsm_ofSession
  · exact h.finish rfl

theorem State.Sound.closeTables {f : Fsm} (h : s.Sound) (hs : s.InSession) (hf : f.OfSession) : (s.closeTables f).Sound :=
  (h.setLens (Nat.zero_le _)).setFsm hs hf

end

end Sys2Proof.Machine
end

section
/-! PROOFS. Soundness of the operations on the machine that leave the dispatcher where it is: flushing (spec/48_session.md R360, R366
to R372) and reading fields of the stream. -/

namespace Sys2Proof.Machine

/-! ### Flushing -/

/-- `TF` moves on within what has been written, and the known bytes of filter memory stay in order. -/
structure State.Drains (s t : State) : Prop where
  tw : t.win.tw = s.win.tw
  tf : s.win.tf ≤ s.win.tw → s.win.tf ≤ t.win.tf ∧ t.win.tf ≤ t.win.tw
  fm : Sparse.rising s.vm.fm = true → Sparse.rising t.vm.fm = true

theorem State.Drains.of_eq {s t : State} (hw : t.win = s.win) (hfm : Sparse.rising s.vm.fm = true → Sparse.rising t.vm.fm = true) :
    s.Drains t where
  tw := by rw [hw]
  tf h := by rw [hw]; exact ⟨Nat.le_refl _, h⟩
  fm := hfm

theorem State.Drains.refl (s : State) : s.Drains s := .of_eq rfl id

theorem State.Drains.trans {s t u : State} (h : s.Drains t) (k : t.Drains u) : s.Drains u where
  tw := k.tw.trans h.tw
  tf hs := ⟨(h.tf hs).1.trans (k.tf (h.tf hs).2).1, (k.tf (h.tf hs).2).2⟩
  fm := k.fm ∘ h.fm

theorem State.Drains.setTf {s : State} {a : Nat} (ha : s.win.tf ≤ s.win.tw → s.win.tf ≤ a ∧ a ≤ s.win.tw) : s.Drains (s.setTf a) :=
  ⟨rfl, ha, id⟩

/-- An operation drains, and the halts that abandon it can be reported. -/
def drainContract : Contract State Halt where
  pre _ := True
  rel := State.Drains
  err := Halt.Legal
  refl := .refl
  trans := .trans
  keeps _ _ := trivial

theorem emit_win (bytes : List Byte) (s : State) : (endState (emit bytes s)).win = s.win := by
  obtain ⟨-, h⟩ | ⟨-, h⟩ | ⟨b, -, h⟩ | h := emit_cases bytes s <;> rw [h] <;> rfl

theorem emit_drains (bytes : List Byte) (s : State) : drainContract.Holds (emit bytes) s := by
  obtain ⟨-, h⟩ | ⟨-, h⟩ | ⟨b, -, h⟩ | h := emit_cases bytes s
  · exact .of_ok h fun _ => ⟨.refl s, trivial⟩
  · exact .of_error h fun _ => ⟨.of_eq rfl id, rfl⟩
  · exact .of_error h fun _ => ⟨.of_eq rfl id, trivial⟩
  · exact .of_ok h fun _ => ⟨.of_eq rfl id, trivial⟩

theorem emit_ok_win {bytes : List Byte} {s t : State} {r : Unit} (h : emit bytes s = .ok r t) : t.win = s.win := by
  have hwin := emit_win bytes s
  rwa [h] at hwin

theorem emitUpTo_drains {a : Nat} {s : State} (ha : s.win.tf ≤ s.win.tw → s.win.tf ≤ a ∧ a ≤ s.win.tw) :
    drainContract.Holds (emitUpTo a) s :=
  .get (.bind (emit_drains _ s) fun _ _ ht => .update (.setTf (emit_ok_win ht ▸ ha)))

/-- The loop goes no further than its boundary (R367 to R371). -/
theorem flushLoop_drains (final : Bool) {b : Nat} (fuel : Nat) {s : State} (hb : b ≤ s.win.tw) :
    drainContract.Holds (flushLoop final b fuel) s := by
  induction fuel generalizing s with
  | zero => exact .pure trivial
  | succ fuel ih =>
    refine .get ?_
    cases s.vm.fq with
    | nil => exact .pure trivial
    | cons f rest =>
      dsimp only
      split
      · refine .bind (.set (.of_eq rfl id)) fun _ t ht => ?_
        cases ht
        exact ih hb
      split
      · exact .pure trivial
      next hstale hstart =>
        have hup : drainContract.Holds (emitUpTo f.start) s := emitUpTo_drains fun _ => by omega
        refine .bind hup fun _ t ht => .get ?_
        have htf : t.win.tf = f.start := emitUpTo_tf ht
        have htw : b ≤ t.win.tw := hb.trans_eq (hup.ok trivial ht).1.tw.symm
        split
        · cases final
          · exact .bind (.set (.of_eq rfl id)) fun _ _ _ => .pure trivial
          · refine .bind (.set (.of_eq rfl id)) fun _ u hu => ?_
            cases hu
            exact ih htw
        next hwhole =>
          refine .bind (.set (.of_eq rfl fun _ => rfl)) fun _ u hu => .bind (emit_drains _ u) fun _ v hv => ?_
          cases hu
          have hwin : v.win = t.win := (emit_ok_win hv :)
          refine .bind (.update (.setTf fun _ => ?_)) fun _ x hx => ?_
          · rw [hwin]
            omega
          · cases hx
            refine ih ?_
            show b ≤ v.win.tw
            rwa [hwin]

theorem doFlush_drains (final : Bool) (s : State) : drainContract.Holds (doFlush final) s := by
  have hloop := flushLoop_drains final (s.vm.fq.length + 1) (Nat.le_refl s.win.tw)
  refine .get (.bind hloop fun go t ht => ?_)
  cases go
  · exact .pure trivial
  · have htw : t.win.tw = s.win.tw := (hloop.ok trivial ht).1.tw
    refine .bind (emitUpTo_drains fun htf => htw ▸ ⟨htf, Nat.le_refl _⟩) fun _ u _ => .get ?_
    split
    · exact .set (.of_eq rfl id)
    · exact .pure trivial

theorem dropUntilFits_drains (fuel : Nat) (s : State) : drainContract.Holds (dropUntilFits fuel) s := by
  induction fuel generalizing s with
  | zero => exact .pure trivial
  | succ fuel ih =>
    refine .get ?_
    split
    · exact .bind (.set (.of_eq rfl id)) fun _ t _ => .bind (doFlush_drains false t) fun _ u _ => ih u
    · exact .pure trivial

theorem maybeFlush_drains (s : State) : drainContract.Holds maybeFlush s := by
  refine .get ?_
  split
  · exact .bind (doFlush_drains false s) fun _ t _ => .get (dropUntilFits_drains _ t)
  · exact .pure trivial

/-- What a flush changes leaves a state sound. -/
theorem State.Sound.flushed {s t : State} (h : s.Sound) (hf : FlushFrame s t) (hd : s.Drains t) : t.Sound := by
  have hw : t.win.w = s.win.w := by rw [hf.win]
  have hidle : t.isIdle = s.isIdle := by rw [State.isIdle, State.isIdle, hf.ses]
  have hbusy : t.busy = s.busy := congrArg (!·) hidle
  obtain ⟨htf, hflushed⟩ := hd.tf h.win.flushed
  have htw := hd.tw
  have hst := hf.st
  have hpending := h.pending
  exact {
    win := hf.win ▸ { h.win with flushed := htw ▸ hflushed }
    cur := hf.cur ▸ h.cur
    tabs := hf.tabs ▸ h.tabs
    tok := hf.tok ▸ h.tok
    pending := by omega
    size := hw ▸ h.size
    latched := fun hx => hw ▸ h.latched (hf.ses ▸ hx)
    lastLen := hf.tok ▸ h.lastLen
    written := hf.target h.written
    fm := hd.fm h.fm
    arena := hf.ppm ▸ h.arena
    fq := hf.queue.trans h.fq
    idleFq := fun hi => List.length_eq_zero_iff.1 (Nat.le_zero.1 (hf.queue.trans_eq (by rw [h.idleFq (hidle ▸ hi)]; rfl)))
    status := by rw [hst]; exact h.status
    running := fun hb => by rw [hst]; exact h.running (hbusy ▸ hb) }

/-! ### The contract of soundness -/

/-- The state stays sound and the dispatcher where it is; what abandons the operation meets `E`. -/
def soundContract {ε : Type} (E : ε → Prop) : Contract State ε where
  pre := State.Sound
  rel s t := (s.Sound → t.Sound) ∧ t.ses = s.ses
  err := E
  refl _ := ⟨id, rfl⟩
  trans h k := ⟨k.1 ∘ h.1, k.2.trans h.2⟩
  keeps hs h := h.1 hs

/-- A flush keeps a state sound. -/
theorem FlushFrame.keeps {α : Type} {x : M α} {s : State} (hf : FlushFrame s (endState (x s))) (hd : drainContract.Holds x s) :
    (soundContract Halt.Legal).Holds x s where
  ok hs hx := by
    rw [hx] at hf
    exact ⟨⟨fun h => h.flushed hf (hd.ok trivial hx).1, hf.ses⟩, trivial⟩
  error hs hx := by
    rw [hx] at hf
    exact ⟨⟨fun h => h.flushed hf (hd.error trivial hx).1, hf.ses⟩, (hd.error trivial hx).2⟩

theorem emit_keeps (bytes : List Byte) (s : State) : (soundContract Halt.Legal).Holds (emit bytes) s :=
  (FlushFrame.emit bytes s).keeps (emit_drains bytes s)

theorem doFlush_keeps (final : Bool) (s : State) : (soundContract Halt.Legal).Holds (doFlush final) s :=
  (FlushFrame.doFlush final s).keeps (doFlush_drains final s)

theorem maybeFlush_keeps (s : State) : (soundContract Halt.Legal).Holds maybeFlush s :=
  (FlushFrame.maybeFlush s).keeps (maybeFlush_drains s)

/-! ### Reading -/

theorem onCur_keeps {α : Type} {x : CurM α} {s : State} (h : cursorSoundness.Holds x s.cur) :
    (soundContract Halt.Legal).Holds (onCur x) s :=
  .lift s.setCur id h State.Sound.cur (fun _ hc => ⟨fun hs => hs.setCur (hc hs.cur), rfl⟩) (fun _ => id)
    (fun _ _ hx => by simp only [onCur, hx]) fun _ _ hx => by simp only [onCur, hx, id]

theorem onPpm_keeps {α : Type} {x : PpmM α} {s : State} (h : ppmSoundness.Holds x s.world) :
    (soundContract Halt.Legal).Holds (onPpm x) s :=
  .lift (fun w => (s.setWorld w).noteIf w.restarted .ppmRestart) id h State.Sound.world
    (fun _ hw => ⟨fun hs => (hs.setWorld (hw hs.world)).noteIf, State.noteIf_ses _ _ _⟩) (fun _ => id)
    (fun _ _ hx => by simp only [onPpm, hx]) fun _ _ hx => by simp only [onPpm, hx, id]

theorem onPpmQuietly_keeps {α : Type} {x : PpmM α} {s : State} (h : ppmSoundness.Holds x s.world) :
    (soundContract Halt.Legal).Holds (onPpmQuietly x) s :=
  .lift s.setWorld id h State.Sound.world (fun _ hw => ⟨fun hs => hs.setWorld (hw hs.world), rfl⟩) (fun _ => id)
    (fun _ _ hx => by simp only [onPpmQuietly, hx]) fun _ _ hx => by simp only [onPpmQuietly, hx, id]

theorem decodeTable_keeps (t : HuffTable) (n : Nat) (s : State) : (soundContract Halt.Legal).Holds (decodeTable t n) s :=
  .bind (onCur_keeps (t.decode_keeps n _)) fun _ _ _ =>
    .bind (.update ⟨State.Sound.noteIf, State.noteIf_ses _ _ _⟩) fun _ _ _ => .pure trivial

/-- A decode leaves the token decoders' state and gives a symbol of the alphabet. -/
theorem decodeTable_ok {t : HuffTable} {n v : Nat} {s u : State} (ht : t.Below n) (hn : 0 < n) (h : decodeTable t n s = .ok v u) :
    u.tok = s.tok ∧ v < n := by
  obtain ⟨r, x, hx, h⟩ := bind_ok h
  obtain ⟨c, hc, rfl⟩ := onCur_ok _ _ _ _ hx
  obtain ⟨_, y, hy, h⟩ := bind_ok h
  cases hy
  cases h
  exact ⟨State.noteIf_tok _ _ _, t.decode_sym_lt n _ _ r ht hn hc⟩

theorem rkLd_below : rkLd.Below Config.nc := HuffTable.built_below _ (Nat.le_refl _) (by decide)
theorem rkDd_below : rkDd.Below Config.dc := HuffTable.built_below _ (Nat.le_refl _) (by decide)
theorem rkRd_below : rkRd.Below Config.rc := HuffTable.built_below _ (Nat.le_refl _) (by decide)

theorem State.Sound.setG1Ld {s : State} {a : Adaptive} (h : s.Sound) (ha : a.Sound Config.nc) :
    (s.setTok { s.tok with g1Ld := a }).Sound := h.setTok { h.tok with ld := ha } h.lastLen

theorem State.Sound.setG1Dd {s : State} {a : Adaptive} (h : s.Sound) (ha : a.Sound Config.dc) :
    (s.setTok { s.tok with g1Dd := a }).Sound := h.setTok { h.tok with dd := ha } h.lastLen

theorem State.Sound.setG1Rd {s : State} {a : Adaptive} (h : s.Sound) (ha : a.Sound Config.rc) :
    (s.setTok { s.tok with g1Rd := a }).Sound := h.setTok { h.tok with rd := ha } h.lastLen

theorem decodeLd_keeps (s : State) : (soundContract Halt.Legal).Holds decodeLd s := by
  refine .get ?_
  split
  · refine .bind (decodeTable_keeps _ _ s) fun r u hu => ?_
    obtain ⟨htok, hr⟩ := decodeTable_ok rkLd_below (by decide) hu
    exact .bind (.update ⟨fun h => h.setG1Ld (htok ▸ h.tok.ld.adapt hr), rfl⟩) fun _ _ _ => .pure trivial
  · exact decodeTable_keeps _ _ s

theorem decodeDd_keeps (s : State) : (soundContract Halt.Legal).Holds decodeDd s := by
  refine .get ?_
  split
  · refine .bind (decodeTable_keeps _ _ s) fun r u hu => ?_
    obtain ⟨htok, hr⟩ := decodeTable_ok rkDd_below (by decide) hu
    exact .bind (.update ⟨fun h => h.setG1Dd (htok ▸ h.tok.dd.adapt hr), rfl⟩) fun _ _ _ => .pure trivial
  · exact decodeTable_keeps _ _ s

theorem decodeRd_keeps (s : State) : (soundContract Halt.Legal).Holds decodeRd s := by
  refine .get ?_
  split
  · refine .bind (decodeTable_keeps _ _ s) fun r u hu => ?_
    obtain ⟨htok, hr⟩ := decodeTable_ok rkRd_below (by decide) hu
    exact .bind (.update ⟨fun h => h.setG1Rd (htok ▸ h.tok.rd.adapt hr), rfl⟩) fun _ _ _ => .pure trivial
  · exact decodeTable_keeps _ _ s

theorem decodeMd_keeps (s : State) : (soundContract Halt.Legal).Holds decodeMd s := .get (decodeTable_keeps _ _ s)

theorem State.createModel_ses (s : State) (order units : Nat) : (s.createModel order units).ses = s.ses := rfl

/-! ### Fields and grammars -/

/-- What abandons the reading of a token can be reported. -/
def Abort.Legal : Abort → Prop
  | .halt h => h.Legal
  | _ => True

theorem reading_keeps {α : Type} {x : M α} {s : State} (h : (soundContract Halt.Legal).Holds x s) :
    (soundContract Abort.Legal).Holds (reading x) s :=
  .lift id .halt h id (fun _ => id) (fun _ => id) (fun _ _ hx => by simp only [reading, hx, id])
    fun _ _ hx => by simp only [reading, hx, id]

theorem decodePpmByte_keeps (s : State) : (soundContract Abort.Legal).Holds decodePpmByte s := by
  refine .bind (reading_keeps (onPpm_keeps (ppmDecode_keeps _))) fun r _ _ => ?_
  cases r with
  | byte b => exact .pure trivial
  | endSegment => exact .throw trivial
  | corrupt => exact .throw trivial
  | nomem => exact .throw trivial

theorem readField_keeps (f : Field) (s : State) : (soundContract Abort.Legal).Holds (readField f) s := by
  cases f with
  | raw n => exact reading_keeps (onCur_keeps (getbits_keeps n _))
  | ld => exact reading_keeps (decodeLd_keeps s)
  | dd => exact reading_keeps (decodeDd_keeps s)
  | rd => exact reading_keeps (decodeRd_keeps s)
  | md => exact reading_keeps (decodeMd_keeps s)
  | ppm => exact decodePpmByte_keeps s

/-- What a rule has done by the time its reading is abandoned keeps a state sound and the dispatcher where it is. -/
abbrev SoundEffect (fix : List Nat → State → State) : Prop :=
  ∀ vals (s : State), (s.Sound → (fix vals s).Sound) ∧ (fix vals s).ses = s.ses

/-- Running a grammar keeps a state sound; and it gives what the grammar makes. -/
theorem fetchParse_keeps {α : Type} {P : α → Prop} {fix : List Nat → State → State} (hfix : SoundEffect fix) (p : Parse α)
    (hp : p.Makes P) (vals : List Nat) (s : State) : (soundContract Abort.Legal).Holds (fetchParse fix p vals) s P := by
  induction p generalizing vals s with
  | ret a => exact .pure hp
  | fail r => exact .throw trivial
  | field f k ih =>
    have hf := readField_keeps f s
    cases hr : readField f s with
    | ok v t =>
      have hrun : fetchParse fix (.field f k) vals s = fetchParse fix (k v) (vals ++ [v]) t := by simp only [fetchParse, hr]
      exact .after hrun (fun hs => (hf.ok hs hr).1) (ih v (hp v) _ t)
    | error e t =>
      have hrun : fetchParse fix (.field f k) vals s = .error e (fix vals t) := by simp only [fetchParse, hr]
      exact .of_error hrun fun hs =>
        have he := hf.error hs hr
        ⟨(soundContract Abort.Legal).trans he.1 (hfix vals t), he.2⟩

theorem noEffectYet_sound : SoundEffect noEffectYet := fun _ _ => ⟨id, rfl⟩

theorem lzEffectYet_sound (g : BitVec 3) : SoundEffect (lzEffectYet g) := by
  intro vals s
  unfold lzEffectYet
  split
  · exact ⟨id, rfl⟩
  · split
    · exact ⟨fun h => h.setTok { h.tok with } h.lastLen, rfl⟩
    · exact ⟨id, rfl⟩

theorem ppmHdrEffectYet_sound : SoundEffect ppmHdrEffectYet := by
  intro vals s
  unfold ppmHdrEffectYet State.resetModel
  split
  · split
    · exact ⟨State.Sound.createModel, s.createModel_ses _ _⟩
    · exact ⟨id, rfl⟩
  · exact ⟨id, rfl⟩

end Sys2Proof.Machine
end

section
/-! PROOFS. Every instruction keeps a sound state sound: a command of the host from any state, a token or a stream structure within a
session, where there is room for what it puts into the window. -/

namespace Sys2Proof.Machine

/-! ### How an operation ends -/

/-- What holds of the state an operation reaches from `s`: `good` if it ends well, `bad` if it is abandoned. -/
structure Ends {σ ε α : Type} (x : EStateM ε σ α) (s : σ) (good : α → σ → Prop) (bad : ε → σ → Prop) : Prop where
  ok : ∀ {a t}, x s = .ok a t → good a t
  error : ∀ {e t}, x s = .error e t → bad e t

namespace Ends

variable {σ ε α β : Type} {good : α → σ → Prop} {bad : ε → σ → Prop} {s : σ}

theorem of_ok {x : EStateM ε σ α} {t : σ} {a : α} (hx : x s = .ok a t) (h : good a t) : Ends x s good bad where
  ok hb := by
    rw [hx] at hb
    cases hb
    exact h
  error he := by
    rw [hx] at he
    cases he

theorem of_error {x : EStateM ε σ α} {t : σ} {e : ε} (hx : x s = .error e t) (h : bad e t) : Ends x s good bad where
  ok hb := by
    rw [hx] at hb
    cases hb
  error he := by
    rw [hx] at he
    cases he
    exact h

theorem pure {a : α} (h : good a s) : Ends (Pure.pure a) s good bad := .of_ok rfl h

theorem throw {e : ε} (h : bad e s) : Ends (MonadExcept.throw e) s good bad := .of_error rfl h

theorem update {f : σ → σ} {good : Unit → σ → Prop} (h : good () (f s)) : Ends (modify f) s good bad := .of_ok rfl h

/-- Reading the state first. -/
theorem get {f : σ → EStateM ε σ α} (h : Ends (f s) s good bad) : Ends (MonadState.get >>= f) s good bad := ⟨h.ok, h.error⟩

theorem bind {x : EStateM ε σ β} {f : β → EStateM ε σ α} {mid : β → σ → Prop} (hx : Ends x s mid bad)
    (hf : ∀ b t, mid b t → Ends (f b) t good bad) : Ends (x >>= f) s good bad := by
  cases h : x s with
  | ok b t =>
    have hrun : (x >>= f) s = f b t := bind_of_ok h
    exact ⟨fun k => (hf b t (hx.ok h)).ok (hrun ▸ k), fun k => (hf b t (hx.ok h)).error (hrun ▸ k)⟩
  | error e t => exact .of_error (bind_error h) (hx.error h)

end Ends

section
variable {α β ε : Type} {E : ε → Prop} {good : α → State → Prop} {bad : ε → State → Prop} {s : State}

/-- An operation under the contract of soundness. -/
theorem Ends.of_keeps {x : EStateM ε State α} {post : α → Prop} (h : (soundContract E).Holds x s post) (hs : s.Sound)
    (hgood : ∀ a t, t.Sound → t.ses = s.ses → post a → good a t) (hbad : ∀ e t, t.Sound → t.ses = s.ses → E e → bad e t) :
    Ends x s good bad where
  ok hx := hgood _ _ ((h.ok hs hx).1.1 hs) (h.ok hs hx).1.2 (h.ok hs hx).2
  error hx := hbad _ _ ((h.error hs hx).1.1 hs) (h.error hs hx).1.2 (h.error hs hx).2

/-- After an operation under the contract of soundness. -/
theorem Ends.after {x : EStateM ε State β} {f : β → EStateM ε State α} {post : β → Prop}
    (h : (soundContract E).Holds x s post) (hs : s.Sound) (hbad : ∀ e t, t.Sound → t.ses = s.ses → E e → bad e t)
    (hf : ∀ b t, t.Sound → t.ses = s.ses → post b → Ends (f b) t good bad) : Ends (x >>= f) s good bad :=
  .bind (mid := fun b t => (t.Sound ∧ t.ses = s.ses) ∧ post b)
    (.of_keeps h hs (fun _ _ ht hses hb => ⟨⟨ht, hses⟩, hb⟩) hbad) fun b t hmid => hf b t hmid.1.1 hmid.1.2 hmid.2

end

/-- An operation is abandoned in a sound state, for a reason that can be reported. -/
abbrev HaltsSound (e : Halt) (t : State) : Prop := t.Sound ∧ e.Legal

/-- An operation ends in a sound state, however it ends. -/
abbrev RunsSound (x : M Unit) (s : State) : Prop := Ends x s (fun _ t => t.Sound) HaltsSound

theorem haltsSound_of {x : State} (e : Halt) (t : State) (ht : t.Sound) (_ : t.ses = x.ses) (he : e.Legal) : HaltsSound e t := ⟨ht, he⟩

/-! ### The operations that move the dispatcher -/

theorem State.Sound.disablePpm {s : State} (h : s.Sound) : (s.setPpm { s.ppm with disabled := true }).Sound := h.setPpm h.arena

section
variable {s : State} (hs : s.Sound)
include hs

theorem endFile_sound : RunsSound endFile s :=
  .after (doFlush_keeps true s) hs haltsSound_of fun _ _ ht _ _ => .update (ht.finish rfl)

theorem segmentEnd_sound (hses : s.InSession) : RunsSound segmentEnd s :=
  .after (doFlush_keeps false s) hs haltsSound_of fun _ _ ht hts _ => .update (ht.setFsm (hses.of_ses hts) (by decide))

theorem newTables_sound (hses : s.InSession) : RunsSound newTables s :=
  .after (doFlush_keeps false s) hs haltsSound_of fun _ _ ht hts _ =>
    .update (ht.readTables (hses.of_ses hts) (hses.of_ses hts))

/-- The corruption fallback (R363) empties the arena. -/
theorem fallback_sound (hses : s.InSession) : RunsSound fallback s :=
  .after (.update ⟨fun h => (h.setPpm rfl).note, rfl⟩) hs haltsSound_of fun _ t ht hts _ =>
    .after (doFlush_keeps false t) ht haltsSound_of fun _ _ hu htu _ =>
      .update (hu.setFsm ((hses.of_ses hts).of_ses htu) (by decide))

theorem ppmBlockBegin_sound (hses : s.InSession) : RunsSound ppmBlockBegin s := by
  refine .get ?_
  split
  · exact .after (onPpm_keeps (rcInit_keeps _)) hs haltsSound_of fun _ _ ht hts _ =>
      .update (ht.setFsm (hses.of_ses hts) (by decide))
  · exact .after (.set ⟨fun h => h.disablePpm.note, rfl⟩) hs haltsSound_of fun _ t ht hts _ =>
      .after (doFlush_keeps false t) ht haltsSound_of fun _ _ hu htu _ =>
        .update (hu.setFsm ((hses.of_ses hts).of_ses htu) (by decide))

end

/-- The beginning of a PPM_ONLY stream (R364) leaves the dispatcher; without memory it reports `(CORRUPT, NOMEM)`. -/
theorem ppmOnlyBegin_keeps (solid : Bool) (s : State) : (soundContract Halt.Legal).Holds (ppmOnlyBegin solid) s := by
  refine .get ?_
  dsimp only
  split
  · refine .bind (.set ⟨State.Sound.createModel, s.createModel_ses _ _⟩) fun _ t _ => .get ?_
    split
    · exact .bind (.throw rfl) fun _ u _ => onPpm_keeps (rcInit_keeps _)
    · exact onPpm_keeps (rcInit_keeps _)
  · exact onPpm_keeps (rcInit_keeps _)

/-! ### The ways an instruction runs -/

/-- Every next state of this outcome is sound. -/
def KeepsSound (o : Out) : Prop := ∀ t, o = .next t → t.Sound

theorem KeepsSound.next {t : State} (h : t.Sound) : KeepsSound (.next t) := fun _ hu => Host.Outcome.next.inj hu ▸ h

/-- Where an operation leads, abandoned or not. -/
theorem RunsSound.settle {x : M Unit} {s : State} (h : RunsSound x s) : (settle x s).Sound := by
  unfold Machine.settle
  cases hx : x s with
  | ok _ t => exact h.ok hx
  | error e t => exact (h.error hx).1.halted (h.error hx).2

theorem KeepsSound.runOp {x : M Unit} {s : State} (h : RunsSound x s) : KeepsSound (runOp x s) := by
  rw [runOp_eq_settle]
  exact .next h.settle

theorem KeepsSound.idleCommand {c : Bool} {f : State → State} {s : State} (hs : s.Sound)
    (h : s.accept.Sound → c = true → (f s.accept).Sound) : KeepsSound (idleCommand c f s) := by
  obtain ⟨-, hc, ho⟩ | ⟨-, ho⟩ := idleCommand_cases c f s <;> rw [ho]
  · exact .next (h hs.accept hc)
  · exact .next hs.refuse

theorem KeepsSound.portCommand {c : Bool} {x : M (Option Word)} {s : State} (hs : s.Sound)
    (h : (soundContract Halt.Legal).Holds x s.accept) : KeepsSound (portCommand c x s) := by
  have hacc := hs.accept
  obtain ⟨-, ho⟩ | ⟨-, -, ⟨v, t, hx, ho⟩ | ⟨t, hx, ho⟩ | ⟨f, t, hx, ho⟩ | ⟨t, -, ho⟩⟩ := portCommand_cases c x s <;> rw [ho]
  · exact .next hs.refuse
  · exact .next ((h.ok hacc hx).1.1 hacc).setResult
  · exact .next ((h.ok hacc hx).1.1 hacc)
  · exact .next (hs.setCur ((h.error hacc hx).1.1 hacc).cur).refuse
  · exact .next t.hardReset_sound

/-! ### Commands of the bit cursor, the tables and the Filter VM -/

theorem Cursor.attach_sound (c : Cursor) : c.attach.Sound where
  top := Nat.zero_le _
  read _ := Nat.le_refl 0
  skipped h := absurd h (Nat.lt_irrefl 0)
  streamLen h := nomatch h

theorem execBcExhausted_sound {s : State} (hs : s.Sound) : KeepsSound (execBcExhausted s) := by
  refine .portCommand hs (.bind (onCur_keeps (overrun_keeps _)) fun past t _ => ?_)
  split
  · exact .pure trivial
  · refine .bind (onCur_keeps (exhausted_keeps _)) fun ended u _ => ?_
    split <;> exact .pure trivial

/-- A table of at most as many lengths as its capacity (R156). -/
theorem execHufBuild_sound {s : State} (hs : s.Sound) (id count : Word) : KeepsSound (execHufBuild id count s) := by
  have hcapacity : 0 < tableCapacity id.toNat := by
    unfold tableCapacity
    split <;> decide
  refine .idleCommand hs fun h hc => ?_
  have hcount : count.toNat ≤ tableCapacity id.toNat := of_decide_eq_true (Bool.and_eq_true_iff.1 hc).2
  exact (h.setTabs (h.tabs.setById _ (HuffTable.built_below _ hcount hcapacity))).setResult

theorem FilterVm.apply_fm (v : FilterVm) (f : VmRegs → List Byte → List Byte) (n : Nat) (h : Sparse.rising v.fm = true) :
    Sparse.rising (v.apply f n).fm = true := by
  unfold FilterVm.apply
  split
  · exact h
  · exact Sparse.rising_putBytes [] 0 _ rfl

theorem FilterVm.apply_fq (v : FilterVm) (f : VmRegs → List Byte → List Byte) (n : Nat) : (v.apply f n).fq = v.fq := by
  unfold FilterVm.apply
  split <;> rfl

theorem execFvExec_sound {s : State} (hs : s.Sound) (kind len : Word) : KeepsSound (execFvExec kind len s) := by
  refine .idleCommand hs fun h _ => ?_
  split
  · exact h
  · exact h.setVm (FilterVm.apply_fm _ _ _ h.fm) (FilterVm.apply_fq _ _ _)

theorem State.Sound.transformBlock {s : State} (h : s.Sound) (f : VmRegs → List Byte → List Byte) : (s.transformBlock f).Sound :=
  h.setVm (FilterVm.apply_fm _ _ _ h.fm) (FilterVm.apply_fq _ _ _)

/-! ### Commands of the window -/

theorem State.Sound.setTf {s : State} {a : Nat} (h : s.Sound) (ha : s.win.tf ≤ a) (hb : a ≤ s.win.tw) : (s.setTf a).Sound := by
  have hpending := h.pending
  exact h.setWin { h.win with flushed := hb } rfl (by dsimp only; omega)

theorem Window.hasRoom_iff (x : Window) (n : Nat) : x.hasRoom n = true ↔ x.w ≠ 0 ∧ x.tw - x.tf + n ≤ x.w := by
  simp [Window.hasRoom]

theorem execWinPut_sound {s : State} (hs : s.Sound) (byte : Word) : KeepsSound (execWinPut byte s) := by
  refine .idleCommand hs fun h hc => ?_
  obtain ⟨hw, hroom⟩ := (s.win.hasRoom_iff 1).1 (Bool.and_eq_true_iff.1 hc).2
  exact h.put _ hw hroom

theorem execWinCopy_sound {s : State} (hs : s.Sound) (distance length : Word) : KeepsSound (execWinCopy distance length s) := by
  refine .idleCommand hs fun h hc => ?_
  obtain ⟨hw, hroom⟩ := (s.win.hasRoom_iff _).1 hc
  exact h.copyMatch _ _ hw hroom

/-- A failed write keeps the `TF` and the `WRITTEN` reached (R178). -/
theorem execWinFlush_sound {s : State} (hs : s.Sound) : KeepsSound (execWinFlush s) := by
  have hacc := hs.accept
  have hkeeps := doFlush_keeps false s.accept
  have hdrains := doFlush_drains false s.accept
  unfold execWinFlush flush
  split
  · cases hx : doFlush false s.accept with
    | ok _ t => exact .next ((hkeeps.ok hacc hx).1.1 hacc)
    | error e t =>
      cases e with
      | reset => exact .next t.hardReset_sound
      | fatal f =>
        obtain ⟨hsound, hses⟩ := (hkeeps.error hacc hx).1
        have hdrain := (hdrains.error trivial hx).1
        obtain ⟨hfrom, hto⟩ := hdrain.tf hs.win.flushed
        have htf := hs.setTf hfrom (hto.trans_eq hdrain.tw)
        have hwritten : t.st.written ≤ s.ses.targetL := (hsound hacc).written.trans_eq (congrArg Session.targetL hses)
        refine .next (State.Sound.refuse ?_)
        exact { htf with written := hwritten }
  · exact .next hs.refuse

/-! ### The size of the window (R352) -/

/-- A size that is latched is a power of two from `W_MIN` to `W_MAX`. -/
theorem latchSize_eq_some {x : Word} {n : Nat} (h : latchSize x = some n) :
    n = max x.toNat Config.wMin ∧ ∃ k ≤ 30, 18 ≤ k ∧ n = 2 ^ k := by
  unfold latchSize at h
  dsimp only at h
  split at h
  · cases h
  next hlegal =>
    simp only [not_or, ne_eq, not_not, Nat.not_lt] at hlegal
    obtain ⟨hzero, hand, hmax⟩ := hlegal
    obtain ⟨k, hk⟩ := (Nat.and_sub_one_eq_zero_iff_isPowerOfTwo hzero).1 hand
    have hk30 : k ≤ 30 := (Nat.pow_le_pow_iff_right (by decide)).1 (hk ▸ hmax)
    have hmin : max (2 ^ k) (2 ^ 18) = 2 ^ max k 18 := by
      obtain hle | hle := Nat.le_total k 18
      · rw [Nat.max_eq_right hle, Nat.max_eq_right (Nat.pow_le_pow_right (by decide) hle)]
      · rw [Nat.max_eq_left hle, Nat.max_eq_left (Nat.pow_le_pow_right (by decide) hle)]
    cases h
    exact ⟨rfl, max k 18, Nat.max_le.2 ⟨hk30, by decide⟩, Nat.le_max_right _ _, by rw [hk]; exact hmin⟩

/-- A fresh window of a latched size. -/
theorem State.Sound.setFresh {s : State} {x : Word} {n : Nat} (h : s.Sound) (hn : latchSize x = some n) :
    (s.setWin (Window.fresh n)).Sound ∧ n ≠ 0 := by
  obtain ⟨-, k, hk, hk18, rfl⟩ := latchSize_eq_some hn
  have hpos : 0 < 2 ^ k := Nat.two_pow_pos k
  refine ⟨{ h with
    win := ⟨rfl, fun _ _ hc => (nomatch hc), (Nat.zero_mod _).symm, fun _ => ⟨fun hf => (nomatch hf), fun hw => ?_⟩, Nat.le_refl _⟩
    pending := Nat.zero_le _
    size := .inr ⟨k, hk, hk18, rfl⟩
    latched := fun _ => hpos.ne' }, hpos.ne'⟩
  exact absurd hw (Nat.not_le.2 hpos)

theorem execWinInit_sound {s : State} (hs : s.Sound) : KeepsSound (execWinInit s) := by
  refine .idleCommand hs fun h hc => ?_
  obtain ⟨n, hn⟩ := Option.isSome_iff_exists.1 hc
  have hn' : latchSize s.accept.par.winsize = some n := hn
  rw [hn']
  exact { (h.setFresh hn).1 with written := Nat.zero_le _, fq := Nat.zero_le _, idleFq := fun _ => rfl }

/-! ### `START` (R350 to R353, R364) -/

/-- The status and the latches of a session that begins, with a window if it is one of G1 to G4. -/
theorem State.Sound.begins {s : State} (h : s.Sound) {c : Cursor} {p : Params} {st : Status} {x : Session} (hc : c.Sound)
    (hst : st.kind = .none ∧ st.reason = .none ∧ st.detail = .none ∧ st.written = 0)
    (hx : x.fsm = .hdr ∧ s.win.w ≠ 0 ∨ x.fsm = .ppmonly) : ((((s.setPar p).setSt st).setCur c).setSes x).Sound := by
  obtain ⟨hk, hr, hd, hw⟩ := hst
  have hidle : (x.fsm == .idle || x.fsm == .done) = false := by
    obtain ⟨hx, -⟩ | hx := hx <;> rw [hx] <;> rfl
  exact { h with
    cur := hc
    latched := fun hf => by
      obtain ⟨-, hne⟩ | hx := hx
      · exact hne
      · change x.fsm ∈ _ at hf
        simp [hx] at hf
    written := hw.trans_le (Nat.zero_le _)
    idleFq := fun hi => absurd hi (Bool.eq_false_iff.1 hidle)
    status := by
      change legalStatus st.kind st.reason st.detail = true
      rw [hk, hr, hd]
      rfl
    running := fun _ => hk }

/-- Where no window is latched `WINSIZE` is legal. -/
theorem State.Sound.latch {s : State} (h : s.Sound)
    (hsize : s.par.version.toNat ≤ 3 → s.win.w = 0 → (latchSize s.par.winsize).isSome = true) : s.latch.Sound := by
  have hcur := s.cur.attach_sound
  unfold State.latch
  dsimp only
  split
  next hnew =>
    obtain ⟨n, hn⟩ := Option.isSome_iff_exists.1 (hsize hnew.1 hnew.2)
    obtain ⟨hfresh, hne⟩ := h.setFresh hn
    rw [← (latchSize_eq_some hn).1]
    exact hfresh.begins hcur ⟨rfl, rfl, rfl, rfl⟩ (.inl ⟨if_pos hnew.1, hne⟩)
  next hold =>
    refine h.begins hcur ⟨rfl, rfl, rfl, rfl⟩ ?_
    by_cases hv : s.par.version.toNat ≤ 3
    · exact .inl ⟨if_pos hv, fun hzero => hold ⟨hv, hzero⟩⟩
    · exact .inr (if_neg hv)

theorem State.decoderReset_sound (s : State) : s.decoderReset.Sound := { s.hardReset_sound with }

/-- A `START` that is accepted finds `WINSIZE` legal if it has to latch (R352). -/
theorem State.startAccepted_size {s : State} (h : s.startAccepted = true) (hv : s.par.version.toNat ≤ 3)
    (hlatch : s.effectiveSolid = true → s.win.w = 0) : (latchSize s.par.winsize).isSome = true := by
  have hmust : s.mustLatch = true := by
    cases hsolid : s.effectiveSolid with
    | true => simp [State.mustLatch, hv, hlatch hsolid]
    | false => simp [State.mustLatch, hv, hsolid]
  have hor := (Bool.and_eq_true_iff.1 h).2
  rwa [hmust, Bool.not_true, Bool.false_or] at hor

theorem execStart_sound {s : State} (hs : s.Sound) : KeepsSound (execStart s) := by
  unfold execStart
  split
  next hacc =>
    have hsize := State.startAccepted_size hacc
    have hlatched : (if s.effectiveSolid then s.accept else s.accept.decoderReset).latch.Sound := by
      split
      · exact hs.accept.latch fun hv hw => hsize hv fun _ => hw
      next hfresh => exact (State.decoderReset_sound _).latch fun hv _ => hsize hv fun hsolid => absurd hsolid hfresh
    dsimp only
    split
    · exact .next hlatched
    · exact .runOp (.of_keeps (ppmOnlyBegin_keeps _ _) hlatched (fun _ _ ht _ _ => ht) haltsSound_of)
  next => exact .next hs.refuse

end Sys2Proof.Machine
end

section
/-! PROOFS. Soundness of a step: the instructions one by one, then what the fetch gives, then the step. -/

namespace Sys2Proof

/-- An instruction of the stream of a session of G1 to G4: the token of a block or a stream structure. -/
def Instr.ofSession (i : Instr) : Bool :=
  match slotOf ⟨0, 0⟩ i with
  | .cmd | .ppmOnly | .fkind => false
  | _ => true

theorem commandOf_ofSession {op : Nat} {a b : Word} {i : Instr} (h : commandOf op a b = some i) : i.ofSession = false := by
  unfold commandOf at h
  split at h <;> cases h <;> rfl

/-- The host's commands belong to no stream. -/
theorem decodeCmd_ofSession {w : BitVec 72} {i : Instr} (h : decodeCmd w = .ok i) : i.ofSession = false := by
  have hmakes : parseCmd.Makes fun i => i.ofSession = false := by
    intro op a b
    dsimp only
    split
    next i hi => exact commandOf_ofSession hi
    next => trivial
  unfold decodeCmd at h
  cases hd : decode .cmd (natToBits 72 w.toNat) with
  | error e => rw [hd] at h; cases h
  | ok r =>
    rw [hd] at h
    cases h
    exact hmakes.of_runBits hd

theorem Parse.makes_true {α : Type} (p : Parse α) : p.Makes fun _ => True := by
  induction p with
  | ret a => trivial
  | fail r => trivial
  | field f k ih => exact ih

end Sys2Proof

namespace Sys2Proof.Machine

/-! ### Commands that only need an idle machine -/

theorem Tables.Sound.setLenbuf {t : Tables} (h : t.Sound) (b : Vector Byte Config.lenbufSize) : ({ t with lenbuf := b } : Tables).Sound :=
  { h with }

theorem Tables.Sound.setTablesValid {t : Tables} (h : t.Sound) (b : Bool) : ({ t with tablesValid := b } : Tables).Sound :=
  { h with }

theorem Tables.Sound.setAudioValid {t : Tables} (h : t.Sound) (b : Bool) : ({ t with audioValid := b } : Tables).Sound :=
  { h with }

theorem TokenState.Sound.setChannels {t : TokenState} (h : t.Sound) {n : Nat} (h1 : 1 ≤ n) (h4 : n ≤ 4) :
    ({ t with audioCh := n } : TokenState).Sound := { h with channels := ⟨h1, h4⟩ }

theorem TokenState.Sound.setAudio {t : TokenState} (h : t.Sound) (alast : Vector Byte 4) (acur : Fin 4) :
    ({ t with alast := alast, acur := acur } : TokenState).Sound := { h with }

theorem Tables.Sound.putLens {t : Tables} (h : t.Sound) (lens : List (BitVec 4)) : (t.putLens lens).Sound := h.setLenbuf _

section
variable {s : State} (hs : s.Sound)
include hs

theorem execBcAttach_sound : KeepsSound (execBcAttach s) :=
  .idleCommand hs fun h _ => h.setCur (Cursor.attach_sound _)

theorem execBcConsume_sound (n : Word) : KeepsSound (execBcConsume n s) :=
  .idleCommand hs fun h _ => h.setCur (Cursor.consume_sound _ _ h.cur)

theorem execBcAlign_sound : KeepsSound (execBcAlign s) :=
  .idleCommand hs fun h _ => h.setCur (Cursor.align_sound _ h.cur)

theorem execHufSetlen_sound (index length : Word) : KeepsSound (execHufSetlen index length s) :=
  .idleCommand hs fun h _ => h.setTabs { h.tabs with }

theorem execWinRead_sound (index : Word) : KeepsSound (execWinRead index s) :=
  .idleCommand hs fun h _ => h.setResult

theorem execWinStat_sound : KeepsSound (execWinStat s) :=
  .idleCommand hs fun h _ => h.setResult

theorem execPpmInit_sound (order bytes : Word) : KeepsSound (execPpmInit order bytes s) :=
  .idleCommand hs fun h _ => h.createModel.setResult

theorem execSaAlloc_sound (n : Word) : KeepsSound (execSaAlloc n s) :=
  .idleCommand hs fun h _ => h.setSa.setResult

theorem execSaFree_sound (index n : Word) : KeepsSound (execSaFree index n s) :=
  .idleCommand hs fun h _ => h.setSa

theorem execSaInit_sound (units : Word) : KeepsSound (execSaInit units s) :=
  .idleCommand hs fun h _ => h.setSa.setPpm rfl

theorem execFvLoad_sound (off byte : Word) : KeepsSound (execFvLoad off byte s) :=
  .idleCommand hs fun h _ => h.setVm (Sparse.rising_put _ _ _ h.fm) rfl

theorem execFvSetreg_sound (reg value : Word) : KeepsSound (execFvSetreg reg value s) :=
  .idleCommand hs fun h _ => h.setVm h.fm rfl

theorem execFvRead_sound (off : Word) : KeepsSound (execFvRead off s) :=
  .idleCommand hs fun h _ => h.setResult

theorem execFvIdent_sound (plen : Word) : KeepsSound (execFvIdent plen s) :=
  .idleCommand hs fun h _ => h.noteIf.setResult

end

/-! ### Instructions within a session -/

/-- A session runs, and there is room in the window for what the instruction puts into it, which is no more than a token may. -/
structure State.Fits (s : State) (i : Instr) : Prop where
  session : s.InSession
  short : i.Short
  room : 0 < i.windowBytes s.tok.lastLen.toNat → s.win.tw - s.win.tf + i.windowBytes s.tok.lastLen.toNat ≤ s.win.w

section
variable {s : State} {i : Instr} (hs : s.Sound)
include hs

theorem State.Fits.latched (hf : s.Fits i) : s.win.w ≠ 0 := hs.latched hf.session

theorem State.Fits.roomFor (hf : s.Fits i) {n : Nat} (hn : i.windowBytes s.tok.lastLen.toNat = n) :
    s.win.tw - s.win.tf + n ≤ s.win.w := by
  subst hn
  obtain h0 | h0 := Nat.eq_zero_or_pos (i.windowBytes s.tok.lastLen.toNat)
  · rw [h0]
    exact hs.pending
  · exact hf.room h0

theorem State.Fits.put (hf : s.Fits i) (hi : ∀ last, i.windowBytes last = 1) (b : Byte) : (s.put b).Sound :=
  hs.put b (hf.latched hs) (hf.roomFor hs (hi _))

theorem State.Fits.cacheToken (hf : s.Fits i) {l e : Nat} (hi : ∀ last, i.windowBytes last = cacheLength l e) (k : Nat) :
    (s.cacheToken k l e).Sound :=
  hs.cacheToken k l e (hf.latched hs) (hi _ ▸ hf.short _ hs.lastLen) (hf.roomFor hs (hi _))

theorem State.Fits.matchToken (hf : s.Fits i) {l e1 : Nat} (hi : ∀ last, i.windowBytes last = matchLength l e1) (d e2 : Nat) :
    (s.matchToken l e1 d e2).Sound :=
  hs.matchToken l e1 d e2 (hf.latched hs) (hi _ ▸ hf.short _ hs.lastLen) (hf.roomFor hs (hi _))

theorem execRepeat_sound (hf : s.Fits .repeatLast) : KeepsSound (execRepeat s) := by
  refine .next ?_
  split
  · split
    · exact hs
    · exact hs.copyMatch _ _ (hf.latched hs) (hf.roomFor hs rfl)
  · exact hs.note

theorem execAudDelta_sound {d : Byte} (hf : s.Fits (.audDelta d)) : KeepsSound (execAudDelta d s) := by
  have hw := hf.latched hs
  have hroom := hf.roomFor hs (n := 1) rfl
  refine .next (State.Sound.put ?_ _ hw hroom)
  exact hs.setTok { hs.tok with } hs.lastLen

theorem execFilter_sound (t : FilterTok) (hses : s.InSession) : KeepsSound (execFilter t s) := by
  refine .next ?_
  split
  · exact hs.registerFilter hses t
  · exact hs.note

theorem execHdr_sound (flags chk : Byte) (size : List Byte) (hses : s.InSession) : KeepsSound (execHdr flags chk size s) := by
  have hlatch : (s.latchHeader flags size).Sound := hs.setSes rfl rfl
  refine .next ?_
  split
  · exact hs.finish rfl
  split
  · exact hs.finish rfl
  · exact hlatch.enterBlock hses

theorem execLzTables_sound (lens : List (BitVec 4)) (hses : s.InSession) : KeepsSound (execLzTables lens s) := by
  have hbuilt (ld dd rd : List Byte) := (hs.tabs.putLens lens).lzBuilt ld dd rd
  have hset (ld dd rd : List Byte) := hs.setTabs (hbuilt ld dd rd)
  have hfsm : Fsm.OfSession .lz := by decide
  refine .next ?_
  split
  · refine State.Sound.closeTables ?_ hses hfsm
    exact (hset _ _ _).setTabs ((hbuilt _ _ _).setTablesValid true)
  · exact (hset _ _ _).finish rfl

/-- The channels of an audio set that is accepted start afresh (R231). -/
theorem execAudioTables_sound (ch1 : BitVec 2) (lens : List (BitVec 4)) (hses : s.InSession) :
    KeepsSound (execAudioTables ch1 lens s) := by
  have hbuilt := (hs.tabs.putLens lens).buildAudio (ch1.toNat + 1)
  have hch : ch1.toNat + 1 ≤ 4 := ch1.isLt
  have htok := hs.tok.setChannels (Nat.le_add_left 1 ch1.toNat) hch
  have hset := (hs.setTabs hbuilt).setTok htok hs.lastLen
  have hfsm : Fsm.OfSession .aud := by decide
  refine .next ?_
  split
  · refine State.Sound.closeTables ?_ hses hfsm
    exact (hset.setTabs (hbuilt.setAudioValid true)).setTok (htok.setAudio _ _) hs.lastLen
  · exact hset.finish rfl

theorem execPpmHdr_sound (p : Byte) (mem esc : Option Byte) (hses : s.InSession) : KeepsSound (execPpmHdr p mem esc s) := by
  have hmodel : (if p.getLsbD 7 then s.resetModel p (mem.getD 0) else s).Sound ∧
      (if p.getLsbD 7 then s.resetModel p (mem.getD 0) else s).ses = s.ses := by
    unfold State.resetModel
    split
    · exact ⟨hs.createModel, s.createModel_ses _ _⟩
    · exact ⟨hs, rfl⟩
  unfold execPpmHdr
  dsimp only
  generalize (if p.getLsbD 7 then s.resetModel p (mem.getD 0) else s) = u at *
  obtain ⟨hu, huses⟩ := hmodel
  split
  · exact .next (hu.finish rfl)
  · refine .runOp (ppmBlockBegin_sound ?_ (hses.of_ses ?_))
    · split
      · exact hu.setPpm hu.arena
      · exact hu
    · split <;> exact huses

end

/-! ### Every instruction -/

/-- Every instruction keeps a sound state sound, those of a session's stream where they fit. -/
theorem exec_sound {i : Instr} {s : State} (hs : s.Sound) (hfit : i.ofSession = true → s.Fits i) : KeepsSound (exec i s) := by
  cases i with
  | nop => exact .next hs.accept
  | reset => exact .next s.hardReset_sound
  | start => exact execStart_sound hs
  | cancel => exact .next hs.accept.setPar
  | bcAttach => exact execBcAttach_sound hs
  | bcPeek n => exact .portCommand hs (.bind (onCur_keeps (peek_keeps _ _)) fun _ _ _ => .pure trivial)
  | bcConsume n => exact execBcConsume_sound hs n
  | bcRefill => exact .portCommand hs (.bind (onCur_keeps (refill_keeps _)) fun _ _ _ => .pure trivial)
  | bcAlign => exact execBcAlign_sound hs
  | bcExhausted => exact execBcExhausted_sound hs
  | hufSetlen index length => exact execHufSetlen_sound hs index length
  | hufBuild id count => exact execHufBuild_sound hs id count
  | hufDecode id => exact .portCommand hs (.bind (decodeTable_keeps _ _ _) fun _ _ _ => .pure trivial)
  | winPut byte => exact execWinPut_sound hs byte
  | winCopy distance length => exact execWinCopy_sound hs distance length
  | winRead index => exact execWinRead_sound hs index
  | winFlush => exact execWinFlush_sound hs
  | winStat => exact execWinStat_sound hs
  | winInit => exact execWinInit_sound hs
  | ppmInit order bytes => exact execPpmInit_sound hs order bytes
  | ppmDecode => exact .portCommand hs (.bind (onPpmQuietly_keeps (ppmDecode_keeps _)) fun _ _ _ => .pure trivial)
  | saAlloc n => exact execSaAlloc_sound hs n
  | saFree index n => exact execSaFree_sound hs index n
  | rcInit =>
    exact .portCommand hs (.bind (onCur_keeps (align_keeps _)) fun _ _ _ => .bind (onPpm_keeps (rcInit_keeps _)) fun _ _ _ =>
      .pure trivial)
  | saInit units => exact execSaInit_sound hs units
  | fvLoad off byte => exact execFvLoad_sound hs off byte
  | fvSetreg reg value => exact execFvSetreg_sound hs reg value
  | fvExec kind len => exact execFvExec_sound hs kind len
  | fvRead off => exact execFvRead_sound hs off
  | fvIdent plen => exact execFvIdent_sound hs plen
  | lit _ | ppmLit _ | ppmLitesc => exact .next ((hfit rfl).put hs (fun _ => rfl) _)
  | end00 | audEnd00 => exact .runOp (segmentEnd_sound hs (hfit rfl).session)
  | end01 | audEnd01 => exact .runOp (newTables_sound hs (hfit rfl).session)
  | end10 | audEnd10 | ppmNewfile => exact .runOp (endFile_sound hs)
  | end11 | audEnd11 => exact .runOp (endFile_sound (hs.setTabs { hs.tabs with }))
  | filter t => exact execFilter_sound hs t (hfit rfl).session
  | repeatLast => exact execRepeat_sound hs (hfit rfl)
  | cache0 l e | cache1 l e | cache2 l e | cache3 l e => exact .next ((hfit rfl).cacheToken hs (fun _ => rfl) _)
  | match0 e1 d e2 | match1 e1 d e2 | match2 e1 d e2 | match3 e1 d e2 | match4 e1 d e2 | match5 e1 d e2
  | match6 e1 d e2 | match7 e1 d e2 | match8 e1 d e2 | match9 e1 d e2 | match10 e1 d e2 | match11 e1 d e2
  | match12 e1 d e2 | match13 e1 d e2 | match14 e1 d e2 | match15 e1 d e2 | match16 e1 d e2 | match17 e1 d e2
  | match18 e1 d e2 | match19 e1 d e2 | match20 e1 d e2 | match21 e1 d e2 | match22 e1 d e2 | match23 e1 d e2
  | match24 e1 d e2 | match25 e1 d e2 | match26 e1 d e2 | match27 e1 d e2 =>
    exact .next ((hfit rfl).matchToken hs (fun _ => rfl) d e2)
  | audDelta d => exact execAudDelta_sound hs (hfit rfl)
  | ppmFilter t | filterTok t => exact .next (hs.registerFilter (hfit rfl).session t)
  | ppmMatch d2 d1 d0 l => exact .next (hs.copyMatch _ _ ((hfit rfl).latched hs) ((hfit rfl).roomFor hs rfl))
  | ppmReserved c => exact .runOp (fallback_sound hs (hfit rfl).session)
  | ppmonlyByte b => exact .runOp (.of_keeps (emit_keeps [b] s) hs (fun _ _ ht _ _ => ht) haltsSound_of)
  | hdr flags chk size => exact execHdr_sound hs flags chk size (hfit rfl).session
  | lenV _ | len15 | lenZrun _ => exact .next (hs.setTabs (hs.tabs.pushLens _ _))
  | audioTables ch1 lens => exact execAudioTables_sound hs ch1 lens (hfit rfl).session
  | lzTables lens => exact execLzTables_sound hs lens (hfit rfl).session
  | ppmHdr p mem esc => exact execPpmHdr_sound hs p mem esc (hfit rfl).session
  | fkNone | fkE8 | fkE8E9 | fkItanium | fkDelta | fkRgb | fkAudio => exact .next (hs.transformBlock _)

end Sys2Proof.Machine
end

section
/-! PROOFS. Every step from a sound state gives a sound state: what the fetch gives fits the state it gives, and the instruction
keeps that sound. -/

namespace Sys2Proof.Machine

/-! ### How a fetch ends -/

/-- A fetch is abandoned in a sound state for a reason that can be reported, and while a session runs if it is the stream's. -/
abbrev StopsSound (e : Abort) (t : State) : Prop := t.Sound ∧ e.Legal ∧ ((∀ h, e ≠ .halt h) → t.busy = true)

/-- A fetch ends in a sound state; a session runs there if the instruction it gives is of a session's stream. -/
abbrev Fetches (o : Option Instr) (t : State) : Prop := t.Sound ∧ ∀ i, o = some i → i.ofSession = true → t.InSession

/-- The boundary checks end in a sound state, within a session if they let the iteration go on. -/
abbrev Proceeds (go : Bool) (t : State) : Prop := t.Sound ∧ (go = true → t.InSession)

theorem fetches_none {t : State} (ht : t.Sound) : Fetches none t := ⟨ht, fun _ h => nomatch h⟩

theorem proceeds_false {t : State} (ht : t.Sound) : Proceeds false t := ⟨ht, fun h => nomatch h⟩

theorem stops_of {s : State} (hbusy : s.busy = true) (e : Abort) (t : State) (ht : t.Sound) (hses : t.ses = s.ses) (he : e.Legal) :
    StopsSound e t := by
  refine ⟨ht, he, fun _ => ?_⟩
  rw [State.busy, State.isIdle, hses]
  exact hbusy

theorem truncatedInput_ends {α : Type} {good : α → State → Prop} {s : State} (hs : s.Sound) :
    Ends truncatedInput s good StopsSound := .throw ⟨hs, rfl, fun h => absurd rfl (h _)⟩

theorem RunsSound.reading {x : M Unit} {s : State} (h : RunsSound x s) :
    Ends (reading x) s (fun _ t => t.Sound) StopsSound := by
  cases hx : x s with
  | ok a t => exact .of_ok (reading_of_ok hx) (h.ok hx)
  | error e t =>
    have hrun : Machine.reading x s = .error (.halt e) t := by simp only [Machine.reading, hx]
    exact .of_error hrun ⟨(h.error hx).1, (h.error hx).2, fun hne => absurd rfl (hne e)⟩

/-! ### The fetch in each state of the dispatcher -/

section
variable {s : State} (hs : s.Sound)
include hs

theorem readField_ends (f : Field) (hses : s.InSession) :
    Ends (readField f) s (fun v t => (t.Sound ∧ t.ses = s.ses) ∧ f.InRange v) StopsSound where
  ok hx :=
    have hkeeps := ((readField_keeps f s).ok hs hx).1
    ⟨⟨hkeeps.1 hs, hkeeps.2⟩, readField_inRange hx⟩
  error hx :=
    have hkeeps := (readField_keeps f s).error hs hx
    stops_of hses.busy _ _ (hkeeps.1.1 hs) hkeeps.1.2 hkeeps.2

/-- An instruction of a session's stream, read by its grammar. -/
theorem fetchInstr_ends {fix : List Nat → State → State} (hfix : SoundEffect fix) (p : Parse Instr) (hses : s.InSession) :
    Ends (some <$> fetchParse fix p []) s Fetches StopsSound :=
  .of_keeps (.map (post := fun _ => True) (fetchParse_keeps hfix p p.makes_true [] s) fun _ _ => trivial) hs
    (fun _ _ ht hts _ => ⟨ht, fun _ _ _ => hses.of_ses hts⟩) (stops_of hses.busy)

theorem blockBoundary_ends (hses : s.InSession) : Ends blockBoundary s Proceeds StopsSound := by
  refine .get ?_
  split
  · exact .bind (endFile_sound hs).reading fun _ _ ht => .pure (proceeds_false ht)
  · refine .after (reading_keeps (onCur_keeps (exhausted_keeps _))) hs (stops_of hses.busy) fun ended t ht hts _ => ?_
    have hin := hses.of_ses hts
    split
    · exact truncatedInput_ends ht
    · refine .get ?_
      split
      · exact .bind (segmentEnd_sound ht hin).reading fun _ _ hu => .pure (proceeds_false hu)
      · exact .pure ⟨ht, fun _ => hin⟩

theorem ppmBoundary_ends (hses : s.InSession) : Ends ppmBoundary s Proceeds StopsSound := by
  refine .get ?_
  split
  · exact .bind (endFile_sound hs).reading fun _ _ ht => .pure (proceeds_false ht)
  · refine .after (reading_keeps (onCur_keeps (overrun_keeps _))) hs (stops_of hses.busy) fun past t ht hts _ => ?_
    split
    · exact truncatedInput_ends ht
    · exact .pure ⟨ht, fun _ => hses.of_ses hts⟩

omit hs in
/-- The token of a block, after the boundary checks and `maybe_flush`. -/
theorem fetchToken_ends {boundary : FetchM Bool} {fix : State → List Nat → State → State} {g : State → Parse Instr}
    (hb : Ends boundary s Proceeds StopsSound) (hfix : ∀ u, SoundEffect (fix u)) :
    Ends (fetchToken boundary fix g) s Fetches StopsSound := by
  refine .bind hb fun go t ⟨ht, hgo⟩ => ?_
  cases go with
  | false => exact .pure (fetches_none ht)
  | true =>
    have hin := hgo rfl
    exact .after (reading_keeps (maybeFlush_keeps t)) ht (stops_of hin.busy) fun _ u hu hut _ =>
      .get (fetchInstr_ends hu (hfix u) (g u) (hin.of_ses hut))

theorem fetchHdr_ends (hses : s.InSession) : Ends fetchHdr s Fetches StopsSound := by
  refine .get ?_
  split
  · exact .bind (endFile_sound hs).reading fun _ _ ht => .pure (fetches_none ht)
  · refine .after (reading_keeps (onCur_keeps (align_keeps _))) hs (stops_of hses.busy) fun _ t ht hts _ => ?_
    have hin := hses.of_ses hts
    refine .after (reading_keeps (onCur_keeps (exhausted_keeps _))) ht (stops_of hin.busy) fun ended u hu hut _ => ?_
    split
    · exact truncatedInput_ends hu
    · exact fetchInstr_ends hu noEffectYet_sound _ (hin.of_ses hut)

/-- A table set's opening (R89), one of its entries, or the set as a whole. -/
theorem fetchTables_ends (hses : s.InSession) : Ends fetchTables s Fetches StopsSound := by
  refine .get ?_
  split
  · split
    · refine .bind (readField_ends hs (.raw 2) hses) fun ch t ⟨⟨ht, _⟩, hch⟩ => ?_
      have hlt : ch < 2 ^ 2 := hch
      have htok := ht.tok.setChannels (Nat.le_add_left 1 ch) hlt
      have hlens : Config.mc * (ch + 1) ≤ Config.lenbufSize := Nat.mul_le_mul_left 257 hlt
      exact .bind (.update (good := fun _ u => u.Sound) ((ht.setTok htok ht.lastLen).setLens hlens)) fun _ _ hu =>
        .pure (fetches_none hu)
    · exact .bind (.of_ok (good := fun _ u => u.Sound) rfl (hs.setLens (by decide))) fun _ _ hu => .pure (fetches_none hu)
  split
  · exact fetchInstr_ends hs noEffectYet_sound _ hses
  split
  · exact .pure ⟨hs, fun _ _ _ => hses⟩
  · exact .pure ⟨hs, fun _ _ _ => hses⟩

/-- A byte of a PPM_ONLY stream is of no session of G1 to G4. -/
theorem fetchPpmOnly_ends (hbusy : s.busy = true) : Ends fetchPpmOnly s Fetches StopsSound := by
  have hmakes : parsePpmOnly.Makes fun i => i.ofSession = false := fun _ => rfl
  refine .get ?_
  split
  · exact .bind (.update (good := fun _ t => t.Sound) (hs.finish rfl)) fun _ _ ht => .pure (fetches_none ht)
  · refine .after (reading_keeps (onCur_keeps (overrun_keeps _))) hs (stops_of hbusy) fun past t ht hts _ => ?_
    have htbusy : t.busy = true := (stops_of hbusy .endSegment t ht hts trivial).2.2 fun _ h => nomatch h
    split
    · exact truncatedInput_ends ht
    · refine .of_keeps (.map (post := Gives fun i => i.ofSession = false) (fetchParse_keeps noEffectYet_sound _ hmakes [] t)
        fun _ h => gives_some h) ht (fun _ u hu _ hplain => ⟨hu, fun i hi hsession => ?_⟩) (stops_of htbusy)
      rw [hplain i hi] at hsession
      cases hsession

/-- A fetch that polls the cancel flag first (R357). -/
theorem fetchPolled_ends {x : FetchM (Option Instr)} (hpoll : s.ses.fsm ∈ [Fsm.hdr, .lz, .aud, .ppm, .ppmonly])
    (hfetch : s.par.cancel = false → fetchCore s = x) (hx : Ends x s Fetches StopsSound) :
    Ends (fetchCore s) s Fetches StopsSound := by
  cases hc : s.par.cancel with
  | true => exact .of_ok (fetchCore_cancelled hc hpoll) (fetches_none (hs.finish rfl))
  | false =>
    rw [hfetch hc]
    exact hx

theorem fetchCore_ends : Ends (fetchCore s) s Fetches StopsSound := by
  have hin {f : Fsm} (hf : s.ses.fsm = f) (h : f.OfSession) : s.InSession := by
    rw [State.InSession, hf]
    exact h
  have hpoll {f : Fsm} (hf : s.ses.fsm = f) (h : f ∈ [Fsm.hdr, .lz, .aud, .ppm, .ppmonly]) :
      s.ses.fsm ∈ [Fsm.hdr, .lz, .aud, .ppm, .ppmonly] := hf.symm ▸ h
  cases hf : s.ses.fsm with
  | idle | done =>
    have hnone : fetchCore s = pure none := by simp only [fetchCore, hf]
    rw [hnone]
    exact .pure (fetches_none hs)
  | hdr => exact fetchPolled_ends hs (hpoll hf (by decide)) (fetchCore_hdr hf) (fetchHdr_ends hs (hin hf (by decide)))
  | tables =>
    rw [fetchCore_tables hf]
    exact fetchTables_ends hs (hin hf (by decide))
  | lz =>
    refine fetchPolled_ends hs (hpoll hf (by decide)) (fetchCore_lz hf) ?_
    rw [fetchLz_eq]
    exact fetchToken_ends (blockBoundary_ends hs (hin hf (by decide))) fun _ => lzEffectYet_sound _
  | aud =>
    refine fetchPolled_ends hs (hpoll hf (by decide)) (fetchCore_aud hf) ?_
    rw [fetchAud_eq]
    exact fetchToken_ends (blockBoundary_ends hs (hin hf (by decide))) fun _ => noEffectYet_sound
  | ppmhdr =>
    rw [fetchCore_ppmhdr hf]
    exact fetchInstr_ends hs ppmHdrEffectYet_sound _ (hin hf (by decide))
  | ppm =>
    refine fetchPolled_ends hs (hpoll hf (by decide)) (fetchCore_ppm hf) ?_
    rw [fetchPpm_eq]
    exact fetchToken_ends (ppmBoundary_ends hs (hin hf (by decide))) fun _ => noEffectYet_sound
  | ppmonly =>
    have hbusy : s.busy = true := by simp [State.busy, State.isIdle, hf]
    exact fetchPolled_ends hs (hpoll hf (by decide)) (fetchCore_ppmonly hf) (fetchPpmOnly_ends hs hbusy)

end

/-! ### The iteration -/

/-- What a fetch leads to is sound. -/
def Fetched.Sound : Fetched → Prop
  | .instr _ t => t.Sound
  | .done t => t.Sound
  | .fault _ => True

/-- While a session runs it is one of G1 to G4 or the PPM_ONLY stream. -/
theorem State.inSession_of_busy {s : State} (hbusy : s.busy = true) (hf : s.ses.fsm ≠ .ppmonly) : s.InSession := by
  unfold State.busy State.isIdle at hbusy
  unfold State.InSession
  revert hbusy hf
  cases s.ses.fsm <;> decide

theorem abandon_sound {e : Abort} {t : State} (h : StopsSound e t) : (abandon e t).Sound := by
  obtain ⟨ht, hlegal, hbusy⟩ := h
  cases e with
  | halt h => exact ht.halted hlegal
  | endSegment =>
    show State.Sound (if _ then _ else _)
    split
    · exact ht.finish rfl
    next hf => exact (segmentEnd_sound ht (t.inSession_of_busy (hbusy fun _ h => nomatch h) hf)).settle
  | corrupt =>
    show State.Sound (if _ then _ else _)
    split
    · exact ht.finish rfl
    next hf => exact (fallback_sound ht (t.inSession_of_busy (hbusy fun _ h => nomatch h) hf)).settle
  | nomem => exact ht.finish rfl
  | reject sym => trivial

theorem coreFetch_sound {s : State} (hs : s.Sound) : (coreFetch s).Sound := by
  have hends := fetchCore_ends hs
  unfold coreFetch
  cases hf : fetchCore s s with
  | ok o t =>
    have ht : t.Sound := (hends.ok hf).1
    cases o with
    | some i => exact ht
    | none => exact ht
  | error e t => exact abandon_sound (hends.error hf)

/-- What the CORE fetches of a session's stream fits: a session runs, and `maybe_flush` has made room (R360). -/
theorem coreFetch_fits {s t : State} {i : Instr} (hs : s.Sound) (h : coreFetch s = .instr i t) (hi : i.ofSession = true) :
    t.Fits i where
  session := ((fetchCore_ends hs).ok (coreFetch_instr h)).2 i rfl hi
  short := (((fetchCore_emits s).ok trivial (coreFetch_instr h)).2 i rfl).elim Instr.OffWindow.short And.left
  room := coreFetch_room hs h

theorem State.Sound.regRead {s : State} (h : s.Sound) (idx : Byte) : (s.regRead idx).Sound := by
  rw [State.regRead_eq]
  exact { h with }

theorem State.Sound.regWrite {s : State} (h : s.Sound) (idx : Byte) (v : Word) : (s.regWrite idx v).Sound := by
  unfold State.regWrite
  split
  · split
    · exact h.setPar.accept
    · exact h.refuse
  · exact h.refuse

/-- An action of the host gives a sound state, or a command. -/
theorem hostFetch_sound (a : HostAction) {s : State} (hs : s.Sound) :
    (∃ t, hostFetch a s = .done t ∧ t.Sound) ∨ ∃ i, hostFetch a s = .instr i s ∧ i.ofSession = false := by
  cases a with
  | cmd w =>
    cases hd : decodeCmd w with
    | ok i => exact .inr ⟨i, by simp only [hostFetch, hd], decodeCmd_ofSession hd⟩
    | error e => exact .inl ⟨s.refuse, by simp only [hostFetch, hd], hs.refuse⟩
  | regRead idx => exact .inl ⟨_, rfl, hs.regRead idx⟩
  | regWrite idx v => exact .inl ⟨_, rfl, hs.regWrite idx v⟩
  | positionIn reads =>
    refine .inl ⟨_, rfl, ?_⟩
    split
    · exact hs.setCur (s.cur.port_sound reads hs.cur)
    · exact hs
  | positionOut answers =>
    refine .inl ⟨_, rfl, ?_⟩
    split
    · exact hs.setOut
    · exact hs

/-! ### A step -/

theorem step_sound_of_quiet {s t : State} (hs : s.Sound) (hq : s.quiet = true) (h : step s = .next t) : t.Sound := by
  have hsound := coreFetch_sound hs.tick
  unfold step at h
  rw [fetchNext_quiet hq] at h
  cases hc : coreFetch s.tick with
  | instr i u =>
    rw [hc] at h hsound
    exact exec_sound hsound (coreFetch_fits hs.tick hc) t h
  | done u =>
    rw [hc] at h hsound
    cases h
    exact hsound
  | fault f =>
    rw [hc] at h
    cases h

theorem step_sound_of_due {s t : State} (hs : s.Sound) (hq : s.quiet = false) (h : step s = .next t) : t.Sound := by
  obtain ⟨a, rest, hfetch⟩ := fetchNext_due hq
  have hhost : (s.setHost rest).Sound := hs.setHost
  unfold step at h
  rw [hfetch] at h
  obtain ⟨u, hdone, hu⟩ | ⟨i, hinstr, hi⟩ := hostFetch_sound a hhost
  · rw [hdone] at h
    cases h
    exact hu
  · rw [hinstr] at h
    exact exec_sound hhost (fun hsession => absurd hsession (Bool.eq_false_iff.1 hi)) t h

theorem step_sound {s t : State} (hs : s.Sound) (h : step s = .next t) : t.Sound := by
  cases hq : s.quiet with
  | true => exact step_sound_of_quiet hs hq h
  | false => exact step_sound_of_due hs hq h

/-- Settles O51, by cases on who the step's fetch serves, the host or the stream; within a session by the instruction fetched. -/
theorem everyStepKeepsSoundness : Obligations.EveryStepKeepsSoundness := fun _ _ hs h => step_sound hs h

end Sys2Proof.Machine
end

section
/-! PROOFS. The arrays of a built table in closed form (spec/41_huffman.md R142, R144): how many symbols have a length, how many have a
shorter one, the code space up to a length, and the place of a symbol in `SYM`. -/

namespace Sys2Proof.Machine

/-! ### The numbers a code is made of (R140, R142) -/

/-- How many symbols have length `l`. -/
def numOfLen (lens : List Byte) (l : Nat) : Nat := lens.countP fun x => x.toNat = l

/-- How many coded symbols are shorter than `l`. -/
def numShorter (lens : List Byte) (l : Nat) : Nat := lens.countP fun x => 1 ≤ x.toNat ∧ x.toNat < l

/-- The code space that the lengths `1` to `l` use, in units of `2^-16`. -/
def codeSpace (lens : List Byte) (l : Nat) : Nat :=
  (lens.map fun x => if 1 ≤ x.toNat ∧ x.toNat ≤ l then 2 ^ (16 - x.toNat) else 0).sum

theorem kraft_eq_codeSpace (lens : List Byte) : kraft lens = codeSpace lens 16 := rfl

theorem numShorter_one (lens : List Byte) : numShorter lens 1 = 0 :=
  List.countP_eq_zero.2 fun x _ => by simp only [decide_eq_true_eq]; omega

theorem numShorter_succ (lens : List Byte) {l : Nat} (hl : 1 ≤ l) :
    numShorter lens (l + 1) = numShorter lens l + numOfLen lens l := by
  induction lens with
  | nil => rfl
  | cons x t ih =>
    simp only [numShorter, numOfLen, List.countP_cons, decide_eq_true_eq] at ih ⊢
    rw [ih]
    by_cases h : x.toNat = l
    · rw [if_pos (by omega), if_neg (by omega), if_pos h]
      ring
    · rw [if_neg h, if_congr (by omega : 1 ≤ x.toNat ∧ x.toNat < l + 1 ↔ 1 ≤ x.toNat ∧ x.toNat < l) rfl rfl]
      ring

theorem codeSpace_zero (lens : List Byte) : codeSpace lens 0 = 0 := by
  rw [codeSpace, List.sum_eq_zero]
  intro n hn
  obtain ⟨x, -, rfl⟩ := List.mem_map.1 hn
  exact if_neg (by omega)

/-- `LIMIT[l]` (R142). -/
theorem codeSpace_succ (lens : List Byte) (l : Nat) :
    codeSpace lens (l + 1) = codeSpace lens l + numOfLen lens (l + 1) * 2 ^ (15 - l) := by
  induction lens with
  | nil => simp [codeSpace, numOfLen]
  | cons x t ih =>
    simp only [codeSpace, numOfLen, List.map_cons, List.sum_cons, List.countP_cons, decide_eq_true_eq, Nat.add_mul] at ih ⊢
    rw [ih]
    by_cases h : x.toNat = l + 1
    · rw [if_pos (by omega), if_neg (by omega), if_pos h, h, Nat.add_sub_add_right 15 1 l]
      ring
    · rw [if_neg h, if_congr (by omega : 1 ≤ x.toNat ∧ x.toNat ≤ l + 1 ↔ 1 ≤ x.toNat ∧ x.toNat ≤ l) rfl rfl]
      ring

theorem codeSpace_of_pos (lens : List Byte) {l : Nat} (hl : 1 ≤ l) :
    codeSpace lens l = codeSpace lens (l - 1) + numOfLen lens l * 2 ^ (16 - l) := by
  obtain ⟨k, rfl⟩ := Nat.exists_eq_add_of_le' hl
  rw [codeSpace_succ, Nat.add_sub_cancel, Nat.add_sub_add_right 15 1 k]

theorem codeSpace_mono (lens : List Byte) : Monotone (codeSpace lens) :=
  monotone_nat_of_le_succ fun l => (codeSpace_succ lens l).symm ▸ Nat.le_add_right _ _

/-- The first code word of length `l`, with zeros after it, is the code space of the shorter lengths (R140). -/
theorem codeSpace_pred_eq (lens : List Byte) {l : Nat} (hl : 1 ≤ l) (hl16 : l ≤ 16) :
    codeSpace lens (l - 1) = firstCode lens l * 2 ^ (16 - l) := by
  induction lens with
  | nil => simp [codeSpace, firstCode]
  | cons x t ih =>
    simp only [codeSpace, firstCode, List.map_cons, List.sum_cons, Nat.add_mul] at ih ⊢
    rw [ih]
    by_cases h : 1 ≤ x.toNat ∧ x.toNat < l
    · rw [if_pos h, if_pos (by omega), ← pow_add, show l - x.toNat + (16 - l) = 16 - x.toNat by omega]
    · rw [if_neg h, if_neg (by omega), Nat.zero_mul]

/-- The code words of length `l` end where the code space up to `l` does. -/
theorem codeSpace_eq (lens : List Byte) {l : Nat} (hl : 1 ≤ l) (hl16 : l ≤ 16) :
    codeSpace lens l = (firstCode lens l + numOfLen lens l) * 2 ^ (16 - l) := by
  rw [codeSpace_of_pos lens hl, codeSpace_pred_eq lens hl hl16, Nat.add_mul]

/-! ### `CNT`, `LIMIT`, `POS` (R142) -/

theorem sumsFrom_getD_zero (acc : Nat) (l : List Nat) : (sumsFrom acc l).getD 0 0 = acc := by cases l <;> rfl

theorem sumsFrom_getD_succ (acc : Nat) {l : List Nat} {k : Nat} (hk : k < l.length) :
    (sumsFrom acc l).getD (k + 1) 0 = (sumsFrom acc l).getD k 0 + l.getD k 0 := by
  induction l generalizing acc k with
  | nil => exact absurd hk (Nat.not_lt_zero k)
  | cons x t ih =>
    cases k with
    | zero => exact sumsFrom_getD_zero (acc + x) t
    | succ k => exact ih (acc + x) (Nat.lt_of_succ_lt_succ hk)

theorem getD_map_range (f : Nat → Nat) {n k : Nat} (hk : k < n) : ((List.range n).map f).getD k 0 = f k := by
  rw [List.getD_eq_getElem?_getD, List.getElem?_map, List.getElem?_range hk]
  rfl

theorem cntOf_getD_zero (lens : List Byte) : (cntOf lens).getD 0 0 = 0 := getD_map_range _ (by decide)

theorem cntOf_getD (lens : List Byte) {l : Nat} (hl : 1 ≤ l) (hl16 : l ≤ 16) : (cntOf lens).getD l 0 = numOfLen lens l :=
  (getD_map_range _ (Nat.lt_succ_of_le hl16)).trans (if_neg (by omega))

theorem limitOf_getD (lens : List Byte) {l : Nat} (hl : l ≤ 16) : (limitOf (cntOf lens)).getD l 0 = codeSpace lens l := by
  induction l with
  | zero => exact (codeSpace_zero lens).symm
  | succ k ih =>
    have hlen : k < ((List.range 16).map fun j => (cntOf lens).getD (j + 1) 0 * 2 ^ (15 - j)).length := by simpa using hl
    rw [limitOf, sumsFrom_getD_succ 0 hlen, getD_map_range _ hl, ← limitOf, ih (Nat.le_of_lt hl),
      cntOf_getD lens (Nat.succ_pos k) hl, codeSpace_succ]

theorem limitOf_getD_pred (lens : List Byte) {l : Nat} (hl : 1 ≤ l) (hl16 : l ≤ 16) :
    (limitOf (cntOf lens)).getD l 0 = (limitOf (cntOf lens)).getD (l - 1) 0 + numOfLen lens l * 2 ^ (16 - l) := by
  rw [limitOf_getD lens hl16, limitOf_getD lens (by omega), codeSpace_of_pos lens hl]

theorem posOf_getD (lens : List Byte) {l : Nat} (hl : 1 ≤ l) (hl16 : l ≤ 16) :
    (posOf (cntOf lens)).getD l 0 = numShorter lens l := by
  have hstep {k : Nat} (hk : k < 16) :
      (posOf (cntOf lens)).getD (k + 1) 0 = (posOf (cntOf lens)).getD k 0 + (cntOf lens).getD k 0 := by
    rw [posOf, sumsFrom_getD_succ 0 (by simpa [cntOf] using hk), List.getD_eq_getElem?_getD (l := (cntOf lens).take 16),
      List.getElem?_take_of_lt hk, ← List.getD_eq_getElem?_getD]
  induction l, hl using Nat.le_induction with
  | base => rw [hstep (by decide), cntOf_getD_zero, numShorter_one, posOf, sumsFrom_getD_zero]
  | succ k hk ih => rw [hstep hl16, ih (Nat.le_of_lt hl16), cntOf_getD lens hk (Nat.le_of_lt hl16), numShorter_succ lens hk]

/-! ### `SYM` (R144) -/

theorem map_getD_range (lens : List Byte) {x : Nat} (hx : x ≤ lens.length) :
    (List.range x).map (fun i => lens.getD i 0) = lens.take x := by
  refine List.ext_getElem? fun i => ?_
  rw [List.getElem?_map, List.getElem?_take]
  by_cases hi : i < x
  · simp [hi, List.getElem?_eq_getElem (hi.trans_le hx)]
  · simp [hi]

/-- The symbols below `x` of a length, counted. -/
theorem length_symsOfLen (lens : List Byte) {x : Nat} (hx : x ≤ lens.length) (l : Nat) :
    (symsOfLen lens x l).length = numOfLen (lens.take x) l := by
  rw [symsOfLen, ← List.countP_eq_length_filter, numOfLen, ← map_getD_range lens hx, List.countP_map]
  rfl

/-- A symbol stands among those of its length after the smaller ones. -/
theorem symsOfLen_getElem? (lens : List Byte) {x l : Nat} (hx : x < lens.length) (hl : (lens.getD x 0).toNat = l) :
    (symsOfLen lens lens.length l)[numOfLen (lens.take x) l]? = some x := by
  obtain ⟨m, hm⟩ := Nat.exists_eq_add_of_lt hx
  have hsplit : symsOfLen lens lens.length l = symsOfLen lens x l ++
      ((List.range (m + 1)).map (x + ·)).filter fun i => (lens.getD i 0).toNat = l := by
    rw [symsOfLen, show lens.length = x + (m + 1) by omega, List.range_add, List.filter_append]
    rfl
  rw [hsplit, ← length_symsOfLen lens hx.le, List.getElem?_append_right (Nat.le_refl _), Nat.sub_self,
    List.range_succ_eq_map, List.map_cons, List.filter_cons_of_pos (by simpa using hl)]
  rfl

/-- The coded symbols of the lengths 1 to `k`. -/
theorem length_coded (lens : List Byte) (k : Nat) :
    ((List.range' 1 k).flatMap (symsOfLen lens lens.length)).length = numShorter lens (k + 1) := by
  induction k with
  | zero => exact (numShorter_one lens).symm
  | succ k ih =>
    rw [List.range'_1_concat, List.flatMap_append, List.length_append, ih, List.flatMap_singleton,
      length_symsOfLen lens (Nat.le_refl _), List.take_length, Nat.add_comm 1 k, ← numShorter_succ lens (Nat.succ_pos k)]

/-- The place of a symbol: after the shorter ones and the smaller ones of its length. -/
theorem coded_getElem? (lens : List Byte) {x l : Nat} (hx : x < lens.length) (hlen : (lens.getD x 0).toNat = l) (hl : 1 ≤ l)
    (hl16 : l ≤ 16) : ((List.range' 1 16).flatMap (symsOfLen lens lens.length))[numShorter lens l + numOfLen (lens.take x) l]? =
      some x := by
  obtain ⟨k, rfl⟩ := Nat.exists_eq_add_of_le' hl
  have hsplit : List.range' 1 16 = List.range' 1 k ++ List.range' (1 + k) (16 - k) := by
    rw [List.range'_append_1, Nat.add_sub_cancel' (Nat.le_of_lt hl16)]
  obtain ⟨m, hm⟩ : ∃ m, 16 - k = m + 1 := Nat.exists_eq_add_of_le' (by omega)
  have hsym := symsOfLen_getElem? lens hx hlen
  rw [hsplit, List.flatMap_append, List.getElem?_append_right (by rw [length_coded]; omega), length_coded,
    Nat.add_sub_cancel_left, hm, List.range'_succ, List.flatMap_cons, Nat.add_comm 1 k,
    List.getElem?_append_left (List.getElem?_eq_some_iff.1 hsym).1, hsym]

theorem numShorter_le_length (lens : List Byte) (l : Nat) : numShorter lens l ≤ lens.length := List.countP_le_length

theorem symOf_getElem? (lens : List Byte) {x l : Nat} (hx : x < lens.length) (hlen : (lens.getD x 0).toNat = l) (hl : 1 ≤ l)
    (hl16 : l ≤ 16) : (symOf lens lens.length)[numShorter lens l + numOfLen (lens.take x) l]? = some x := by
  have hcoded := coded_getElem? lens hx hlen hl hl16
  rw [symOf, List.getElem?_append_left (List.getElem?_eq_some_iff.1 hcoded).1, hcoded]

theorem symOf_getD (lens : List Byte) {x l : Nat} (hx : x < lens.length) (hlen : (lens.getD x 0).toNat = l) (hl : 1 ≤ l)
    (hl16 : l ≤ 16) : (symOf lens lens.length).getD (numShorter lens l + numOfLen (lens.take x) l) 0 = x := by
  rw [List.getD_eq_getElem?_getD, symOf_getElem? lens hx hlen hl hl16]
  rfl

theorem length_symOf (lens : List Byte) : (symOf lens lens.length).length = lens.length := by
  rw [symOf, List.length_append, List.length_replicate, length_coded, Nat.add_sub_cancel' (numShorter_le_length lens 17)]

/-- Beyond the coded symbols there are zeros. -/
theorem symOf_getD_beyond (lens : List Byte) {p : Nat} (hp : numShorter lens 17 ≤ p) : (symOf lens lens.length).getD p 0 = 0 := by
  rw [symOf, List.getD_append_right _ _ _ _ (by rwa [length_coded]), List.getD_eq_getElem?_getD, List.getElem?_replicate]
  split <;> rfl

/-! ### The table -/

/-- The table that the lengths build when they are not rejected (R142 to R146). -/
def HuffTable.canonical (lens : List Byte) : HuffTable :=
  let limit := limitOf (cntOf lens)
  let pos := posOf (cntOf lens)
  let sym := symOf lens lens.length
  let quick := quickOf limit pos sym lens.length
  { count := lens.length, len := lens, cnt := cntOf lens, limit := limit, pos := pos, sym := sym,
    fake := fakeOf lens lens.length, qlen := quick.map (·.2), qsym := quick.map (·.1), valid := true }

/-- Which lengths a build rejects (R143), and what it builds of the others. -/
theorem HuffTable.build_take (lengths : List Byte) {n : Nat} (hn : n ≤ lengths.length) :
    HuffTable.build lengths n = if kraft (lengths.take n) ≠ 65536 ∧ ∃ x ∈ lengths.take n, 16 < x.toNat then none
      else some (.canonical (lengths.take n)) := by
  obtain ⟨lens, hlens⟩ : ∃ lens, lens = lengths.take n := ⟨_, rfl⟩
  have hlen : lens.length = n := by rw [hlens, List.length_take_of_le hn]
  unfold HuffTable.build HuffTable.canonical
  dsimp only
  rw [← hlens, hlen, limitOf_getD lens (Nat.le_refl 16), kraft_eq_codeSpace]
  refine if_congr (and_congr_right' ?_) rfl rfl
  simp only [List.any_eq_true, decide_eq_true_eq]
  rfl

theorem HuffTable.eq_canonical {lens : List Byte} {t : HuffTable} (h : HuffTable.build lens lens.length = some t) :
    t = .canonical lens := by
  rw [HuffTable.build_take lens (Nat.le_refl _), List.take_length] at h
  split at h <;> cases h
  rfl

end Sys2Proof.Machine
end

section
/-! PROOFS. What a canonical table finds for a probe (spec/41_huffman.md R145, R147, R148, R150, R152): the length whose part of the code
space holds the probe, the symbol of that code word, and the same through the quick table. -/

namespace Sys2Proof.Machine

/-! ### The scan (R147) -/

/-- The scan finds the length whose part of the code space holds the probe. -/
theorem scanLen_eq_some (lens : List Byte) {v l : Nat} : scanLen (limitOf (cntOf lens)) v = some l ↔
    (1 ≤ l ∧ l ≤ 16) ∧ codeSpace lens (l - 1) ≤ v ∧ v < codeSpace lens l := by
  rw [scanLen, List.find?_range'_eq_some, List.mem_range'_1]
  simp only [decide_eq_true_eq, Bool.not_eq_true', decide_eq_false_iff_not, Nat.not_lt]
  constructor
  · rintro ⟨hv, hl, hmin⟩
    rw [limitOf_getD lens (by omega)] at hv
    refine ⟨by omega, ?_, hv⟩
    by_cases h1 : l = 1
    · rw [h1, codeSpace_zero]
      exact Nat.zero_le v
    · have hlast := hmin (l - 1) (by omega) (by omega)
      rwa [limitOf_getD lens (by omega)] at hlast
  · rintro ⟨hl, hlow, hv⟩
    rw [limitOf_getD lens hl.2]
    refine ⟨hv, by omega, fun j _ hj => ?_⟩
    rw [limitOf_getD lens (by omega)]
    exact (codeSpace_mono lens (by omega)).trans hlow

/-- The scan finds no length above the code space. -/
theorem codeSpace_le_of_scanLen_none {lens : List Byte} {v : Nat} (h : scanLen (limitOf (cntOf lens)) v = none) :
    codeSpace lens 16 ≤ v := by
  rw [← limitOf_getD lens (Nat.le_refl 16)]
  simpa using List.find?_eq_none.1 h 16 (by simp)

/-- The length that is consumed (R147, R148). -/
theorem scanLen_getD_range (lens : List Byte) (v : Nat) :
    1 ≤ (scanLen (limitOf (cntOf lens)) v).getD 16 ∧ (scanLen (limitOf (cntOf lens)) v).getD 16 ≤ 16 := by
  cases h : scanLen (limitOf (cntOf lens)) v with
  | none => decide
  | some l => exact ((scanLen_eq_some lens).1 h).1

/-- Where a code word of length `l` stands in `SYM` (R147). -/
theorem scan_place (lens : List Byte) {l : Nat} (hl : 1 ≤ l) (hl16 : l ≤ 16) (v : Nat) :
    (v - (limitOf (cntOf lens)).getD (l - 1) 0) / 2 ^ (16 - l) = v / 2 ^ (16 - l) - firstCode lens l := by
  rw [limitOf_getD lens (by omega), codeSpace_pred_eq lens hl hl16, Nat.mul_comm, Nat.sub_mul_div]

/-- What the scan finds, through the code's own numbers. -/
theorem HuffTable.scan_canonical (lens : List Byte) (v : Nat) : (HuffTable.canonical lens).scan v =
    let l := (scanLen (limitOf (cntOf lens)) v).getD 16
    let p := numShorter lens l + (v / 2 ^ (16 - l) - firstCode lens l)
    ⟨if p < lens.length then (symOf lens lens.length).getD p 0 else 0, l, (scanLen (limitOf (cntOf lens)) v).isNone⟩ := by
  obtain ⟨hl, hl16⟩ := scanLen_getD_range lens v
  dsimp only
  rw [← posOf_getD lens hl hl16, ← scan_place lens hl hl16]
  rfl

theorem HuffTable.scan_canonical_of_some {lens : List Byte} {v l : Nat} (h : scanLen (limitOf (cntOf lens)) v = some l) :
    (HuffTable.canonical lens).scan v =
      let p := numShorter lens l + (v / 2 ^ (16 - l) - firstCode lens l)
      ⟨if p < lens.length then (symOf lens lens.length).getD p 0 else 0, l, false⟩ := by
  rw [HuffTable.scan_canonical, h]
  rfl

/-- A position beyond the coded symbols is clamped (R148). -/
theorem HuffTable.scan_canonical_of_none {lens : List Byte} {v : Nat} (h : scanLen (limitOf (cntOf lens)) v = none) :
    (HuffTable.canonical lens).scan v = ⟨0, 16, true⟩ := by
  have hbeyond : numShorter lens 17 ≤ numShorter lens 16 + (v / 2 ^ (16 - 16) - firstCode lens 16) := by
    have hv := codeSpace_le_of_scanLen_none h
    rw [codeSpace_eq lens (by decide) (Nat.le_refl 16)] at hv
    rw [numShorter_succ lens (by decide)]
    omega
  rw [HuffTable.scan_canonical, h]
  dsimp only [Option.getD_none, Option.isNone_none]
  rw [symOf_getD_beyond lens hbeyond, ite_self]

/-! ### The quick table (R145, R150) -/

/-- An entry of the quick table is what the scan finds for the first probe of its index, if of at most 10 bits (R145). -/
theorem HuffTable.quick_canonical (lens : List Byte) {q : Nat} (hq : q < 1024) :
    ((HuffTable.canonical lens).qsym.getD q 0, (HuffTable.canonical lens).qlen.getD q 0) =
      let f := (HuffTable.canonical lens).scan (q * 64)
      if f.clamp = false ∧ f.len ≤ 10 then (f.sym, f.len) else (0, 0) := by
  have hq' : q < 2 ^ Config.quickBits := hq
  simp only [HuffTable.canonical, HuffTable.scan, quickOf, List.getD_eq_getElem?_getD, List.getElem?_map,
    List.getElem?_range hq', Option.map_some, Option.getD_some, Bool.and_eq_true, Bool.not_eq_true', decide_eq_true_eq]
  rfl

/-- The index of a probe is its first 10 bits. -/
theorem HuffTable.lookup_eq (t : HuffTable) (v : Nat) : t.lookup v =
    if t.qlen.getD (v / 64) 0 ≠ 0 then ⟨t.qsym.getD (v / 64) 0, t.qlen.getD (v / 64) 0, false⟩ else t.scan v := rfl

/-- A lookup through an entry that holds a finding `f` of at most 10 bits, or nothing. -/
theorem HuffTable.lookup_of_quick {t : HuffTable} {v : Nat} {f : Found}
    (h : (t.qsym.getD (v / 64) 0, t.qlen.getD (v / 64) 0) = if f.clamp = false ∧ f.len ≤ 10 then (f.sym, f.len) else (0, 0)) :
    t.lookup v = if f.len ≠ 0 ∧ f.clamp = false ∧ f.len ≤ 10 then f else t.scan v := by
  rw [HuffTable.lookup_eq]
  by_cases hhit : f.clamp = false ∧ f.len ≤ 10
  · obtain ⟨hsym, hlen⟩ := Prod.mk.inj (h.trans (if_pos hhit))
    rw [hsym, hlen]
    exact ite_congr (by simp [hhit]) (fun _ => by rw [← hhit.1]) fun _ => rfl
  · obtain ⟨-, hlen⟩ := Prod.mk.inj (h.trans (if_neg hhit))
    rw [hlen, if_neg (fun h => h rfl), if_neg fun h => hhit h.2]

/-- The code space of a length of at most 10 ends between two indices of the quick table. -/
theorem lt_codeSpace_iff (lens : List Byte) {k : Nat} (hk : k ≤ 10) (v : Nat) :
    v / 64 * 64 < codeSpace lens k ↔ v < codeSpace lens k := by
  have hdvd : 64 ∣ codeSpace lens k := by
    obtain rfl | hk1 := Nat.eq_zero_or_pos k
    · rw [codeSpace_zero]
      exact dvd_zero 64
    · rw [codeSpace_eq lens hk1 (by omega)]
      exact Dvd.dvd.mul_left (pow_dvd_pow 2 (by omega : 6 ≤ 16 - k)) _
  omega

/-- All probes of an index have the same first `l` bits, `l` at most 10. -/
theorem index_div (v : Nat) {l : Nat} (hl : l ≤ 10) : v / 64 * 64 / 2 ^ (16 - l) = v / 2 ^ (16 - l) := by
  have hpow : 2 ^ (16 - l) = 64 * 2 ^ (10 - l) := by
    rw [show 16 - l = 6 + (10 - l) by omega, pow_add]
    rfl
  rw [hpow, ← Nat.div_div_eq_div_mul, Nat.mul_div_cancel _ (by decide), Nat.div_div_eq_div_mul]

/-- A short code word that the first probe of an index finds is the one every probe of the index finds. -/
theorem HuffTable.scan_index {lens : List Byte} {v : Nat}
    (hclamp : ((HuffTable.canonical lens).scan (v / 64 * 64)).clamp = false)
    (hlen : ((HuffTable.canonical lens).scan (v / 64 * 64)).len ≤ 10) :
    (HuffTable.canonical lens).scan (v / 64 * 64) = (HuffTable.canonical lens).scan v := by
  cases h : scanLen (limitOf (cntOf lens)) (v / 64 * 64) with
  | none =>
    rw [HuffTable.scan_canonical_of_none h] at hclamp
    cases hclamp
  | some l =>
    rw [HuffTable.scan_canonical_of_some h] at hlen
    have hl10 : l ≤ 10 := hlen
    have hv : scanLen (limitOf (cntOf lens)) v = some l := by
      rw [scanLen_eq_some] at h ⊢
      obtain ⟨hl, hlow, hhigh⟩ := h
      exact ⟨hl, hlow.trans (Nat.div_mul_le_self v 64), (lt_codeSpace_iff lens hl10 v).1 hhigh⟩
    rw [HuffTable.scan_canonical_of_some h, HuffTable.scan_canonical_of_some hv, index_div v hl10]

theorem HuffTable.lookup_eq_scan (lens : List Byte) {v : Nat} (hv : v < 65536) :
    (HuffTable.canonical lens).lookup v = (HuffTable.canonical lens).scan v := by
  rw [HuffTable.lookup_of_quick (HuffTable.quick_canonical lens (by omega))]
  split
  next h => exact HuffTable.scan_index h.2.1 h.2.2
  next => rfl

/-- Settles O15: a hit answers for the first probe of the index, and no short code word ends within an index. -/
theorem quickTableAgreesWithTheScan : Obligations.QuickTableAgreesWithTheScan := by
  intro lens table v hbuild hv
  rw [HuffTable.eq_canonical hbuild]
  exact HuffTable.lookup_eq_scan lens hv

/-! ### Code words (R140, R152) -/

theorem codeWord_eq (lens : List Byte) {x l : Nat} (hl : (lens.getD x 0).toNat = l) :
    codeWord lens x = firstCode lens l + numOfLen (lens.take x) l := by
  subst hl
  rw [codeWord, numOfLen]
  refine congrArg _ (List.countP_congr fun y _ => ?_)
  rw [beq_iff_eq, decide_eq_true_eq, BitVec.toNat_inj]

/-- A symbol of a length counts among those of that length, after the smaller ones. -/
theorem numOfLen_take_lt {lens : List Byte} {x l : Nat} (hx : x < lens.length) (hl : (lens.getD x 0).toNat = l) :
    numOfLen (lens.take x) l < numOfLen lens l := by
  have hsym := (List.getElem?_eq_some_iff.1 (symsOfLen_getElem? lens hx hl)).1
  rwa [length_symsOfLen lens (Nat.le_refl _), List.take_length] at hsym

/-- The scan undoes the code: a probe that begins with a symbol's code word gives the symbol. -/
theorem HuffTable.scan_codeWord {lens : List Byte} {x l v : Nat} (hx : x < lens.length) (hlen : (lens.getD x 0).toNat = l)
    (hl : 1 ≤ l) (hl16 : l ≤ 16) (hv : v / 2 ^ (16 - l) = codeWord lens x) :
    (HuffTable.canonical lens).scan v = ⟨x, l, false⟩ := by
  rw [codeWord_eq lens hlen] at hv
  have hpow : 0 < 2 ^ (16 - l) := Nat.two_pow_pos _
  have hfound : scanLen (limitOf (cntOf lens)) v = some l := by
    refine (scanLen_eq_some lens).2 ⟨⟨hl, hl16⟩, ?_, ?_⟩
    · rw [codeSpace_pred_eq lens hl hl16, ← Nat.le_div_iff_mul_le hpow, hv]
      exact Nat.le_add_right _ _
    · rw [codeSpace_eq lens hl hl16, ← Nat.div_lt_iff_lt_mul hpow, hv]
      exact Nat.add_lt_add_left (numOfLen_take_lt hx hlen) _
  have hplace := (List.getElem?_eq_some_iff.1 (symOf_getElem? lens hx hlen hl hl16)).1
  rw [length_symOf] at hplace
  rw [HuffTable.scan_canonical_of_some hfound, hv, Nat.add_sub_cancel_left]
  dsimp only
  rw [if_pos hplace, symOf_getD lens hx hlen hl hl16]

/-- Settles O16: the scan finds the code word, and the quick table answers as the scan does. -/
theorem canonicalCodeWordsDecode : Obligations.CanonicalCodeWordsDecode := by
  intro lens table x l v hbuild _ hx hlen hl hl16 hv hword
  rw [HuffTable.eq_canonical hbuild, HuffTable.lookup_eq_scan lens hv]
  exact HuffTable.scan_codeWord hx hlen hl hl16 hword

end Sys2Proof.Machine
end

section
/-! PROOFS. The Huffman table commands (spec/41_huffman.md R153, R156, R157): what is staged, what is built and which tables stay, and one
decode from a built table. -/

namespace Sys2Proof.Machine

/-! ### The tables by id -/

theorem Tables.byId_setById_same (t : Tables) (x : HuffTable) {id : Nat} (hid : id ≤ 6) : (t.setById id x).byId id = x := by
  match id with
  | 0 | 1 | 2 => rfl
  | n + 3 =>
    have hn : n < 4 := by omega
    simp [Tables.setById, Tables.byId, hn]

theorem Tables.byId_setById_ne (t : Tables) (x : HuffTable) {id j : Nat} (hne : j ≠ id) : (t.setById id x).byId j = t.byId j := by
  match id, j with
  | 0, 0 | 1, 1 | 2, 2 => exact absurd rfl hne
  | 0, 1 | 0, 2 | 0, _ + 3 | 1, 0 | 1, 2 | 1, _ + 3 | 2, 0 | 2, 1 | 2, _ + 3 | _ + 3, 0 | _ + 3, 1 | _ + 3, 2 => rfl
  | n + 3, m + 3 =>
    have hnm : n ≠ m := by omega
    simp [Tables.setById, Tables.byId, hnm]

theorem Tables.setById_frame (t : Tables) (id : Nat) (x : HuffTable) : (t.setById id x).tablesValid = t.tablesValid ∧
    (t.setById id x).audioValid = t.audioValid ∧ (t.setById id x).lenbuf = t.lenbuf := by
  match id with
  | 0 | 1 | 2 | n + 3 => exact ⟨rfl, rfl, rfl⟩

theorem tableCapacity_eq {id : Nat} (hid : id ≤ 6) : tableCapacity id = [291, 48, 28, 257, 257, 257, 257].getD id 0 := by
  decide +revert

/-! ### Staging and building (R153, R156) -/

theorem Vector.setIfInBounds_eq_set {α : Type} {n : Nat} (v : Vector α n) {i : Nat} (hi : i < n) (x : α) :
    v.setIfInBounds i x = v.set i x :=
  Vector.ext fun j hj => by rw [Vector.getElem_setIfInBounds, Vector.getElem_set]

section
variable {s : State} (hi : s.isIdle = true)
include hi

theorem exec_hufSetlen_idle (x : Fin 1028) (l : Byte) : exec (.hufSetlen (BitVec.ofNat 32 x.val) (l.setWidth 32)) s =
    .next (s.accept.setTabs { s.tabs with lenbuf := s.tabs.lenbuf.set x.val l }) := by
  have hx : (BitVec.ofNat 32 x.val).toNat = x.val := Nat.mod_eq_of_lt (by omega)
  have hl : (l.setWidth 32).toNat = l.toNat := BitVec.toNat_setWidth_of_le (by decide)
  have hback : (l.setWidth 32).setWidth 8 = l := by simp
  show execHufSetlen _ _ s = _
  rw [execHufSetlen, hx, hl, hback, ← Vector.setIfInBounds_eq_set]
  refine idleCommand_accept _ s _ hi ?_
  rw [Bool.and_eq_true, decide_eq_true_eq, decide_eq_true_eq]
  exact ⟨x.isLt, Nat.le_of_lt_succ l.isLt⟩

theorem exec_hufBuild_idle {id n : Word} (hid : id.toNat ≤ 6) (hn : 1 ≤ n.toNat) (hcap : n.toNat ≤ tableCapacity id.toNat) :
    exec (.hufBuild id n) s = .next ((s.accept.setTabs (s.tabs.setById id.toNat (.built s.tabs.lenbuf.toList n.toNat))).setResult
      (bitWord (HuffTable.built s.tabs.lenbuf.toList n.toNat).valid)) := by
  have hne : n ≠ 0 := fun h0 => by simp [h0] at hn
  show execHufBuild id n s = _
  rw [execHufBuild]
  exact idleCommand_accept _ s _ hi (by simpa [hid, hcap] using hne)

end

/-- A table holds at most as many lengths as the stage. -/
theorem tableCapacity_le (id : Nat) : tableCapacity id ≤ Config.lenbufSize := by
  unfold tableCapacity
  split <;> decide

/-- What `HUF.BUILD` makes of the staged lengths: a table that is not valid, or the canonical one. -/
theorem HuffTable.built_take {lengths : List Byte} {n : Nat} (hn : n ≤ lengths.length) :
    HuffTable.built lengths n = if kraft (lengths.take n) ≠ 65536 ∧ ∃ x ∈ lengths.take n, 16 < x.toNat then .invalid
      else .canonical (lengths.take n) := by
  rw [HuffTable.built, HuffTable.build_take lengths hn]
  split <;> rfl

/-- Settles O13: the arrays of the canonical table are the numbers of R142 and R144, and putting a table leaves the others. -/
theorem stagedLengthsBuildATable : Obligations.StagedLengthsBuildATable := by
  intro s hi
  refine ⟨exec_hufSetlen_idle hi, ?_⟩
  intro id n hid hn hcap lens rejected
  rw [← tableCapacity_eq hid] at hcap
  have hstage : n.toNat ≤ s.tabs.lenbuf.toList.length := by
    rw [Vector.length_toList]
    exact hcap.trans (tableCapacity_le _)
  have hlen : lens.length = n.toNat := List.length_take_of_le hstage
  obtain ⟨htv, hav, hlb⟩ := s.tabs.setById_frame id.toNat (.built s.tabs.lenbuf.toList n.toNat)
  refine ⟨_, exec_hufBuild_idle hi hid hn hcap, fun hrej => ?_, fun hacc => ?_,
    fun j _ hj => Tables.byId_setById_ne _ _ hj, htv, hav, hlb, rfl⟩
  all_goals rw [State.setResult_tabs, State.setTabs_tabs, Tables.byId_setById_same _ _ hid]
  · have hbuilt : HuffTable.built s.tabs.lenbuf.toList n.toNat = .invalid :=
      (HuffTable.built_take hstage).trans (if_pos hrej)
    rw [hbuilt]
    exact ⟨rfl, rfl⟩
  · have hbuilt : HuffTable.built s.tabs.lenbuf.toList n.toNat = .canonical lens :=
      (HuffTable.built_take hstage).trans (if_neg hacc)
    have hbuild : HuffTable.build lens lens.length = some (.canonical lens) := by
      rw [HuffTable.build_take lens (Nat.le_refl _), List.take_length]
      exact if_neg hacc
    rw [hbuilt, ← hlen]
    exact ⟨rfl, hbuild, rfl, rfl, rfl, fun l hl hl16 => ⟨cntOf_getD lens hl hl16, posOf_getD lens hl hl16,
      limitOf_getD_pred lens hl hl16⟩, (limitOf_getD lens (Nat.zero_le 16)).trans (codeSpace_zero lens),
      fun x hx l hxl hl hl16 => symOf_getD lens hx hxl hl hl16⟩

/-! ### Decoding (R157) -/

theorem Cursor.look_lt (c : Cursor) (n : Nat) : c.look n < 2 ^ n := by
  simpa [Cursor.look] using c.bitsFrom_lt (8 * c.rd + c.bit.val) n 0

/-- Noting `CLAMP` sets bit 1 of `EVENTS` (R148, spec/10_state.md R44). -/
theorem State.noteIf_clamp (s : State) (b : Bool) :
    s.noteIf b .clamp = s.setSt { s.st with events := if b then s.st.events ||| 2 else s.st.events } := by
  cases b <;> rfl

section
variable {s : State} (hi : s.isIdle = true) {id : Word} (hid : id.toNat ≤ 6) (hvalid : (s.tabs.byId id.toNat).valid = true)
include hi hid hvalid

/-- `HUF.DECODE` gives what `decode` gives, and notes `CLAMP` if that is due. -/
theorem exec_hufDecode_idle {x : Nat} {clamp : Bool} {c : Cursor}
    (h : (s.tabs.byId id.toNat).decode (tableCapacity id.toNat) s.cur = .ok (x, clamp) c) :
    exec (.hufDecode id) s = .next { s with
      st := { s.st with
        cmdErr := false, result := BitVec.ofNat 32 x, events := if clamp then s.st.events ||| 2 else s.st.events },
      cur := c } := by
  have hdecode : decodeTable (s.tabs.byId id.toNat) (tableCapacity id.toNat) s.accept =
      .ok x ((s.accept.setCur c).noteIf clamp .clamp) := bind_of_ok (onCur_of_ok (s := s.accept) h)
  have hexec : exec (.hufDecode id) s = .next (((s.accept.setCur c).noteIf clamp .clamp).setResult (BitVec.ofNat 32 x)) :=
    portCommand_some hi (by rw [decide_eq_true hid, hvalid]; rfl) (bind_of_ok hdecode)
  rw [hexec, State.noteIf_clamp]
  rfl

end

/-- A decode of a valid table that looks at the stream. -/
theorem HuffTable.decode_of_refill {t : HuffTable} (hfake : t.fake = none) (hvalid : t.valid = true) (n : Nat) {c e : Cursor}
    (h : refill c = .ok () e) : t.decode n c =
      .ok ((t.lookup (e.look 16)).sym, (t.lookup (e.look 16)).clamp) (e.consume (t.lookup (e.look 16)).len) := by
  rw [HuffTable.decode_eq, hfake, h]
  simp only [hvalid, if_true]

/-- One decode from a canonical table of several symbols: what the scan finds for the next 16 bits of the stream. -/
theorem HuffTable.decode_canonical {lens : List Byte} (hfake : (HuffTable.canonical lens).fake = none) (n : Nat) {c : Cursor}
    (hready : c.ready = true) : ∃ d,
      let f := (HuffTable.canonical lens).scan (c.streamNat 0 16)
      (HuffTable.canonical lens).decode n c = .ok (f.sym, f.clamp) d ∧ c.Ahead f.len d := by
  obtain ⟨e, hrefill⟩ := refill_succeeds hready
  obtain ⟨hahead, hfill⟩ := refill_ahead hrefill
  have hlook : e.look 16 = c.streamNat 0 16 := by
    rw [e.look_of_filled hfill (by decide), Cursor.streamNat, hahead.streamBits]
    rfl
  have hfound : (HuffTable.canonical lens).lookup (e.look 16) = (HuffTable.canonical lens).scan (c.streamNat 0 16) := by
    rw [HuffTable.lookup_eq_scan lens (e.look_lt 16), hlook]
  refine ⟨_, ?_, hahead.of_zero (e.consume_ahead _)⟩
  rw [HuffTable.decode_of_refill hfake rfl n hrefill, hfound]

/-- The scan consumes 1 to 16 bits, and a clamped position is symbol 0 of 16 bits (R147, R148). -/
theorem HuffTable.scan_canonical_range (lens : List Byte) (v : Nat) :
    let f := (HuffTable.canonical lens).scan v
    1 ≤ f.len ∧ f.len ≤ 16 ∧ (f.clamp = true → f.sym = 0 ∧ f.len = 16) := by
  dsimp only
  cases h : scanLen (limitOf (cntOf lens)) v with
  | none =>
    rw [HuffTable.scan_canonical_of_none h]
    exact ⟨by decide, by decide, fun _ => ⟨rfl, rfl⟩⟩
  | some l =>
    obtain ⟨⟨hl, hl16⟩, -⟩ := (scanLen_eq_some lens).1 h
    rw [HuffTable.scan_canonical_of_some h]
    exact ⟨hl, hl16, fun hclamp => nomatch hclamp⟩

/-- Settles O14: a lone symbol is given without a look at the stream; else the decode is one refill and one scan. -/
theorem hufDecodeReadsOneSymbol : Obligations.HufDecodeReadsOneSymbol := by
  intro s id lens hi hid hready hvalid hbuild table
  have htable : table = .canonical lens := HuffTable.eq_canonical hbuild
  refine ⟨fun x l hfake => ?_, fun hfake => ?_⟩
  · have hdecode : table.decode (tableCapacity id.toNat) s.cur = .ok (x, false) (s.cur.consume l) := by
      rw [HuffTable.decode_eq, hfake]
    exact exec_hufDecode_idle hi hid hvalid hdecode
  · rw [htable] at hfake
    obtain ⟨d, hdecode, hahead⟩ := HuffTable.decode_canonical hfake (tableCapacity id.toNat) hready
    obtain ⟨hl, hl16, hclamp⟩ := HuffTable.scan_canonical_range lens (s.cur.streamNat 0 16)
    rw [← htable] at hdecode hahead hl hl16 hclamp
    exact ⟨_, exec_hufDecode_idle hi hid hvalid hdecode, hl, hl16, hahead.bitpos, hahead.stream, hclamp, rfl⟩

end Sys2Proof.Machine
end

section
/-! PROOFS. What a copy leaves in the window (spec/42_window.md R163, R165 to R167, spec/70_reset_and_hazards.md R441): the last bytes
over and over, or zeros; every byte it does not reach stays. -/

namespace Sys2Proof.Machine

/-! ### Reading by offset -/

theorem Window.byteAt_congr {x : Window} {a c : Nat} (h : a % x.w = c % x.w) : x.byteAt a = x.byteAt c := by
  rw [Window.byteAt, Window.byteAt, h]

/-- A `put` on a sound window changes what is read at the offset `TW`. -/
theorem Window.byteAt_put {x : Window} (h : x.Sound) (b : Byte) (a : Nat) :
    (x.put b).byteAt a = if a % x.w = x.tw % x.w then b else x.byteAt a := by
  have hrising : Sparse.rising x.mem = true := (Bool.and_eq_true_iff.1 h.canonical).1
  rw [← h.pos]
  exact x.read_put b _ hrising

/-! ### When a copy is zero-filled (R166, R167) -/

theorem Window.tw_lt_of_first_pass {x : Window} (h : x.Sound) (hw : x.w ≠ 0) (hfirst : x.first = false) : x.tw < x.w :=
  Nat.lt_of_not_le fun hle => Bool.false_ne_true (hfirst.symm.trans ((h.first hw).2 hle))

theorem Window.zeroFill_first_pass {x : Window} (h : x.Sound) (hw : x.w ≠ 0) (hfirst : x.first = false) (d : Nat) :
    x.zeroFill d = true ↔ d = 0 ∨ x.tw < d := by
  have hpos : x.pos = x.tw := h.pos.trans (Nat.mod_eq_of_lt (tw_lt_of_first_pass h hw hfirst))
  simp [Window.zeroFill, hfirst, hpos, or_comm]

theorem Window.zeroFill_later_pass {x : Window} (h : x.Sound) (hw : x.w ≠ 0) (hfirst : x.first = true) (d : Nat) :
    x.zeroFill d = true ↔ x.w < d := by
  have hpos : x.pos < x.w := h.pos ▸ Nat.mod_lt _ (Nat.pos_of_ne_zero hw)
  simp only [Window.zeroFill, hfirst, Bool.not_true, Bool.or_false, Bool.and_false, Bool.and_eq_true, decide_eq_true_eq]
  omega

/-- A copy that is not zero-filled reaches back no more than the whole window. -/
theorem Window.le_of_not_zeroFill {x : Window} (h : x.Sound) (hw : x.w ≠ 0) {d : Nat} (hz : ¬ x.zeroFill d = true) : d ≤ x.w := by
  cases hfirst : x.first with
  | true => exact Nat.le_of_not_lt fun hlt => hz ((zeroFill_later_pass h hw hfirst d).2 hlt)
  | false =>
    have htw := tw_lt_of_first_pass h hw hfirst
    have hd : ¬ x.tw < d := fun hlt => hz ((zeroFill_first_pass h hw hfirst d).2 (.inr hlt))
    omega

/-! ### The bytes of a copy -/

/-- How far before the write position a copy of distance `d` reads: `d`, or the whole window for 0 (R167). -/
def Window.period (x : Window) (d : Nat) : Nat := if d = 0 then x.w else d

theorem Window.period_pos {x : Window} (hw : x.w ≠ 0) (d : Nat) : 0 < x.period d := by
  unfold Window.period
  split <;> omega

theorem Window.period_le {x : Window} {d : Nat} (hd : d ≤ x.w) : x.period d ≤ x.w := by
  unfold Window.period
  split <;> omega

/-- The byte a copy reads is the one a period before the write position. -/
theorem Window.byteAt_back {x : Window} (h : x.Sound) {d : Nat} (hd : d ≤ x.w) :
    x.byteAt (x.back d) = x.byteAt (x.tw + x.w - x.period d) := by
  have hback : x.back d = (x.tw + x.w - x.period d) % x.w := by
    by_cases hmod : d % x.w = 0
    · have hperiod : x.period d = x.w := by
        unfold Window.period
        split
        · rfl
        · exact Nat.le_antisymm hd (Nat.le_of_dvd (by omega) (Nat.dvd_of_mod_eq_zero hmod))
      rw [Window.back, h.pos, hmod, hperiod, Nat.sub_zero, Nat.add_mod_right, Nat.mod_mod, Nat.add_sub_cancel]
    · have hlt : d < x.w := Nat.lt_of_le_of_ne hd fun heq => hmod (heq ▸ Nat.mod_self d)
      have hperiod : x.period d = d := if_neg fun h0 => hmod (by rw [h0, Nat.zero_mod])
      rw [Window.back, h.pos, Nat.mod_eq_of_lt hlt, hperiod, Nat.add_sub_assoc hd, Nat.add_sub_assoc hd, Nat.mod_add_mod]
  exact byteAt_congr (by rw [hback, Nat.mod_mod])

/-- A copying loop of one more step. -/
theorem Window.copySteps_succ (zero : Bool) (d n : Nat) (x : Window) : Window.copySteps zero d (n + 1) x =
    (Window.copySteps zero d n x).put (if zero then 0 else
      (Window.copySteps zero d n x).byteAt ((Window.copySteps zero d n x).back d)) := by
  induction n generalizing x with
  | zero => rfl
  | succ n ih => rw [Window.copySteps, ih, ← Window.copySteps]

section
variable {x : Window} (h : x.Sound) (hw : x.w ≠ 0) (d : Nat)
include h hw

/-- One more byte of a copy is put at the offset the copy has reached. -/
theorem Window.byteAt_copyMatch_succ (n a : Nat) : (x.copyMatch d (n + 1)).byteAt a =
    if a % x.w = (x.tw + n) % x.w then
      (if x.zeroFill d then 0 else (x.copyMatch d n).byteAt ((x.copyMatch d n).back d))
    else (x.copyMatch d n).byteAt a := by
  have hput := byteAt_put (copyMatch_sound d n h hw)
    (if x.zeroFill d then 0 else (x.copyMatch d n).byteAt ((x.copyMatch d n).back d)) a
  rw [copyMatch_w, copyMatch_tw] at hput
  rw [← hput, Window.copyMatch, copySteps_succ]
  rfl

/-- A copy leaves every byte it does not reach. -/
theorem Window.byteAt_copyMatch_ne {n a : Nat} (ha : ∀ k < n, a % x.w ≠ (x.tw + k) % x.w) :
    (x.copyMatch d n).byteAt a = x.byteAt a := by
  induction n with
  | zero => rfl
  | succ n ih =>
    rw [byteAt_copyMatch_succ h hw, if_neg (ha n n.lt_succ_self)]
    exact ih fun k hk => ha k (Nat.lt_succ_of_lt hk)

/-- A longer copy leaves the bytes of a shorter one. -/
theorem Window.byteAt_copyMatch_succ_of_lt {n k : Nat} (hn : n < x.w) (hk : k < n) :
    (x.copyMatch d (n + 1)).byteAt (x.tw + k) = (x.copyMatch d n).byteAt (x.tw + k) := by
  rw [byteAt_copyMatch_succ h hw, if_neg (mod_ne_of_lt_of_lt (by omega) (by omega))]

/-- The byte that a copy puts next (R165). -/
theorem Window.byteAt_copyMatch_last (n : Nat) : (x.copyMatch d (n + 1)).byteAt (x.tw + n) =
    if x.zeroFill d then 0 else (x.copyMatch d n).byteAt (x.tw + n + x.w - x.period d) := by
  rw [byteAt_copyMatch_succ h hw, if_pos rfl]
  by_cases hz : x.zeroFill d = true
  · rw [if_pos hz, if_pos hz]
  · have hd : d ≤ (x.copyMatch d n).w := copyMatch_w x d n ▸ le_of_not_zeroFill h hw hz
    have hback := byteAt_back (copyMatch_sound d n h hw) hd
    rw [if_neg hz, if_neg hz, hback, copyMatch_tw, Window.period, Window.period, copyMatch_w]

/-- Every byte of a copy, by induction on its length: the first period is read from the old window, and from then on the copy
reads its own bytes (R441). -/
theorem Window.byteAt_copyMatch {n k : Nat} (hn : n ≤ x.w) (hk : k < n) : (x.copyMatch d n).byteAt (x.tw + k) =
    if x.zeroFill d then 0 else x.byteAt (x.tw + x.w - x.period d + k % x.period d) := by
  induction n generalizing k with
  | zero => cases hk
  | succ n ih =>
    obtain hlt | rfl := Nat.lt_succ_iff_lt_or_eq.1 hk
    · rw [byteAt_copyMatch_succ_of_lt h hw d hn hlt, ih (by omega) hlt]
    rw [byteAt_copyMatch_last h hw]
    by_cases hz : x.zeroFill d = true
    · rw [if_pos hz, if_pos hz]
    have hpos := period_pos hw d
    have hle := period_le (le_of_not_zeroFill h hw hz)
    simp only [if_neg hz] at ih ⊢
    obtain hearly | hlate := Nat.lt_or_ge k (x.period d)
    · have hkept : ∀ j < k, (x.tw + k + x.w - x.period d) % x.w ≠ (x.tw + j) % x.w := fun j hj =>
        (mod_ne_of_lt_of_lt (by omega) (by omega)).symm
      rw [byteAt_copyMatch_ne h hw d hkept, Nat.mod_eq_of_lt hearly]
      congr 1
      omega
    · have hread : (x.copyMatch d k).byteAt (x.tw + k + x.w - x.period d) =
          (x.copyMatch d k).byteAt (x.tw + (k - x.period d)) := by
        refine byteAt_congr ?_
        rw [copyMatch_w, show x.tw + k + x.w - x.period d = x.tw + (k - x.period d) + x.w by omega, Nat.add_mod_right]
      rw [hread, ih (by omega) (by omega), Nat.mod_eq_sub_mod hlate]

end

/-- Settles O21, by induction on the length of the copy. -/
theorem copyRepeatsTheLastBytes : Obligations.CopyRepeatsTheLastBytes := by
  intro x d n h hw hn
  refine ⟨fun hfirst => x.zeroFill_first_pass h hw hfirst d, fun hfirst => x.zeroFill_later_pass h hw hfirst d,
    x.copyMatch_w d n, x.copyMatch_tf d n, x.copyMatch_tw d n, ?_,
    fun k hk => Window.byteAt_copyMatch h hw d hn hk, fun a ha => Window.byteAt_copyMatch_ne h hw d ha⟩
  have hpos := (Window.copyMatch_sound d n h hw).pos
  rwa [x.copyMatch_tw, x.copyMatch_w] at hpos

end Sys2Proof.Machine
end

section
/-! PROOFS. The history window commands (spec/42_window.md R172, R175 to R179): a new window, one byte, a copy, reading, and a flush with
no filter waiting (spec/48_session.md R366, R367). -/

namespace Sys2Proof.Machine

/-! ### A new window, reading it (R172, R177, R179) -/

/-- A power of two of at most `W_MAX` is a legal `WINSIZE` (R352). -/
theorem latchSize_two_pow {x : Word} {k : Nat} (hk : k ≤ 30) (hx : x.toNat = 2 ^ k) : latchSize x = some (max (2 ^ k) Config.wMin) := by
  have hpos : 2 ^ k ≠ 0 := (Nat.two_pow_pos k).ne'
  have hand : 2 ^ k &&& (2 ^ k - 1) = 0 := by rw [Nat.and_two_pow_sub_one_eq_mod, Nat.mod_self]
  have hmax : ¬ Config.wMax < 2 ^ k := Nat.not_lt.2 (Nat.pow_le_pow_right (by decide) hk)
  unfold latchSize
  dsimp only
  rw [hx, if_neg (by simp only [hpos, hand, hmax, not_true, ne_eq, or_self, not_false_iff])]

section
variable {s : State} (hi : s.isIdle = true)
include hi

theorem exec_winInit_idle {n : Nat} (hn : latchSize s.par.winsize = some n) : exec .winInit s =
    .next ((((s.accept.setWin (Window.fresh n)).setFq []).setSes { s.ses with fileStart := 0, targetL := s.par.target }).setSt
      { s.accept.st with written := 0 }) := by
  have haccept : execWinInit s = .next ((((s.accept.setWin (Window.fresh ((latchSize s.par.winsize).getD 0))).setFq []).setSes
      { s.ses with fileStart := 0, targetL := s.par.target }).setSt { s.accept.st with written := 0 }) :=
    idleCommand_accept _ s _ hi (by rw [hn]; rfl)
  rw [hn] at haccept
  exact haccept

theorem exec_winRead_idle (hw : s.win.w ≠ 0) (x : Word) :
    exec (.winRead x) s = .next (s.accept.setResult ((s.win.byteAt x.toNat).setWidth 32)) := by
  show execWinRead x s = _
  exact idleCommand_accept _ s _ hi (bne_iff_ne.2 hw)

theorem exec_winStat_idle (hw : s.win.w ≠ 0) : exec .winStat s =
    .next (s.accept.setResult (BitVec.ofNat 32 (s.win.pos + if s.win.first then 2 ^ 31 else 0))) := by
  show execWinStat s = _
  exact idleCommand_accept _ s _ hi (bne_iff_ne.2 hw)

end

/-- Settles O18: the three commands with their conditions met. -/
theorem windowInitReadStat : Obligations.WindowInitReadStat := fun _ hi =>
  ⟨fun _ hk hsize => exec_winInit_idle hi (latchSize_two_pow hk hsize), fun hw => exec_winRead_idle hi hw,
    fun hw => exec_winStat_idle hi hw⟩

/-! ### Writing (R175, R176) -/

theorem Window.hasRoom_of_le {x : Window} {n : Nat} (hw : x.w ≠ 0) (hroom : x.tw - x.tf + n ≤ x.w) : x.hasRoom n = true :=
  Bool.and_eq_true_iff.2 ⟨bne_iff_ne.2 hw, decide_eq_true hroom⟩

/-- `FIRST` is set when `POS` comes back to 0 (R163). -/
theorem Window.put_first (x : Window) (b : Byte) : (x.put b).first = true ↔ x.first = true ∨ (x.put b).pos = 0 := by
  simp [Window.put]

/-- Noting `ZEROFILL` sets bit 0 of `EVENTS` (R166, spec/10_state.md R44). -/
theorem State.noteIf_zerofill (s : State) (b : Bool) :
    s.noteIf b .zerofill = s.setSt { s.st with events := if b then s.st.events ||| 1 else s.st.events } := by
  cases b <;> rfl

section
variable {s : State} (hi : s.isIdle = true) (hw : s.win.w ≠ 0)
include hi hw

theorem exec_winPut_idle (b : Byte) (hroom : s.win.tw - s.win.tf + 1 ≤ s.win.w) :
    exec (.winPut (b.setWidth 32)) s = .next (s.accept.put b) := by
  have hbyte : (b.setWidth 32).toNat ≤ 255 := by
    rw [BitVec.toNat_setWidth_of_le (by decide)]
    exact Nat.le_of_lt_succ b.isLt
  have hback : (b.setWidth 32).setWidth 8 = b := by simp
  have haccept : execWinPut (b.setWidth 32) s = .next (s.accept.put ((b.setWidth 32).setWidth 8)) :=
    idleCommand_accept _ s _ hi (Bool.and_eq_true_iff.2 ⟨decide_eq_true hbyte, Window.hasRoom_of_le hw hroom⟩)
  rw [hback] at haccept
  exact haccept

theorem exec_winCopy_idle (d n : Word) (hroom : s.win.tw - s.win.tf + n.toNat ≤ s.win.w) :
    exec (.winCopy d n) s = .next (s.accept.copyMatch d.toNat n.toNat) := by
  show execWinCopy d n s = _
  exact idleCommand_accept _ s _ hi (Window.hasRoom_of_le hw hroom)

end

/-- Settles O19: the byte is put. -/
theorem winPutWritesOneByte : Obligations.WinPutWritesOneByte := by
  intro s b hi hwf hw hroom
  have hrising : Sparse.rising s.win.mem = true := (Bool.and_eq_true_iff.1 hwf).1
  have hread (a : Nat) : Memory.read (s.accept.put b).win.mem a = if a = s.win.pos then b else Memory.read s.win.mem a :=
    s.win.read_put b a hrising
  exact ⟨_, exec_winPut_idle hi hw b hroom, by rw [hread, if_pos rfl], fun a ha => by rw [hread, if_neg ha], rfl, rfl,
    s.win.put_first b, rfl, rfl, rfl⟩

/-- Settles O20: the copy is made, with its event. -/
theorem winCopyWritesLengthBytes : Obligations.WinCopyWritesLengthBytes := by
  intro s d n hi hw hroom
  refine ⟨_, exec_winCopy_idle hi hw d n hroom, State.copyMatch_win _ _ _, ?_, ?_⟩
  · rw [State.copyMatch_win]
    exact s.win.copyMatch_tw _ _
  · have hevent : (s.win.zeroFill d.toNat && n.toNat != 0) = true ↔ s.win.zeroFill d.toNat = true ∧ n ≠ 0 := by
      simp [← BitVec.toNat_inj]
    have hcopy : s.accept.copyMatch d.toNat n.toNat =
      (s.accept.setWin (s.win.copyMatch d.toNat n.toNat)).noteIf (s.win.zeroFill d.toNat && n.toNat != 0) .zerofill := rfl
    rw [hcopy, State.noteIf_zerofill, if_congr hevent rfl rfl]
    rfl

/-! ### Writing out with no filter waiting (R178, R366, R367) -/

/-- A port with no answer given beforehand accepts what is emitted. -/
theorem emit_accepts {s : State} (h : s.out.answers = []) (bytes : List Byte) : emit bytes s =
    .ok () ((s.setOut { s.out with bytes := s.out.bytes ++ s.fitting bytes }).setSt
      { s.st with written := s.st.written + (s.fitting bytes).length }) := by
  obtain ⟨hnone, he⟩ | ⟨ha, -⟩ | ⟨_, ha, -⟩ | he := emit_cases bytes s
  · rw [he, hnone, List.append_nil]
    rfl
  · cases h ▸ ha
  · cases h ▸ ha
  · have hdrop : s.out.answers.drop 1 = s.out.answers := by rw [h, List.drop_nil]
    rw [he, State.accepted, hdrop]

/-- A port that fails takes nothing of what there is to write (R398). -/
theorem emit_fails {s : State} {rest : List PortWrite} (h : s.out.answers = .error :: rest) {bytes : List Byte}
    (hne : s.fitting bytes ≠ []) : emit bytes s = .error (.fatal ⟨.writeFail, .none⟩) (s.setOut { s.out with answers := rest }) := by
  rw [emit, if_neg (mt List.isEmpty_iff.1 hne), h, List.head?_cons]
  simp [OutPort.broken, h]

theorem emitUpTo_of_ok {a : Nat} {s t : State} (h : emit (s.win.range s.win.tf (a - s.win.tf)) s = .ok () t) :
    emitUpTo a s = .ok () (t.setTf a) := (bind_of_ok rfl).trans ((bind_of_ok h).trans rfl)

theorem emitUpTo_of_error {a : Nat} {s t : State} {e : Halt} (h : emit (s.win.range s.win.tf (a - s.win.tf)) s = .error e t) :
    emitUpTo a s = .error e t := (bind_of_ok rfl).trans (bind_error h)

theorem flushLoop_no_filter {s : State} (hq : s.vm.fq = []) (final : Bool) (b fuel : Nat) :
    flushLoop final b fuel s = .ok true s := by
  cases fuel with
  | zero => rfl
  | succ fuel =>
    refine (bind_of_ok rfl).trans ?_
    rw [hq]
    rfl

/-- With no filter waiting a flush is one `emit` of the pending bytes. -/
theorem doFlush_no_filter {s : State} (hq : s.vm.fq = []) (final : Bool) : doFlush final s = emitUpTo s.win.tw s := by
  refine (bind_of_ok rfl).trans ((bind_of_ok (flushLoop_no_filter hq _ _ _)).trans ?_)
  rw [if_pos rfl]
  cases h : emitUpTo s.win.tw s with
  | error e t => exact bind_error h
  | ok r t =>
    have hqt : t.vm.fq = [] := emitUpTo_vm h ▸ hq
    refine (bind_of_ok h).trans ((bind_of_ok rfl).trans ?_)
    rw [hqt, List.isEmpty_nil, Bool.not_true, Bool.and_false]
    rfl

section
variable {s : State} (hi : s.isIdle = true) (hw : s.win.w ≠ 0)
include hi hw

theorem exec_winFlush_of_ok {t : State} (h : flush s.accept = .ok () t) : exec .winFlush s = .next t := by
  show execWinFlush s = _
  rw [execWinFlush, if_pos (Bool.and_eq_true_iff.2 ⟨hi, bne_iff_ne.2 hw⟩), h]

theorem exec_winFlush_of_fatal {t : State} {f : Fatal} (h : flush s.accept = .error (.fatal f) t) : exec .winFlush s =
    .next (((s.setTf t.win.tf).setSt { s.st with written := t.st.written }).setOut t.out).refuse := by
  show execWinFlush s = _
  rw [execWinFlush, if_pos (Bool.and_eq_true_iff.2 ⟨hi, bne_iff_ne.2 hw⟩), h]

end

/-- Settles O22: the flush is one `emit`, which the port accepts or fails. -/
theorem winFlushWritesThePendingBytes : Obligations.WinFlushWritesThePendingBytes := by
  intro s hi hw hq pending
  have hflush : flush s.accept = emitUpTo s.win.tw s.accept := doFlush_no_filter (s := s.accept) hq false
  refine ⟨fun ha => ?_, fun rest ha hne => ?_⟩
  · have hemit := emit_accepts (s := s.accept) ha (s.win.range s.win.tf (s.win.tw - s.win.tf))
    have hdone : flush s.accept = .ok () (State.setTf (.setSt (s.accept.setOut { s.out with bytes := s.out.bytes ++ pending })
        { s.accept.st with written := s.st.written + pending.length }) s.win.tw) :=
      hflush.trans (emitUpTo_of_ok hemit)
    exact exec_winFlush_of_ok hi hw hdone
  · have hemit := emit_fails (s := s.accept) ha (bytes := s.win.range s.win.tf (s.win.tw - s.win.tf)) hne
    have hfail : flush s.accept = .error (.fatal ⟨.writeFail, .none⟩) (s.accept.setOut { s.out with answers := rest }) :=
      hflush.trans (emitUpTo_of_error hemit)
    exact exec_winFlush_of_fatal hi hw hfail

end Sys2Proof.Machine
end

section
/-! PROOFS. The adaptive ranks of G1 (spec/43_tokens.md R225, R227, R228): raising one count and bubbling its symbol
forward keeps the order sorted by count. -/

namespace Sys2Proof.Machine

/-- Symbol `x` may stand before `y`: its count is not lower. -/
def Adaptive.Before (freq : List Byte) (x y : Nat) : Prop := Adaptive.count freq y ≤ Adaptive.count freq x

theorem Adaptive.sorted_iff (a : Adaptive) : a.sorted = true ↔ a.order.Pairwise (Adaptive.Before a.freq) := by
  rw [Adaptive.sorted, decide_eq_true_iff, List.pairwise_map]
  rfl

/-! ### The bubble loop -/

/-- One pass of the loop: symbol `x` and the symbol `y` before it. -/
theorem Adaptive.bubble_succ (freq : List Byte) (pre post : List Nat) (y x : Nat) :
    Adaptive.bubble freq (pre.length + 1) (pre ++ y :: x :: post) =
      if Adaptive.count freq y < Adaptive.count freq x then Adaptive.bubble freq pre.length (pre ++ x :: y :: post)
      else pre ++ y :: x :: post := by
  simp [Adaptive.bubble]

/-- The loop sorts an order in which only the symbol at the rank may have too high a count for its place. -/
theorem Adaptive.bubble_sorted {freq : List Byte} {x : Nat} {pre post : List Nat}
    (hrest : (pre ++ post).Pairwise (Adaptive.Before freq)) (hx : ∀ y ∈ post, Adaptive.Before freq x y) :
    (Adaptive.bubble freq pre.length (pre ++ x :: post)).Pairwise (Adaptive.Before freq) := by
  induction pre using List.reverseRecOn generalizing post with
  | nil => exact List.pairwise_cons.2 ⟨hx, hrest⟩
  | append_singleton pre y ih =>
    rw [List.length_append, List.length_singleton, List.append_assoc, List.singleton_append, Adaptive.bubble_succ]
    split
    next hlt =>
      rw [List.append_assoc, List.singleton_append] at hrest
      exact ih hrest (List.forall_mem_cons.2 ⟨hlt.le, hx⟩)
    next hge =>
      have hyx : Adaptive.Before freq y x := Nat.le_of_not_lt hge
      obtain ⟨hpre, hpost, hcross⟩ := List.pairwise_append.1 hrest
      obtain ⟨-, -, hy⟩ := List.pairwise_append.1 hpre
      have hbefore : ∀ z ∈ pre ++ [y], Adaptive.Before freq z x := fun z hz => by
        obtain hz | hz := List.mem_append.1 hz
        · exact hyx.trans (hy z hz y (List.mem_singleton_self y))
        · rwa [List.mem_singleton.1 hz]
      rw [← List.singleton_append, ← List.append_assoc]
      exact List.pairwise_append.2 ⟨hpre, List.pairwise_cons.2 ⟨hx, hpost⟩,
        fun z hz => List.forall_mem_cons.2 ⟨hbefore z hz, hcross z hz⟩⟩

/-! ### The counts -/

/-- The counts with room for one more of symbol `s`: all halved if its count is at its greatest (R228). -/
def Adaptive.roomed (a : Adaptive) (s : Nat) : List Byte :=
  if (a.freq.getD s 0).toNat = Config.freqMax then a.freq.map fun (x : Byte) => x >>> 1 else a.freq

/-- The counts with one more of symbol `s`. -/
def Adaptive.raised (freq : List Byte) (s : Nat) : List Byte := freq.set s (freq.getD s 0 + 1)

theorem Adaptive.adapt_eq (a : Adaptive) (r : Nat) : a.adapt r =
    (a.order.getD r 0, ⟨Adaptive.bubble (Adaptive.raised (a.roomed (a.order.getD r 0)) (a.order.getD r 0)) r a.order,
      Adaptive.raised (a.roomed (a.order.getD r 0)) (a.order.getD r 0)⟩) := rfl

theorem Adaptive.length_roomed (a : Adaptive) (s : Nat) : (a.roomed s).length = a.freq.length := by
  unfold Adaptive.roomed
  split
  · rw [List.length_map]
  · rfl

theorem Adaptive.count_map_half (freq : List Byte) (t : Nat) :
    Adaptive.count (freq.map fun (x : Byte) => x >>> 1) t = Adaptive.count freq t / 2 := by
  have hget : (freq.map fun (x : Byte) => x >>> 1).getD t 0 = freq.getD t 0 >>> 1 :=
    List.getD_map (f := fun (x : Byte) => x >>> 1) freq 0
  rw [Adaptive.count, hget, BitVec.toNat_ushiftRight, Nat.shiftRight_one, Adaptive.count]

/-- Halving all counts keeps their order. -/
theorem Adaptive.before_roomed {a : Adaptive} {x y : Nat} (h : Adaptive.Before a.freq x y) (s : Nat) :
    Adaptive.Before (a.roomed s) x y := by
  unfold Adaptive.roomed
  split
  · rw [Adaptive.Before, Adaptive.count_map_half, Adaptive.count_map_half]
    exact Nat.div_le_div_right h
  · exact h

theorem Adaptive.count_roomed_lt (a : Adaptive) (s : Nat) : Adaptive.count (a.roomed s) s < Config.freqMax := by
  unfold Adaptive.roomed
  split
  next h => rw [Adaptive.count_map_half, Adaptive.count, h]; decide
  next h => exact Nat.lt_of_le_of_ne (Nat.le_of_lt_succ (a.freq.getD s 0).isLt) h

theorem Adaptive.count_raised_self {freq : List Byte} {s : Nat} (hs : s < freq.length)
    (hlt : Adaptive.count freq s < Config.freqMax) :
    Adaptive.count (Adaptive.raised freq s) s = Adaptive.count freq s + 1 := by
  have hget : (Adaptive.raised freq s).getD s 0 = freq.getD s 0 + 1 := by simp [Adaptive.raised, hs]
  unfold Adaptive.count at hlt ⊢
  rw [hget, BitVec.toNat_add_of_lt]
  · rfl
  · exact Nat.succ_lt_succ hlt

theorem Adaptive.count_raised_ne {s t : Nat} (freq : List Byte) (h : t ≠ s) :
    Adaptive.count (Adaptive.raised freq s) t = Adaptive.count freq t := by
  simp [Adaptive.count, Adaptive.raised, List.getElem?_set_ne h.symm]

/-! ### One adaptation -/

/-- The symbol read, those before it and those behind it. -/
theorem Adaptive.Sound.split {a : Adaptive} {n r : Nat} (h : a.Sound n) (hr : r < n) :
    ∃ pre s post, a.order = pre ++ s :: post ∧ pre.length = r := by
  have hlen : r < a.order.length := by rwa [h.order.length_eq, List.length_range]
  refine ⟨a.order.take r, a.order[r], a.order.drop (r + 1), ?_, List.length_take_of_le hlen.le⟩
  rw [← List.drop_eq_getElem_cons hlen, List.take_append_drop]

/-- An adaptation keeps the order sorted: the other symbols keep their places among each other, and the one read has no
lower a count than those behind it. -/
theorem Adaptive.adapt_sorted {a : Adaptive} {n r : Nat} (h : a.Sound n) (hsorted : a.sorted = true) (hr : r < n) :
    (a.adapt r).2.sorted = true := by
  obtain ⟨pre, s, post, horder, rfl⟩ := h.split hr
  have hread : a.order.getD pre.length 0 = s := by simp [horder]
  have hnodup : (pre ++ s :: post).Nodup := horder ▸ h.order.nodup_iff.2 List.nodup_range
  have hother : ∀ t ∈ pre ++ post, t ≠ s := fun t ht hts => (List.nodup_cons.1 (List.nodup_middle.1 hnodup)).1 (hts ▸ ht)
  have hs : s < a.freq.length := by
    rw [h.freq]
    exact List.mem_range.1 (h.order.subset (horder ▸ List.mem_append_right pre List.mem_cons_self))
  rw [Adaptive.sorted_iff, horder] at hsorted
  rw [Adaptive.sorted_iff, Adaptive.adapt_eq, hread, horder]
  refine Adaptive.bubble_sorted ?_ fun y hy => ?_
  · have hrest : (pre ++ post).Pairwise (Adaptive.Before a.freq) :=
      hsorted.sublist ((List.sublist_cons_self s post).append_left pre)
    refine hrest.imp_of_mem fun hx hy hxy => ?_
    rw [Adaptive.Before, Adaptive.count_raised_ne _ (hother _ hx), Adaptive.count_raised_ne _ (hother _ hy)]
    exact Adaptive.before_roomed hxy s
  · obtain ⟨-, hbehind, -⟩ := List.pairwise_append.1 hsorted
    have hsy : Adaptive.Before a.freq s y := (List.pairwise_cons.1 hbehind).1 y hy
    rw [Adaptive.Before, Adaptive.count_raised_ne _ (hother _ (List.mem_append_right _ hy)),
      Adaptive.count_raised_self (by rwa [a.length_roomed]) (a.count_roomed_lt s)]
    exact Nat.le_succ_of_le (Adaptive.before_roomed hsy s)

/-- Settles O17: the symbol read bubbles up to its place. -/
theorem adaptationKeepsTheOrderSorted : Obligations.AdaptationKeepsTheOrderSorted := by
  intro a n r h hsorted hr
  refine ⟨h.adapt hr, Adaptive.adapt_sorted h hsorted hr, rfl, fun hlow => ?_⟩
  have hroom : a.roomed (a.order.getD r 0) = a.freq := if_neg hlow.ne
  rw [Adaptive.adapt_eq, hroom]
  rfl

end Sys2Proof.Machine
end

section
/-! PROOFS. The tokens that put bytes into the window (spec/43_tokens.md R200, R206 to R209, R232, spec/48_session.md R376, R377,
R380): a literal, a match, a cached distance, the last match again; and the symbols a generation reserves. -/

namespace Sys2Proof.Machine

/-! ### Literals (R200, R232, R376, R377) -/

/-- A byte put at `POS` of a canonical window, and no other byte (R163). -/
theorem State.put_reads {x : State} (hwf : Memory.wf x.win.mem = true) (v : Byte) :
    Memory.read (x.put v).win.mem x.win.pos = v ∧
    (∀ a, a ≠ x.win.pos → Memory.read (x.put v).win.mem a = Memory.read x.win.mem a) ∧
    (x.put v).win.pos = (x.win.pos + 1) % x.win.w ∧ (x.put v).win.tw = x.win.tw + 1 ∧ (x.put v).win.w = x.win.w ∧
    (x.put v).win.tf = x.win.tf ∧ ((x.put v).win.first = true ↔ x.win.first = true ∨ (x.put v).win.pos = 0) := by
  have hread (a : Nat) : Memory.read (x.put v).win.mem a = if a = x.win.pos then v else Memory.read x.win.mem a :=
    x.win.read_put v a (Bool.and_eq_true_iff.1 hwf).1
  exact ⟨by rw [hread, if_pos rfl], fun a ha => by rw [hread, if_neg ha], rfl, rfl, rfl, rfl, x.win.put_first v⟩

/-- With at most 4 channels the next one is the one after the current, modulo their number (R232). -/
theorem TokenState.nextChannel_val {t : TokenState} (h1 : 1 ≤ t.audioCh) (h4 : t.audioCh ≤ 4) :
    t.nextChannel.val = (t.acur.val + 1) % t.audioCh :=
  Nat.mod_eq_of_lt ((Nat.mod_lt _ h1).trans_le h4)

/-- Settles O35: each of the four tokens is one `put`. -/
theorem literalTokensPutOneByte : Obligations.LiteralTokensPutOneByte := by
  intro s b hwf put
  refine ⟨⟨s.put b, rfl, State.put_reads hwf b, rfl⟩, ⟨s.put b, rfl, State.put_reads hwf b, rfl⟩,
    ⟨s.put s.ppm.esc, rfl, State.put_reads hwf _, rfl⟩, fun h1 h4 => ?_⟩
  refine ⟨_, rfl, State.put_reads hwf _, ?_, fun c hc => ?_, TokenState.nextChannel_val h1 h4, rfl⟩
  · exact Vector.getElem_set_self _
  · exact Vector.getElem_set_ne s.tok.acur.isLt c.isLt fun h => hc (Fin.ext h.symm)

/-! ### Copies and the distance cache (R180, R207, R208) -/

/-- A copy of at least one byte: the window, and the event of a zero-filled one (R165, R166). -/
theorem State.copyMatch_eq (s : State) (d : Nat) {n : Nat} (hn : n ≠ 0) : s.copyMatch d n = { s with
    win := s.win.copyMatch d n,
    st := { s.st with events := if s.win.zeroFill d then s.st.events ||| 1 else s.st.events } } := by
  have hcopy : s.copyMatch d n = (s.setWin (s.win.copyMatch d n)).noteIf (s.win.zeroFill d && n != 0) .zerofill := rfl
  rw [hcopy, bne_iff_ne.2 hn, Bool.and_true, State.noteIf_zerofill]
  rfl

/-- What each entry of the cache holds once `d` is at the front of the first `n`. -/
theorem TokenState.cacheAt_pushFront (t : TokenState) {n : Nat} (hn : n ≤ 4) (d : Word) (j : Nat) :
    (t.pushFront n d).cacheAt j = if j = 0 then d else if j < n then t.cacheAt (j - 1) else t.cacheAt j := by
  by_cases hj : j < 4
  · simp [TokenState.cacheAt, TokenState.pushFront, hj]
  · have hbeyond (v : Vector Word 4) : v[j]? = none := Vector.getElem?_eq_none (Nat.le_of_not_lt hj)
    rw [if_neg (by omega), if_neg (by omega), TokenState.cacheAt, TokenState.cacheAt, hbeyond, hbeyond]

/-- A copy of distance `d` that is remembered: `d` enters the front of the first `m` entries of the cache, and the match is the
last one. -/
def State.copyRemembered (s : State) (m : Nat) (d : Word) (n : Nat) : State :=
  (s.setTok ((s.tok.pushFront m d).setLast n d)).copyMatch d.toNat n

theorem State.copyRemembered_win (s : State) (m : Nat) (d : Word) (n : Nat) :
    (s.copyRemembered m d n).win = s.win.copyMatch d.toNat n := State.copyMatch_win _ _ _

theorem State.copyRemembered_tok (s : State) (m : Nat) (d : Word) (n : Nat) :
    (s.copyRemembered m d n).tok = (s.tok.pushFront m d).setLast n d := State.copyMatch_tok _ _ _

/-- What a remembered copy of at least one byte changes. -/
theorem State.copyRemembered_eq (s : State) (m : Nat) (d : Word) {n : Nat} (hn : n ≠ 0) : s.copyRemembered m d n = { s with
    win := (s.copyRemembered m d n).win,
    tok := { s.tok with
      cache := (s.copyRemembered m d n).tok.cache, lastLen := (s.copyRemembered m d n).tok.lastLen,
      lastDist := (s.copyRemembered m d n).tok.lastDist },
    st := { s.st with events := if s.win.zeroFill d.toNat then s.st.events ||| 1 else s.st.events } } := by
  rw [s.copyRemembered_win, s.copyRemembered_tok]
  exact State.copyMatch_eq _ _ hn

theorem State.copyRemembered_cacheAt (s : State) {m : Nat} (hm : m ≤ 4) (d : Word) (n j : Nat) :
    (s.copyRemembered m d n).tok.cacheAt j =
      if j = 0 then d else if j < m then s.tok.cacheAt (j - 1) else s.tok.cacheAt j := by
  rw [s.copyRemembered_tok]
  exact s.tok.cacheAt_pushFront hm d j

theorem State.copyRemembered_lastLen (s : State) (m : Nat) (d : Word) {n : Nat} (hn : n ≤ Config.maxToken) :
    (s.copyRemembered m d n).tok.lastLen.toNat = n := by
  rw [s.copyRemembered_tok]
  exact Nat.mod_eq_of_lt (hn.trans_lt (by decide))

theorem State.copyRemembered_lastDist (s : State) (m : Nat) (d : Word) (n : Nat) :
    (s.copyRemembered m d n).tok.lastDist = d := by
  rw [s.copyRemembered_tok]
  rfl

/-! ### `MATCH` (R208) and `PPM.MATCH` (R380) -/

theorem slot_lt_of_matchSlot {slot e1 d e2 : Nat} {i : Instr} (h : Instr.matchSlot slot e1 d e2 = some i) : slot < Config.rc := by
  unfold Instr.matchSlot at h
  split at h <;> cases h <;> decide

theorem exec_matchSlot {slot e1 d e2 : Nat} {i : Instr} (h : Instr.matchSlot slot e1 d e2 = some i) (s : State) :
    exec i s = .next (s.matchToken slot e1 d e2) := by
  unfold Instr.matchSlot at h
  split at h <;> cases h <;> rfl

/-- `CACHE_N` by generation (R180). -/
theorem cacheN_eq {g : BitVec 3} (hg : g.toNat ≤ 3) : Config.cacheN g = [3, 3, 4, 4].getD g.toNat 0 := by
  revert g
  decide

theorem cacheN_le (g : BitVec 3) : Config.cacheN g ≤ 4 := by
  revert g
  decide

/-- The last distance a symbol stands for (R96). -/
theorem dbase_add_dbits_le {d : Nat} (hd : d < 48) : Config.dbase d + 2 ^ Config.dbits d ≤ 16777216 := by
  have hall : ∀ d < 48, Config.dbase d + 2 ^ Config.dbits d ≤ 16777216 := by decide
  exact hall d hd

theorem matchDistance_le {d e2 : Nat} (hd : d < 48) (he : e2 < 2 ^ Config.dbits d) : matchDistance d e2 ≤ 16777216 := by
  have hlast := dbase_add_dbits_le hd
  unfold matchDistance
  omega

/-- A distance fits a word. -/
theorem toWord_matchDistance {d e2 : Nat} (hd : d < 48) (he : e2 < 2 ^ Config.dbits d) :
    (toWord (matchDistance d e2)).toNat = matchDistance d e2 :=
  Nat.mod_eq_of_lt ((matchDistance_le hd he).trans_lt (by decide))

theorem State.matchToken_eq (s : State) (slot e1 : Nat) {d e2 : Nat} (hd : d < 48) (he : e2 < 2 ^ Config.dbits d) :
    s.matchToken slot e1 d e2 =
      s.copyRemembered (Config.cacheN s.ses.verL) (toWord (matchDistance d e2)) (matchLength slot e1) := by
  rw [State.copyRemembered, toWord_matchDistance hd he]
  rfl

/-- Settles O36: `MATCH` is a remembered copy, `PPM.MATCH` a copy. -/
theorem matchTokensCopyAndRemember : Obligations.MatchTokensCopyAndRemember := by
  constructor
  · intro s slot e1 d e2 i hi he1 hd he2 hv dist n cacheN
    have hlen : n ≤ Config.maxToken := matchLength_le (slot_lt_of_matchSlot hi) he1
    have hthree : 3 ≤ n := Nat.le_add_left _ _
    have hword : (toWord dist).toNat = dist := toWord_matchDistance hd he2
    have hN : Config.cacheN s.ses.verL = cacheN := cacheN_eq hv
    have hexec : exec i s = .next (s.copyRemembered cacheN (toWord dist) n) :=
      hN ▸ (exec_matchSlot hi s).trans (congrArg Host.Outcome.next (s.matchToken_eq slot e1 hd he2))
    have hcache := s.copyRemembered_cacheAt (hN ▸ cacheN_le s.ses.verL) (toWord dist) n
    have hwin := s.copyRemembered_win cacheN (toWord dist) n
    have hall := s.copyRemembered_eq cacheN (toWord dist) (n := n) (by omega)
    rw [hword] at hwin hall
    refine ⟨hthree, hlen, Nat.le_add_left _ _, matchDistance_le hd he2, _, hexec, hwin, ?_, ?_, fun j h1 hj => ?_, fun j hj => ?_,
      s.copyRemembered_lastLen _ _ hlen, ?_, hall⟩
    · rw [hwin, Window.copyMatch_tw]
    · rw [hcache, if_pos rfl]
      rfl
    · rw [hcache, if_neg (by omega), if_pos hj]
    · have hpos : 1 ≤ cacheN := hN ▸ (by unfold Config.cacheN; split <;> decide)
      rw [hcache, if_neg (by omega), if_neg (by omega)]
    · rw [s.copyRemembered_lastDist, hword]
  · intro s d2 d1 d0 l dist
    refine ⟨s.copyMatch dist (l.toNat + 3), rfl, State.copyMatch_win _ _ _, ?_, ?_⟩
    · rw [State.copyMatch_win, Window.copyMatch_tw, Nat.add_assoc]
    · rw [s.copyMatch_eq dist (Nat.succ_ne_zero _)]

/-! ### `CACHE` (R207) -/

theorem exec_cacheSlot {k l e : Nat} {i : Instr} (h : Instr.cacheSlot k l e = some i) (s : State) :
    exec i s = .next (s.cacheToken k l e) := by
  unfold Instr.cacheSlot at h
  split at h <;> cases h <;> rfl

theorem State.cacheToken_live {s : State} {k : Nat} (h : cacheLive s.ses.verL k = true) (l e : Nat) :
    s.cacheToken k l e = s.copyRemembered (k + 1) (s.tok.cacheAt k) (cacheLength l e) := if_pos h

/-- Settles O37: `CACHE k` is a remembered copy of entry `k`'s distance. -/
theorem cacheTokensMoveToFront : Obligations.CacheTokensMoveToFront := by
  intro s k l e i hi hl he hv hk d n
  have hN : k < Config.cacheN s.ses.verL := (cacheN_eq hv).symm ▸ hk
  have htwo : 2 ≤ n := Nat.le_add_left _ _
  have hlen : n ≤ 257 := by
    have hlast := lbase_add_lbits_le l hl
    show Config.lbase l + e + 2 ≤ 257
    omega
  have hexec : exec i s = .next (s.copyRemembered (k + 1) d n) :=
    (exec_cacheSlot hi s).trans (congrArg Host.Outcome.next (State.cacheToken_live (decide_eq_true hN) l e))
  have hcache := s.copyRemembered_cacheAt (m := k + 1) (hN.trans_le (cacheN_le s.ses.verL)) d n
  refine ⟨htwo, hlen, _, hexec, s.copyRemembered_win _ _ _, ?_, ?_, fun j h1 hj => ?_, fun j hj => ?_,
    s.copyRemembered_lastLen _ _ (hlen.trans (by decide)), s.copyRemembered_lastDist _ _ _, s.copyRemembered_eq _ _ (by omega)⟩
  · rw [s.copyRemembered_win, Window.copyMatch_tw]
  · rw [hcache, if_pos rfl]
  · rw [hcache, if_neg (by omega), if_pos (by omega)]
  · rw [hcache, if_neg (by omega), if_neg (by omega)]

/-! ### `REPEAT` (R206) and the reserved symbols (R209) -/

theorem isG4_of_lt {g : BitVec 3} (h : g.toNat < 3) : isG4 g = false :=
  beq_false_of_ne fun h3 => by simp [h3] at h

/-- Under G1 and G2 the last entry of the cache is not there (R180). -/
theorem cacheLive_three_of_lt {g : BitVec 3} (h : g.toNat < 2) : cacheLive g 3 = false := by
  revert g
  decide

theorem exec_repeatLast_reserved {s : State} (h : s.ses.verL.toNat < 3) : exec .repeatLast s = .next s.reserved := by
  show execRepeat s = _
  rw [execRepeat, isG4_of_lt h]
  rfl

theorem exec_repeatLast_g4 {s : State} (h : s.ses.verL = 3) : exec .repeatLast s =
    .next (if s.tok.lastLen = 0 then s else s.copyMatch s.tok.lastDist.toNat s.tok.lastLen.toNat) := by
  show execRepeat s = _
  rw [execRepeat, h]
  rfl

theorem exec_filter_reserved {s : State} (h : s.ses.verL.toNat < 3) (t : FilterTok) : exec (.filter t) s = .next s.reserved := by
  show execFilter t s = _
  rw [execFilter, isG4_of_lt h]
  rfl

theorem exec_cache3_reserved {s : State} (h : s.ses.verL.toNat < 2) (l e : Nat) : exec (.cache3 l e) s = .next s.reserved := by
  show Host.Outcome.next (s.cacheToken 3 l e) = _
  rw [State.cacheToken, cacheLive_three_of_lt h]
  rfl

/-- Settles O38: the symbol alone, and what it does under each generation. -/
theorem repeatCopiesTheLastMatchAgain : Obligations.RepeatCopiesTheLastMatchAgain := by
  refine ⟨fun rest => roundTrips ⟨3, 0⟩ .repeatLast rfl rest, fun s => ⟨fun hv hlast => ?_, fun hv hlast => ?_, fun hv => ?_⟩⟩
  · have hpos : s.tok.lastLen.toNat ≠ 0 := fun h => hlast (BitVec.eq_of_toNat_eq h)
    refine ⟨_, (exec_repeatLast_g4 hv).trans (by rw [if_neg hlast]), State.copyMatch_win _ _ _, ?_, ?_⟩
    · rw [State.copyMatch_win, Window.copyMatch_tw]
    · rw [s.copyMatch_eq _ hpos]
  · rw [exec_repeatLast_g4 hv, if_pos hlast]
  · exact exec_repeatLast_reserved hv

/-- Settles O39: the event alone, and no field after the symbol. -/
theorem reservedSymbolsOnlyNoteTheEvent : Obligations.ReservedSymbolsOnlyNoteTheEvent := by
  refine ⟨fun s i h => ?_, fun g rest hg => ⟨?_, roundTrips ⟨g, 0⟩ .repeatLast rfl rest, fun hg2 => ?_⟩⟩
  · obtain ⟨⟨t, rfl⟩ | rfl, hv⟩ | ⟨⟨l, e, rfl⟩, hv⟩ := h
    · exact exec_filter_reserved hv t
    · exact exec_repeatLast_reserved hv
    · exact exec_cache3_reserved hv l e
  · have hbits : encode ⟨g, 0⟩ (.filter .zero) = natToBits 9 257 := by simp [encode, encLd, isG4_of_lt hg]
    exact hbits ▸ roundTrips ⟨g, 0⟩ (.filter .zero) (by simp [Instr.wf, isG4_of_lt hg]) rest
  · have hbits : encode ⟨g, 0⟩ (.cache3 0 0) = natToBits 9 262 := by simp [encode, encCache, encLd, cacheLive_three_of_lt hg2]
    exact hbits ▸ roundTrips ⟨g, 0⟩ (.cache3 0 0) (by simp [Instr.wf, cacheLive_three_of_lt hg2]) rest

end Sys2Proof.Machine
end

section
/-! PROOFS. The tokens that end a block or the file (spec/43_tokens.md R202 to R204, R233, spec/48_session.md R362, R363, R378):
each is a flush, which a port that accepts carries out and one that fails abandons, and then one change of the dispatcher; and
what a PPM token that meets a sentinel leads to (spec/45_ppm_model.md R277). -/

namespace Sys2Proof.Machine

/-! ### A flush into a port that accepts (R366, R367) -/

/-- An output port with no coming answer, so that it accepts every write, stays such; and no operation is abandoned. -/
def acceptContract : Contract State Halt where
  pre s := s.out.answers = []
  rel s t := s.out.answers = [] → t.out.answers = []
  err _ := False
  refl _ := id
  trans h k := k ∘ h
  keeps hs h := h hs

theorem emit_completes (bytes : List Byte) (s : State) : acceptContract.Holds (emit bytes) s where
  ok hs hx := by
    rw [emit_accepts hs] at hx
    cases hx
    exact ⟨id, trivial⟩
  error hs hx := by
    rw [emit_accepts hs] at hx
    cases hx

theorem emitUpTo_completes (a : Nat) (s : State) : acceptContract.Holds (emitUpTo a) s :=
  .get (.bind (emit_completes _ s) fun _ _ _ => .update id)

theorem flushLoop_completes (final : Bool) (b fuel : Nat) (s : State) : acceptContract.Holds (flushLoop final b fuel) s := by
  induction fuel generalizing s with
  | zero => exact .pure trivial
  | succ fuel ih =>
    refine .get ?_
    cases s.vm.fq with
    | nil => exact .pure trivial
    | cons f rest =>
      dsimp only
      split
      · exact .bind (.set id) fun _ t _ => ih t
      · split
        · exact .pure trivial
        · refine .bind (emitUpTo_completes _ s) fun _ t _ => .get ?_
          split
          · cases final
            · exact .bind (.set id) fun _ _ _ => .pure trivial
            · exact .bind (.set id) fun _ u _ => ih u
          · exact .bind (.set id) fun _ _ _ => .bind (emit_completes _ _) fun _ _ _ => .bind (.update id) fun _ v _ => ih v

theorem doFlush_completes (final : Bool) (s : State) : acceptContract.Holds (doFlush final) s := by
  refine .get (.bind (flushLoop_completes _ _ _ s) fun go t _ => ?_)
  cases go
  · exact .pure trivial
  · refine .bind (emitUpTo_completes _ t) fun _ u _ => .get ?_
    split
    · exact .set id
    · exact .pure trivial

/-- A port that accepts carries a flush out. -/
theorem doFlush_succeeds {s : State} (h : s.out.answers = []) (final : Bool) : ∃ u, doFlush final s = .ok () u := by
  cases hx : doFlush final s with
  | ok _ u => exact ⟨u, rfl⟩
  | error e t => exact ((doFlush_completes final s).error h hx).2.elim

/-! ### What follows the flush -/

section
variable {s u : State}

theorem runOp_of_ok {x : M Unit} (h : x s = .ok () u) : runOp x s = .next u := by rw [runOp, h]

theorem settle_of_ok {x : M Unit} (h : x s = .ok () u) : settle x s = u := by rw [settle, h]

theorem runOp_of_fatal {x : M Unit} {f : Fatal} (h : x s = .error (.fatal f) u) :
    runOp x s = .next (u.raiseFatal f.reason f.detail) := by
  rw [runOp, h]
  rfl

theorem segmentEnd_of_flush (h : doFlush false s = .ok () u) : segmentEnd s = .ok () (u.setFsm .hdr) :=
  (bind_of_ok h).trans rfl

theorem newTables_of_flush (h : doFlush false s = .ok () u) : newTables s = .ok () (u.readTables u.ses.fsm) :=
  (bind_of_ok h).trans rfl

theorem endFile_of_flush (h : doFlush true s = .ok () u) : endFile s = .ok () u.succeed := (bind_of_ok h).trans rfl

/-- The model discarded, PPM disabled, the event noted: the first part of the corruption fallback (R363). -/
def State.fallen (s : State) : State :=
  (s.setPpm { s.ppm with alloc := false, arena := [], disabled := true }).note .ppmFallback

theorem fallback_of_flush (h : doFlush false s.fallen = .ok () u) : fallback s = .ok () (u.setFsm .hdr) :=
  (bind_of_ok rfl).trans (segmentEnd_of_flush h)

/-- A flush leaves the dispatcher's registers. -/
theorem doFlush_ses {final : Bool} (h : doFlush final s = .ok () u) : u.ses = s.ses := by
  have hframe := FlushFrame.doFlush final s
  rw [h] at hframe
  exact hframe.ses

/-- `read_tables` under G1 (R229). -/
theorem State.readTables_g1 (f : Fsm) (h : s.ses.verL = 0) : s.readTables f = (s.setTok s.tok.resetStats).setFsm f :=
  if_pos (beq_iff_eq.2 h)

theorem State.readTables_other (f : Fsm) (h : s.ses.verL ≠ 0) : s.readTables f = (s.setLens 0).setFsm .tables :=
  if_neg (mt beq_iff_eq.1 h)

end

/-! ### A token that is abandoned (R362, R400) -/

/-- The window, the Filter VM, the output and the dispatcher's registers stay. -/
structure State.KeepsEffects (s t : State) : Prop where
  win : t.win = s.win
  vm : t.vm = s.vm
  out : t.out = s.out
  ses : t.ses = s.ses

theorem State.KeepsEffects.refl (s : State) : s.KeepsEffects s := ⟨rfl, rfl, rfl, rfl⟩

theorem State.KeepsEffects.trans {s t u : State} (h : s.KeepsEffects t) (k : t.KeepsEffects u) : s.KeepsEffects u :=
  ⟨k.win.trans h.win, k.vm.trans h.vm, k.out.trans h.out, k.ses.trans h.ses⟩

theorem State.noteIf_keepsEffects (s : State) (b : Bool) (e : Event) : s.KeepsEffects (s.noteIf b e) :=
  ⟨s.noteIf_win b e, s.noteIf_vm b e, s.noteIf_out b e, s.noteIf_ses b e⟩

theorem State.setWorld_keepsEffects (s : State) (w : PpmWorld) : s.KeepsEffects (s.setWorld w) := ⟨rfl, rfl, rfl, rfl⟩

/-- An operation keeps them, however it ends. -/
def effectContract {ε : Type} : Contract State ε where
  pre _ := True
  rel := State.KeepsEffects
  err _ := True
  refl := .refl
  trans := .trans
  keeps _ _ := trivial

theorem onCur_keepsEffects {α : Type} (x : CurM α) (s : State) : effectContract.Holds (onCur x) s := by
  refine .of_endState (fun _ => trivial) ?_
  unfold onCur
  split <;> exact ⟨rfl, rfl, rfl, rfl⟩

theorem onPpm_keepsEffects {α : Type} (x : PpmM α) (s : State) : effectContract.Holds (onPpm x) s := by
  refine .of_endState (fun _ => trivial) ?_
  unfold onPpm
  split <;> exact (s.setWorld_keepsEffects _).trans (State.noteIf_keepsEffects _ _ _)

theorem reading_keepsEffects {α : Type} {x : M α} {s : State} (h : effectContract.Holds x s) :
    effectContract.Holds (reading x) s :=
  .lift id .halt h id (fun _ => id) (fun _ _ => trivial) (fun _ _ hx => by simp only [reading, hx, id])
    fun _ _ hx => by simp only [reading, hx, id]

theorem decodeTable_keepsEffects (t : HuffTable) (n : Nat) (s : State) : effectContract.Holds (decodeTable t n) s :=
  .bind (onCur_keepsEffects _ s) fun _ u _ => .bind (.update (u.noteIf_keepsEffects _ _)) fun _ _ _ => .pure trivial

theorem decodePpmByte_keepsEffects (s : State) : effectContract.Holds decodePpmByte s := by
  refine .bind (reading_keepsEffects (onPpm_keepsEffects ppmDecode s)) fun r _ _ => ?_
  cases r with
  | byte b => exact .pure trivial
  | endSegment | corrupt | nomem => exact .throw trivial

/-- Reading a field has no effect on them. -/
theorem readField_keepsEffects (f : Field) (s : State) : effectContract.Holds (readField f) s := by
  cases f with
  | raw n => exact reading_keepsEffects (onCur_keepsEffects _ s)
  | ld | dd | rd =>
    refine reading_keepsEffects (.get ?_)
    split
    · exact .bind (decodeTable_keepsEffects _ _ s) fun _ _ _ => .bind (.update ⟨rfl, rfl, rfl, rfl⟩) fun _ _ _ => .pure trivial
    · exact decodeTable_keepsEffects _ _ s
  | md => exact reading_keepsEffects (.get (decodeTable_keepsEffects _ _ s))
  | ppm => exact decodePpmByte_keepsEffects s

/-- Nor has reading a token, wherever it is abandoned. -/
theorem fetchParse_keepsEffects {α : Type} (p : Parse α) (vals : List Nat) (s : State) :
    effectContract.Holds (fetchParse noEffectYet p vals) s := by
  induction p generalizing vals s with
  | ret a => exact .pure trivial
  | fail r => exact .throw trivial
  | field f k ih =>
    have hf := readField_keepsEffects f s
    cases hr : readField f s with
    | ok v t =>
      have hrun : fetchParse noEffectYet (.field f k) vals s = fetchParse noEffectYet (k v) (vals ++ [v]) t := by
        simp only [fetchParse, hr]
      exact .after hrun (fun hs => (hf.ok hs hr).1) (ih v _ t)
    | error e t =>
      have hrun : fetchParse noEffectYet (.field f k) vals s = .error e t := by simp only [fetchParse, hr, noEffectYet]
      exact .of_error hrun fun hs => ⟨(hf.error hs hr).1, trivial⟩

section
variable {s u v : State} {c : Cursor} {e : Abort}

theorem map_of_error {σ ε α β : Type} {f : α → β} {x : EStateM ε σ α} {s t : σ} {e : ε} (h : x s = .error e t) :
    (f <$> x) s = .error e t := by
  simp only [Functor.map, EStateM.map, h]

theorem maybeFlush_frame (h : maybeFlush s = .ok () u) : FlushFrame s u := by
  have hframe := FlushFrame.maybeFlush s
  rwa [h] at hframe

theorem step_of_done (h : fetchNext s = .done u) : step s = .next u := by rw [step, h]

/-- The fetch in which the reading of a PPM token is abandoned, past its boundary checks and its flush. -/
theorem fetchNext_ppmToken_abandoned (hq : s.quiet = true) (hc : s.par.cancel = false) (htarget : s.targetReached = false)
    (hf : s.ses.fsm = .ppm) (hfill : refill s.cur = .ok () c) (hend : c.pastEnd = false)
    (hflush : maybeFlush (s.tick.setCur c) = .ok () u)
    (h : fetchParse noEffectYet (Slot.ppm s.ppm.esc).grammar [] u = .error e v) :
    fetchNext s = abandon e v := by
  have hesc : u.ppm.esc = s.ppm.esc := congrArg PpmModel.esc ((maybeFlush_frame hflush).ppm.trans s.tick_ppm)
  have hcheck : ppmBoundary s.tick = .ok true (s.tick.setCur c) :=
    ppmBoundary_past (by rwa [s.tick_targetReached]) (by rwa [s.tick_cur]) hend
  have hfetch : fetchCore s.tick s.tick = .error e v := by
    rw [fetchCore_ppm (by rwa [s.tick_ses]) (by rwa [s.tick_par]), fetchPpm, bind_of_ok hcheck, if_pos rfl,
      bind_of_ok (reading_of_ok hflush), get_bind, hesc]
    exact map_of_error h
  rw [fetchNext_quiet hq, coreFetch, hfetch]

end

/-! ### The ends of blocks -/

theorem forall_mem_pair {α : Type} {P : α → Prop} {a b : α} (ha : P a) (hb : P b) : ∀ x ∈ [a, b], P x :=
  List.forall_mem_cons.2 ⟨ha, List.forall_mem_singleton.2 hb⟩

/-- `END 00` (R202) and `END 01` (R204), with a port that accepts. -/
theorem exec_end_flushes {s : State} (h : s.out.answers = []) : ∃ u, doFlush false s = .ok () u ∧
    (∀ i ∈ [Instr.end00, .audEnd00], exec i s = .next (u.setFsm .hdr)) ∧
    ∀ i ∈ [Instr.end01, .audEnd01],
      (s.ses.verL = 0 → exec i s = .next ((u.setTok u.tok.resetStats).setFsm u.ses.fsm)) ∧
      (s.ses.verL ≠ 0 → exec i s = .next ((u.setLens 0).setFsm .tables)) := by
  obtain ⟨u, hu⟩ := doFlush_succeeds h false
  have hses := doFlush_ses hu
  have hseg : runOp segmentEnd s = .next (u.setFsm .hdr) := runOp_of_ok (segmentEnd_of_flush hu)
  have htab : runOp newTables s = .next (u.readTables u.ses.fsm) := runOp_of_ok (newTables_of_flush hu)
  have hcases : (s.ses.verL = 0 → runOp newTables s = .next ((u.setTok u.tok.resetStats).setFsm u.ses.fsm)) ∧
      (s.ses.verL ≠ 0 → runOp newTables s = .next ((u.setLens 0).setFsm .tables)) :=
    ⟨fun hv => by rw [htab, State.readTables_g1 _ (by rwa [hses])],
      fun hv => by rw [htab, State.readTables_other _ (by rwa [hses])]⟩
  exact ⟨u, hu, forall_mem_pair hseg hseg, forall_mem_pair hcases hcases⟩

/-- Settles O41: a flush and one change of the dispatcher; a token that is abandoned has had no effect by then. -/
theorem endOfBlockTokensFlush : Obligations.EndOfBlockTokensFlush := by
  refine ⟨fun s h => ⟨exec_end_flushes h, fun c => ?_⟩, fun s u v c e hq hc htarget hf hfill hend hflush hparse => ?_⟩
  · obtain ⟨u, hu⟩ := doFlush_succeeds (s := s.fallen) h false
    exact ⟨u, hu, runOp_of_ok (fallback_of_flush hu)⟩
  · have hfetch : fetchNext s = abandon e v := fetchNext_ppmToken_abandoned hq hc htarget hf hfill hend hflush hparse
    have hkeeps : u.KeepsEffects v := ((fetchParse_keepsEffects _ _ u).error trivial hparse).1
    have hses : v.ses = s.ses := hkeeps.ses.trans ((maybeFlush_frame hflush).ses.trans s.tick_ses)
    have hppm : v.ses.fsm ≠ .ppmonly := by rw [hses, hf]; decide
    refine ⟨hkeeps.win, hkeeps.vm, hkeeps.out, ?_, ?_, ?_⟩
    · rintro rfl hout
      obtain ⟨w, hw⟩ := doFlush_succeeds hout false
      refine ⟨w, hw, step_of_done (u := w.setFsm .hdr) (hfetch.trans ?_)⟩
      rw [abandon, if_neg hppm, settle_of_ok (segmentEnd_of_flush hw)]
    · rintro rfl hout
      obtain ⟨w, hw⟩ := doFlush_succeeds (s := v.fallen) hout false
      refine ⟨w, hw, step_of_done (u := w.setFsm .hdr) (hfetch.trans ?_)⟩
      rw [abandon, if_neg hppm, settle_of_ok (fallback_of_flush hw)]
    · rintro rfl
      exact step_of_done hfetch

/-! ### The end of the file -/

/-- A flush with bytes to write and room for them, and a port that fails (R398). -/
theorem doFlush_fails {s : State} {rest : List PortWrite} (ha : s.out.answers = .error :: rest) (hq : s.vm.fq = [])
    (hpending : s.win.tf < s.win.tw) (hroom : s.st.written < s.ses.targetL) (final : Bool) :
    doFlush final s = .error (.fatal ⟨.writeFail, .none⟩) (s.setOut { s.out with answers := rest }) := by
  have hne : s.fitting (s.win.range s.win.tf (s.win.tw - s.win.tf)) ≠ [] := by
    rw [← List.length_pos_iff, State.fitting, List.length_take, Window.length_range]
    omega
  rw [doFlush_no_filter hq]
  exact emitUpTo_of_error (emit_fails ha hne)

/-- What begins with such a flush is abandoned, and the session ends with `WRITE_FAIL` (R400). -/
theorem runOp_flush_fails {s : State} {rest : List PortWrite} {final : Bool} (x : M Unit) (ha : s.out.answers = .error :: rest)
    (hq : s.vm.fq = []) (hpending : s.win.tf < s.win.tw) (hroom : s.st.written < s.ses.targetL) :
    runOp (do doFlush final; x) s = .next { s with
      out := { s.out with answers := rest },
      st := { s.st with kind := .failure, reason := .writeFail, detail := .none, consumed := s.cur.consumedBytes },
      ses := { s.ses with fsm := .done } } := by
  rw [runOp_of_fatal (bind_error (doFlush_fails ha hq hpending hroom final))]
  have hvm : ({ s.vm with fq := [] } : FilterVm) = s.vm := by rw [← hq]
  show Host.Outcome.next ((State.setVm _ { s.vm with fq := [] }).setSes _) = _
  rw [hvm]
  rfl

/-- Settles O42: a final flush, then `SUCCESS`, or `WRITE_FAIL` at a flush that fails. -/
theorem endOfFileTokensSucceed : Obligations.EndOfFileTokensSucceed := by
  intro s finished
  refine ⟨fun h => ?_, fun h => ?_, ?_⟩
  · obtain ⟨u, hu⟩ := doFlush_succeeds h true
    have hend : runOp endFile s = .next u.succeed := runOp_of_ok (endFile_of_flush hu)
    exact ⟨u, hu, List.forall_mem_cons.2 ⟨hend, forall_mem_pair hend hend⟩⟩
  · obtain ⟨u, hu⟩ := doFlush_succeeds (s := s.dropTables) h true
    have hend : runOp endFile s.dropTables = .next u.succeed := runOp_of_ok (endFile_of_flush hu)
    exact ⟨u, hu, forall_mem_pair hend hend⟩
  · intro rest ha hq hpending hroom failed
    have hseg : runOp segmentEnd s = .next failed := runOp_flush_fails _ ha hq hpending hroom
    have htab : runOp newTables s = .next failed := runOp_flush_fails _ ha hq hpending hroom
    have hend : runOp endFile s = .next failed := runOp_flush_fails _ ha hq hpending hroom
    have hdrop := runOp_flush_fails (s := s.dropTables) (final := true) (modify (·.succeed)) ha hq hpending hroom
    refine ⟨?_, forall_mem_pair hdrop hdrop⟩
    simp only [List.forall_mem_cons]
    exact ⟨hseg, hseg, htab, htab, hend, hend, hend, List.forall_mem_nil _⟩

end Sys2Proof.Machine
end

section
/-! PROOFS. The range coder (spec/44_rangecoder.md R242, R243, R245): one decision leaves a range of at least `2^16`. The argument is
about the bits in which the two ends of the interval differ: each pass that finds the top bytes alike multiplies that number by 256,
so at most three such passes come; a pass that rounds the range puts the upper end on a multiple of `2^24`, and after at most one more
the range is large. -/

namespace Sys2Proof.Machine

/-! ### One pass of the loop (R243) -/

/-- The bits in which the ends of the interval, `RC_LOW` and `RC_LOW + RC_RANGE`, differ. -/
def RangeCoder.spread (r : RangeCoder) : Word := r.low ^^^ (r.low + r.range)

/-- The coder after a pass that goes on with `range` and leaves `code`. -/
def RangeCoder.shifted (r : RangeCoder) (range code : Word) : RangeCoder := ⟨r.low <<< 8, code, range <<< 8⟩

/-- The loop of R243: the top bytes are alike; or they differ and the range is small, and it is rounded; or the loop ends. -/
theorem RangeCoder.unsettled_cases (r : RangeCoder) :
    (r.spread.toNat < 2 ^ 24 ∧ r.unsettled = some r.range) ∨
    (2 ^ 24 ≤ r.spread.toNat ∧ r.range.toNat < 2 ^ 16 ∧ r.unsettled = some (-r.low &&& 0xFFFF#32)) ∨
    (2 ^ 24 ≤ r.spread.toNat ∧ 2 ^ 16 ≤ r.range.toNat ∧ r.unsettled = none) := by
  obtain hs | hs := Nat.lt_or_ge r.spread.toNat (2 ^ 24)
  · exact .inl ⟨hs, if_pos hs⟩
  · have hdiffer : r.unsettled = if r.range.toNat < 2 ^ 16 then some (-r.low &&& 0xFFFF#32) else none :=
      if_neg (Nat.not_lt.2 hs)
    obtain hr | hr := Nat.lt_or_ge r.range.toNat (2 ^ 16)
    · exact .inr (.inl ⟨hs, hr, hdiffer.trans (if_pos hr)⟩)
    · exact .inr (.inr ⟨hs, hr, hdiffer.trans (if_neg (Nat.not_lt.2 hr))⟩)

theorem RangeCoder.range_large_of_settled {r : RangeCoder} (h : r.unsettled = none) : 2 ^ 16 ≤ r.range.toNat := by
  obtain ⟨-, hu⟩ | ⟨-, -, hu⟩ | ⟨-, hr, -⟩ := r.unsettled_cases
  · simp [hu] at h
  · simp [hu] at h
  · exact hr

theorem RangeCoder.spread_pos {r : RangeCoder} (h : r.range ≠ 0) : 1 ≤ r.spread.toNat := by
  refine Nat.pos_of_ne_zero fun h0 => h ?_
  have heq : r.low = r.low + r.range := BitVec.xor_eq_zero_iff.1 (BitVec.eq_of_toNat_eq h0)
  exact left_eq_add.1 heq

/-- A pass that finds the top bytes alike shifts the bits that differ; none of them is lost. -/
theorem RangeCoder.spread_shifted {r : RangeCoder} (h : r.spread.toNat < 2 ^ 24) (code : Word) :
    (r.shifted r.range code).spread.toNat = r.spread.toNat * 256 := by
  have hshift : (r.shifted r.range code).spread = r.spread <<< 8 := by
    rw [RangeCoder.spread, RangeCoder.spread, BitVec.shiftLeft_xor_distrib, BitVec.shiftLeft_add_distrib]
    rfl
  rw [hshift, BitVec.toNat_shiftLeft, Nat.shiftLeft_eq]
  omega

/-- The bits that differ reach the top byte where the top bytes of the two ends differ. -/
theorem RangeCoder.spread_large_iff (r : RangeCoder) :
    2 ^ 24 ≤ r.spread.toNat ↔ r.low.toNat / 2 ^ 24 ≠ (r.low + r.range).toNat / 2 ^ 24 := by
  rw [← Nat.not_lt, ← Nat.div_eq_zero_iff_lt (by decide), RangeCoder.spread, BitVec.toNat_xor, Nat.xor_div_two_pow,
    Nat.xor_eq_zero_iff]

/-! ### Rounding (R243) -/

/-- The upper end of the interval is a multiple of `2^24`. -/
def RangeCoder.Rounded (r : RangeCoder) : Prop := r.low.toNat % 2 ^ 24 + r.range.toNat = 2 ^ 24

theorem RangeCoder.Rounded.spread_large {r : RangeCoder} (h : r.Rounded) : 2 ^ 24 ≤ r.spread.toNat := by
  rw [RangeCoder.Rounded] at h
  rw [r.spread_large_iff, BitVec.toNat_add]
  have hlow := r.low.isLt
  omega

/-- A pass that rounds: from `RC_LOW` to the next multiple of `2^16`, both shifted. -/
theorem RangeCoder.rounding {r : RangeCoder} (h : r.low.toNat % 2 ^ 16 ≠ 0) (code : Word) :
    (r.shifted (-r.low &&& 0xFFFF#32) code).range.toNat = (2 ^ 16 - r.low.toNat % 2 ^ 16) * 256 ∧
    (r.shifted (-r.low &&& 0xFFFF#32) code).Rounded := by
  have hmask : (-r.low &&& 0xFFFF#32).toNat = 2 ^ 16 - r.low.toNat % 2 ^ 16 := by
    have hand : (-r.low &&& 0xFFFF#32).toNat = (-r.low).toNat % 2 ^ 16 := Nat.and_two_pow_sub_one_eq_mod _ 16
    rw [hand, BitVec.toNat_neg]
    omega
  have hrange : (r.shifted (-r.low &&& 0xFFFF#32) code).range.toNat = (2 ^ 16 - r.low.toNat % 2 ^ 16) * 256 := by
    simp only [RangeCoder.shifted, BitVec.toNat_shiftLeft, Nat.shiftLeft_eq, hmask]
    omega
  refine ⟨hrange, ?_⟩
  rw [RangeCoder.Rounded, hrange]
  simp only [RangeCoder.shifted, BitVec.toNat_shiftLeft, Nat.shiftLeft_eq]
  omega

/-- A small range at a multiple of `2^16` keeps the top byte, so a range that is rounded is not rounded to 0. -/
theorem RangeCoder.low_mod_ne_zero {r : RangeCoder} (hs : 2 ^ 24 ≤ r.spread.toNat) (hr : r.range.toNat < 2 ^ 16) :
    r.low.toNat % 2 ^ 16 ≠ 0 := by
  rw [r.spread_large_iff, BitVec.toNat_add] at hs
  have hlow := r.low.isLt
  omega

/-! ### How many passes there are -/

/-- The loop of R243 ends within `n` passes, whatever bytes it reads. -/
def RangeCoder.SettlesIn : Nat → RangeCoder → Prop
  | 0, r => r.unsettled = none
  | n + 1, r => ∀ range, r.unsettled = some range → ∀ code, RangeCoder.SettlesIn n (r.shifted range code)

theorem RangeCoder.SettlesIn.of_settled {r : RangeCoder} (h : r.unsettled = none) (n : Nat) : r.SettlesIn n := by
  cases n with
  | zero => exact h
  | succ n => exact fun range hu => by simp [h] at hu

theorem RangeCoder.SettlesIn.of_pass {r : RangeCoder} {range : Word} {n : Nat} (hu : r.unsettled = some range)
    (h : ∀ code, (r.shifted range code).SettlesIn n) : r.SettlesIn (n + 1) := by
  intro range' hu'
  obtain rfl : range = range' := Option.some.inj (hu.symm.trans hu')
  exact h

theorem RangeCoder.SettlesIn.succ {n : Nat} {r : RangeCoder} (h : r.SettlesIn n) : r.SettlesIn (n + 1) := by
  induction n generalizing r with
  | zero => exact .of_settled h 1
  | succ n ih => exact fun range hu code => ih (h range hu code)

theorem RangeCoder.SettlesIn.mono {m n : Nat} {r : RangeCoder} (hmn : m ≤ n) (h : r.SettlesIn m) : r.SettlesIn n :=
  Nat.le_induction (P := fun n _ => r.SettlesIn n) h (fun _ _ => .succ) n hmn

theorem RangeCoder.settled_of_large {r : RangeCoder} (hs : 2 ^ 24 ≤ r.spread.toNat) (hr : 2 ^ 16 ≤ r.range.toNat) :
    r.unsettled = none := by
  obtain ⟨h, -⟩ | ⟨-, h, -⟩ | ⟨-, -, h⟩ := r.unsettled_cases
  · omega
  · omega
  · exact h

/-- A rounded range is rounded at most once more. -/
theorem RangeCoder.Rounded.settlesIn {r : RangeCoder} (h : r.Rounded) (hr : 2 ^ 8 ≤ r.range.toNat) : r.SettlesIn 1 := by
  have hs := h.spread_large
  obtain ⟨hlt, -⟩ | ⟨-, hsmall, hu⟩ | ⟨-, -, hu⟩ := r.unsettled_cases
  · omega
  · refine .of_pass hu fun code => settled_of_large (rounding (low_mod_ne_zero hs hsmall) code).2.spread_large ?_
    rw [(rounding (low_mod_ne_zero hs hsmall) code).1]
    rw [RangeCoder.Rounded] at h
    omega
  · exact .of_settled hu 1

theorem RangeCoder.settlesIn_of_spread {r : RangeCoder} (hs : 2 ^ 24 ≤ r.spread.toNat) : r.SettlesIn 2 := by
  obtain ⟨hlt, -⟩ | ⟨-, hsmall, hu⟩ | ⟨-, -, hu⟩ := r.unsettled_cases
  · omega
  · refine .of_pass hu fun code => ?_
    obtain ⟨hrange, hround⟩ := rounding (low_mod_ne_zero hs hsmall) code
    exact hround.settlesIn (by omega)
  · exact .of_settled hu 2

/-- Where `k` shifts take the bits that differ into the top byte, at most `k` passes come before the range is settled or rounded. -/
theorem RangeCoder.settlesIn_of_spread_mul {r : RangeCoder} {k : Nat} (hs : 2 ^ 24 ≤ r.spread.toNat * 256 ^ k) :
    r.SettlesIn (k + 2) := by
  induction k generalizing r with
  | zero => exact settlesIn_of_spread (by omega)
  | succ k ih =>
    obtain ⟨hlt, hu⟩ | ⟨hge, -, -⟩ | ⟨-, -, hu⟩ := r.unsettled_cases
    · refine .of_pass hu fun code => ih ?_
      rw [spread_shifted hlt code, Nat.mul_assoc, ← Nat.pow_succ']
      exact hs
    · exact (settlesIn_of_spread hge).mono (by omega)
    · exact .of_settled hu _

/-- Eight passes are more than the loop needs (log entry 11). -/
theorem RangeCoder.settlesIn_passes {r : RangeCoder} (h : r.range ≠ 0) : r.SettlesIn r.passes := by
  have hpos := spread_pos h
  rw [RangeCoder.passes, if_neg h]
  exact (settlesIn_of_spread_mul (k := 3) (by omega)).mono (by decide)

/-! ### The loop and the decision -/

theorem ofCur_ok {α : Type} {x : CurM α} {w v : PpmWorld} {a : α} (h : PpmM.ofCur x w = .ok a v) :
    ∃ c, x w.cur = .ok a c ∧ v = { w with cur := c } := by
  unfold PpmM.ofCur at h
  split at h
  next hx =>
    cases h
    exact ⟨_, hx, rfl⟩
  next => cases h

/-- `rcShiftIn` changes the cursor and `RC_CODE`. -/
theorem rcShiftIn_ok {w v : PpmWorld} (h : rcShiftIn w = .ok () v) :
    ∃ c code, v = { w with cur := c, rc := { w.rc with code := code } } := by
  obtain ⟨b, u, hb, hv⟩ := bind_ok h
  obtain ⟨c, -, rfl⟩ := ofCur_ok hb
  cases hv
  exact ⟨c, _, rfl⟩

theorem rcNormalise_settled {w : PpmWorld} (h : w.rc.unsettled = none) (fuel : Nat) : rcNormalise fuel w = .ok () w := by
  cases fuel with
  | zero => rfl
  | succ fuel => rw [rcNormalise, get_bind, h]; rfl

/-- A pass of the loop (R243): what it leaves is the shifted coder, and the model and the allocator as they were. -/
theorem rcNormalise_pass {w v : PpmWorld} {range : Word} {fuel : Nat} (hu : w.rc.unsettled = some range)
    (h : rcNormalise (fuel + 1) w = .ok () v) :
    ∃ c code, rcNormalise fuel { w with cur := c, rc := w.rc.shifted range code } = .ok () v := by
  rw [rcNormalise, get_bind, hu] at h
  dsimp only at h
  obtain ⟨_, u, hset, h⟩ := bind_ok h
  cases hset
  obtain ⟨_, u, hin, h⟩ := bind_ok h
  obtain ⟨c, code, rfl⟩ := rcShiftIn_ok hin
  obtain ⟨_, u, hshift, h⟩ := bind_ok h
  cases hshift
  exact ⟨c, code, h⟩

/-- Where the loop ends within its passes it leaves a large range, and the model and the allocator as they were. -/
theorem rcNormalise_range {fuel : Nat} {w v : PpmWorld} (hsettles : w.rc.SettlesIn fuel) (h : rcNormalise fuel w = .ok () v) :
    2 ^ 16 ≤ v.rc.range.toNat ∧ v.ppm = w.ppm ∧ v.sa = w.sa := by
  induction fuel generalizing w with
  | zero =>
    cases h
    exact ⟨RangeCoder.range_large_of_settled hsettles, rfl, rfl⟩
  | succ fuel ih =>
    cases hu : w.rc.unsettled with
    | none =>
      rw [rcNormalise_settled hu] at h
      cases h
      exact ⟨RangeCoder.range_large_of_settled hu, rfl, rfl⟩
    | some range =>
      obtain ⟨c, code, hrest⟩ := rcNormalise_pass hu h
      exact ih (w := { w with cur := c, rc := w.rc.shifted range code }) (hsettles range hu code) hrest

theorem rcUpdate_range {cum f : Nat} {w v : PpmWorld} (hrange : (w.rc.narrow cum f).range ≠ 0) (h : rcUpdate cum f w = .ok () v) :
    2 ^ 16 ≤ v.rc.range.toNat ∧ v.ppm = w.ppm ∧ v.sa = w.sa :=
  rcNormalise_range (w := { w with rc := w.rc.narrow cum f }) (RangeCoder.settlesIn_passes hrange) h

/-- `rc_count` divides the range (R242). -/
theorem RangeCoder.count_range (r : RangeCoder) {t : Nat} (ht : t < 2 ^ 16) :
    (r.count t).2.range.toNat = r.range.toNat / t := by
  show (r.range / BitVec.ofNat 32 t).toNat = _
  rw [BitVec.toNat_udiv, BitVec.toNat_ofNat, Nat.mod_eq_of_lt (by omega)]

/-- The count where the divided range is not 0 (R242). -/
theorem RangeCoder.count_fst {r : RangeCoder} {t : Nat} (h : (r.count t).2.range.toNat ≠ 0) :
    (r.count t).1 = (r.code - r.low).toNat / (r.count t).2.range.toNat := by
  have hne : r.range / BitVec.ofNat 32 t ≠ 0 := fun h0 => h (congrArg BitVec.toNat h0)
  exact (if_neg hne).trans BitVec.toNat_udiv

/-- The part of the interval that a symbol of frequency `f` gets: `f` shares, at most the whole (R243). -/
theorem RangeCoder.narrow_range (r : RangeCoder) {t f : Nat} (cum : Nat) (ht : t < 2 ^ 16) (hft : f ≤ t) :
    ((r.count t).2.narrow cum f).range.toNat = r.range.toNat / t * f := by
  have hfit : r.range.toNat / t * f ≤ r.range.toNat := (Nat.mul_le_mul_left _ hft).trans (Nat.div_mul_le_self _ _)
  show ((r.count t).2.range * BitVec.ofNat 32 f).toNat = _
  rw [BitVec.toNat_mul, r.count_range ht, BitVec.toNat_ofNat, Nat.mod_eq_of_lt (show f < 2 ^ 32 by omega),
    Nat.mod_eq_of_lt (hfit.trans_lt r.range.isLt)]

/-- Settles O29: the divided range is not 0, nor is a symbol's part of it, so the loop ends within its passes. -/
theorem coderRangeStaysLarge : Obligations.CoderRangeStaysLarge := by
  intro w w' t cum f hlarge hf hcum ht
  have hrange := w.rc.count_range ht
  have hshare : 1 ≤ w.rc.range.toNat / t := (Nat.one_le_div_iff (by omega)).2 (by omega)
  have hpart : ((w.rc.count t).2.narrow cum f).range ≠ 0 := fun h0 => by
    have hpos := Nat.mul_pos hshare hf
    rw [← w.rc.narrow_range cum ht (by omega), h0] at hpos
    exact Nat.lt_irrefl 0 hpos
  refine ⟨hrange, hshare, ?_, rcUpdate_range hpart⟩
  rw [← hrange]
  exact RangeCoder.count_fst (by omega)

end Sys2Proof.Machine
end

section
/-! PROOFS. `RC.INIT` (spec/44_rangecoder.md R241, R248): the cursor is aligned and four bytes of the stream become `RC_CODE`. -/

namespace Sys2Proof.Machine

theorem bitsToNat_append (l m : List Bool) : bitsToNat (l ++ m) = bitsToNat l * 2 ^ m.length + bitsToNat m := by
  rw [← foldl_bits m (bitsToNat l)]
  exact List.foldl_append

/-- The first `m + n` bits of the stream are the first `m` and the `n` bits from there. -/
theorem Cursor.Ahead.streamNat_add {m : Nat} {c d : Cursor} (h : c.Ahead m d) (n : Nat) :
    c.streamNat 0 (m + n) = c.streamNat 0 m * 2 ^ n + d.streamNat 0 n := by
  have hsplit : c.streamBits 0 (m + n) = c.streamBits 0 m ++ d.streamBits 0 n := by
    rw [h.streamBits, ← List.take_append_drop m (c.streamBits 0 (m + n)), c.take_streamBits 0 (Nat.le_add_right m n),
      c.drop_streamBits, Nat.add_sub_cancel_left, Nat.zero_add, Nat.add_zero]
  rw [Cursor.streamNat, hsplit, bitsToNat_append, d.length_streamBits]
  rfl

theorem ofCur_of_ok {α : Type} {x : CurM α} {w : PpmWorld} {c : Cursor} {a : α} (h : x w.cur = .ok a c) :
    PpmM.ofCur x w = .ok a { w with cur := c } := by
  simp only [PpmM.ofCur, h]

/-- The world with its cursor `m` bits after `c` in the same stream and those bits in `RC_CODE`. -/
structure PpmWorld.Loaded (c : Cursor) (m : Nat) (w : PpmWorld) : Prop where
  ahead : c.Ahead m w.cur
  code : w.rc.code = BitVec.ofNat 32 (c.streamNat 0 m)

/-- A byte is shifted in below what was loaded (R241). -/
theorem rcShiftIn_loads {c : Cursor} {m : Nat} {w : PpmWorld} (hc : c.ready = true) (h : w.Loaded c m) :
    ∃ v, rcShiftIn w = .ok () v ∧ v.Loaded c (m + 8) ∧
      v = { w with cur := v.cur, rc := { w.rc with code := v.rc.code } } := by
  obtain ⟨d, hd, hahead⟩ := getbits_ahead (h.ahead.ready hc) (n := 8) (by decide)
  have hbyte : PpmM.ofCur getbyte w = .ok (w.cur.streamNat 0 8) { w with cur := d } := ofCur_of_ok hd
  refine ⟨_, (bind_of_ok hbyte).trans rfl, ⟨h.ahead.trans hahead, ?_⟩, rfl⟩
  show w.rc.code <<< 8 + BitVec.ofNat 32 (w.cur.streamNat 0 8) = _
  rw [h.code, h.ahead.streamNat_add, BitVec.ofNat_add, BitVec.ofNat_mul, BitVec.shiftLeft_eq_mul_twoPow]
  rfl

/-- `rc_init()` (R241) on a port that meets no error. -/
theorem rcInit_loads (w : PpmWorld) (hc : w.cur.ready = true) :
    ∃ d, w.cur.Ahead 32 d ∧
      rcInit w = .ok () { w with cur := d, rc := ⟨0, BitVec.ofNat 32 (w.cur.streamNat 0 32), 0xFFFFFFFF#32⟩ } := by
  have h0 : PpmWorld.Loaded w.cur 0 { w with rc := ⟨0, 0, 0xFFFFFFFF#32⟩ } := ⟨.refl w.cur, rfl⟩
  obtain ⟨w1, hr1, h1, he1⟩ := rcShiftIn_loads hc h0
  obtain ⟨w2, hr2, h2, he2⟩ := rcShiftIn_loads hc h1
  obtain ⟨w3, hr3, h3, he3⟩ := rcShiftIn_loads hc h2
  obtain ⟨w4, hr4, h4, he4⟩ := rcShiftIn_loads hc h3
  refine ⟨w4.cur, h4.ahead, ?_⟩
  have hrun : rcInit w = .ok () w4 :=
    (bind_of_ok hr1).trans ((bind_of_ok hr2).trans ((bind_of_ok hr3).trans hr4))
  rw [hrun, he4, he3, he2, he1, h4.code]

/-- `RC.INIT` on an idle machine, with the run of `rc_init()` known. -/
theorem exec_rcInit_idle {s : State} {d : Cursor} {rc : RangeCoder} (hi : s.isIdle = true)
    (h : rcInit { s.world with cur := s.cur.align } = .ok () { s.world with cur := d, rc := rc }) :
    exec .rcInit s = .next ((s.accept.setCur d).setRc rc) := by
  have hinit : onPpm rcInit (s.accept.setCur s.cur.align) = .ok () ((s.accept.setCur d).setRc rc) := by
    unfold onPpm
    exact h ▸ rfl
  exact portCommand_none hi rfl ((bind_of_ok rfl).trans ((bind_of_ok hinit).trans rfl))

/-- Settles O28: the aligned cursor stands in the same stream, and the four bytes there are loaded. -/
theorem rcInitReadsFourBytesBigEndian : Obligations.RcInitReadsFourBytesBigEndian := by
  intro s hi hready
  obtain ⟨d, hahead, hinit⟩ := rcInit_loads { s.world with cur := s.cur.align } (s.cur.align_ahead.ready hready)
  refine ⟨_, exec_rcInit_idle hi hinit, rfl, ?_, rfl⟩
  exact hahead.bitpos.trans (congrArg (· + 32) s.cur.bitpos_align)

end Sys2Proof.Machine
end

section
/-! PROOFS. What no operation of the sub-allocator changes (spec/46_suballocator.md R290), the allocator while no block is free
(R291, R292), and the model as it is created and restarted (spec/45_ppm_model.md R260 to R262, R285). -/

namespace Sys2Proof.Machine

/-! ### `U` stays -/

section
variable (a : SubAlloc) (i n : Nat)

@[simp] theorem SubAlloc.reset_u : a.reset.u = a.u := rfl

theorem SubAlloc.split_u {a b : SubAlloc} {n fuel m i : Nat} (h : a.split n fuel m = some (i, b)) : b.u = a.u := by
  induction fuel generalizing m with
  | zero => cases h
  | succ fuel ih =>
    rw [SubAlloc.split] at h
    split at h
    · cases h
      rfl
    · exact ih h

theorem SubAlloc.try_u {a b : SubAlloc} {n i : Nat} (h : a.try n = some (i, b)) : b.u = a.u := by
  rw [SubAlloc.try] at h
  split at h
  · cases h
    rfl
  · split at h
    · cases h
      rfl
    · exact SubAlloc.split_u h

theorem SubAlloc.pushRun_u (fuel : Nat) : (a.pushRun fuel i n).u = a.u := by
  induction fuel generalizing a i n with
  | zero => rfl
  | succ fuel ih =>
    rw [SubAlloc.pushRun]
    split
    · exact ih _ _ _
    · split <;> rfl

theorem SubAlloc.placeRun_u (run : Nat × Nat) : (a.placeRun run).u = a.u := by
  rw [SubAlloc.placeRun]
  split
  · rfl
  · exact a.pushRun_u _ _ _

@[simp] theorem SubAlloc.coalesce_u : a.coalesce.u = a.u :=
  List.foldlRecOn (motive := fun b : SubAlloc => b.u = a.u) _ SubAlloc.placeRun rfl fun b hb run _ => (b.placeRun_u run).trans hb

@[simp] theorem SubAlloc.alloc_u : (a.alloc n).2.u = a.u := by
  rw [SubAlloc.alloc]
  split
  next h => exact SubAlloc.try_u h
  · split
    next h => exact (SubAlloc.try_u h).trans a.coalesce_u
    · exact a.coalesce_u

theorem SubAlloc.u_of_alloc {a b : SubAlloc} {n : Nat} {r : Option Nat} (h : a.alloc n = (r, b)) : b.u = a.u := by
  rw [← a.alloc_u n, h]

end

/-! ### No free block -/

/-- The allocator of `u` units with the first `brk` handed out and none given back. -/
def SubAlloc.bare (u brk : Nat) : SubAlloc := ⟨u, brk, Vector.replicate Config.saMaxBlock []⟩

section
variable (u brk n : Nat)

@[simp] theorem SubAlloc.bare_bucket : (SubAlloc.bare u brk).bucket n = [] := by
  rw [SubAlloc.bucket, SubAlloc.bare, Vector.getElem?_replicate]
  split <;> rfl

@[simp] theorem SubAlloc.bare_freeBlocks : (SubAlloc.bare u brk).freeBlocks = [] := by
  simp [SubAlloc.freeBlocks, List.flatMap_eq_nil_iff.2]

@[simp] theorem SubAlloc.bare_coalesce : (SubAlloc.bare u brk).coalesce = .bare u brk := by
  rw [SubAlloc.coalesce, SubAlloc.bare_freeBlocks]
  rfl

theorem SubAlloc.bare_split (fuel m : Nat) : (SubAlloc.bare u brk).split n fuel m = none := by
  induction fuel generalizing m with
  | zero => rfl
  | succ fuel ih => rw [SubAlloc.split, SubAlloc.bare_bucket, ih]

variable {u brk n}

/-- With no free block a request is met from the never-used space (R292). -/
theorem SubAlloc.bare_alloc_of_fits (h : brk + n ≤ u) : (SubAlloc.bare u brk).alloc n = (some brk, .bare u (brk + n)) := by
  have htry : (SubAlloc.bare u brk).try n = some (brk, .bare u (brk + n)) := by
    rw [SubAlloc.try, SubAlloc.bare_bucket]
    exact if_pos h
  rw [SubAlloc.alloc, htry]

theorem SubAlloc.bare_alloc_of_full (h : u < brk + n) : (SubAlloc.bare u brk).alloc n = (none, .bare u brk) := by
  have htry : (SubAlloc.bare u brk).try n = none := by
    rw [SubAlloc.try, SubAlloc.bare_bucket]
    exact (if_neg (Nat.not_le.2 h)).trans (SubAlloc.bare_split _ _ _ _ _)
  rw [SubAlloc.alloc, htry, SubAlloc.bare_coalesce, htry]

end

/-! ### The fresh model (R260, R261) -/

/-- The fields of the model that only a register write, a sub-header, the fallback or a creation sets. -/
structure PpmModel.Keeps (m n : PpmModel) : Prop where
  esc : n.esc = m.esc
  disabled : n.disabled = m.disabled
  order : n.order = m.order

theorem PpmModel.Keeps.refl (m : PpmModel) : m.Keeps m := ⟨rfl, rfl, rfl⟩

theorem PpmModel.Keeps.trans {m n o : PpmModel} (h : m.Keeps n) (k : n.Keeps o) : m.Keeps o :=
  ⟨k.esc.trans h.esc, k.disabled.trans h.disabled, k.order.trans h.order⟩

/-- The root and its 256 symbols, in the first 129 units. -/
def freshArena : List (Nat × Block) :=
  [(0, .ctx 256 256 (some 1) none), (1, .stats ((List.range 256).map fun i => ⟨BitVec.ofNat 8 i, 1, none⟩))]

/-- The model after a restart that succeeds. -/
def PpmModel.renewed (m : PpmModel) : PpmModel :=
  { m with see := seeInit, arena := freshArena, root := 0, minctx := some 0, ord := 0 }

theorem ppmRestart_of_fits {a : SubAlloc} (m : PpmModel) (h : 129 ≤ a.u) : ppmRestart m a = (true, m.renewed, .bare a.u 129) := by
  have hroot : a.reset.alloc 1 = (some 0, .bare a.u 1) := SubAlloc.bare_alloc_of_fits (brk := 0) (by omega)
  have hstats : (SubAlloc.bare a.u 1).alloc (Config.ppmMinUnits - 1) = (some 1, .bare a.u 129) :=
    SubAlloc.bare_alloc_of_fits (brk := 1) (n := 128) h
  simp only [ppmRestart, hroot, hstats]
  rfl

theorem ppmRestart_of_short {a : SubAlloc} (m : PpmModel) (h : a.u < 129) : (ppmRestart m a).1 = false := by
  by_cases h0 : a.u < 1
  · have hroot : a.reset.alloc 1 = (none, .bare a.u 0) := SubAlloc.bare_alloc_of_full (brk := 0) (by omega)
    simp only [ppmRestart, hroot]
  · have hroot : a.reset.alloc 1 = (some 0, .bare a.u 1) := SubAlloc.bare_alloc_of_fits (brk := 0) (by omega)
    have hstats : (SubAlloc.bare a.u 1).alloc (Config.ppmMinUnits - 1) = (none, .bare a.u 1) :=
      SubAlloc.bare_alloc_of_full (brk := 1) (n := 128) (by omega)
    simp only [ppmRestart, hroot, hstats]

theorem ppmRestart_keeps (m : PpmModel) (a : SubAlloc) : m.Keeps (ppmRestart m a).2.1 ∧ (ppmRestart m a).2.2.u = a.u := by
  rw [ppmRestart]
  split
  next hroot => exact ⟨⟨rfl, rfl, rfl⟩, (SubAlloc.u_of_alloc hroot).trans a.reset_u⟩
  next hroot =>
    have hu := (SubAlloc.u_of_alloc hroot).trans a.reset_u
    split
    next hstats => exact ⟨⟨rfl, rfl, rfl⟩, (SubAlloc.u_of_alloc hstats).trans hu⟩
    next hstats => exact ⟨⟨rfl, rfl, rfl⟩, (SubAlloc.u_of_alloc hstats).trans hu⟩

/-- `ppm_create` with enough units (R260, R262). -/
theorem ppmCreate_of_fits (m : PpmModel) (a : SubAlloc) (order : Nat) {units : Nat} (h : 129 ≤ units) :
    ppmCreate m a order units = ({ m with order := order, alloc := true }.renewed, .bare units 129) := by
  rw [ppmCreate, ppmRestart_of_fits _ h]
  rfl

theorem ppmCreate_of_short (m : PpmModel) (a : SubAlloc) (order : Nat) {units : Nat} (h : units < 129) :
    (ppmCreate m a order units).1.alloc = false :=
  ppmRestart_of_short { m with order := order } (a := { a with u := units }) h

theorem seeInit_toNat {i : Nat} (h : i < 16) : (seeInit[i]?).map BitVec.toNat = some (16 * (i / 2 + 1)) := by
  rw [Vector.getElem?_eq_getElem h, seeInit, Vector.getElem_ofFn, Option.map_some, BitVec.toNat_ofNat]
  show some ((i / 2 + 1) * 16 % 2 ^ 16) = _
  exact congrArg some (by omega)

theorem PpmModel.renewed_fresh {m : PpmModel} (h : m.alloc = true) : m.renewed.Fresh m.order where
  alloc := h
  order := rfl
  place := ⟨rfl, rfl, rfl⟩
  see _ := seeInit_toNat
  arena := rfl

/-- A created model is fresh. -/
theorem ppmCreate_fresh (m : PpmModel) (a : SubAlloc) (order : Nat) {units : Nat} (h : 129 ≤ units) :
    (ppmCreate m a order units).1.Fresh order := by
  rw [ppmCreate_of_fits m a order h]
  exact PpmModel.renewed_fresh rfl

theorem PpmModel.Fresh.context_root {m : PpmModel} {order : Nat} (h : m.Fresh order) :
    m.context 0 = some (256, 256, some 1, none) := by
  rw [PpmModel.context, h.arena]
  rfl

theorem PpmModel.Fresh.entries_root {m : PpmModel} {order : Nat} (h : m.Fresh order) :
    m.entries (some 1) = some ((List.range 256).map fun i => ⟨BitVec.ofNat 8 i, 1, none⟩) := by
  rw [PpmModel.entries, h.arena]
  rfl

/-! ### `PPM.INIT` -/

theorem exec_ppmInit_idle {s : State} (hi : s.isIdle = true) (order bytes : Word) :
    exec (.ppmInit order bytes) s = .next
      ((s.accept.createModel (clampOrder order.toNat) (bytes.toNat / 12)).setResult
        (bitWord (s.accept.createModel (clampOrder order.toNat) (bytes.toNat / 12)).ppm.alloc)) :=
  idleCommand_accept (fun s =>
    let s1 := s.createModel (clampOrder order.toNat) (bytes.toNat / Config.unitSize)
    s1.setResult (bitWord s1.ppm.alloc)) s true hi rfl

/-- Settles O23: `ppm_create` succeeds with 129 units, and then the model is fresh. -/
theorem ppmInitCreatesAFreshModel : Obligations.PpmInitCreatesAFreshModel := by
  intro s order bytes hi
  refine ⟨_, exec_ppmInit_idle hi order bytes, ?_⟩
  have hkeeps := (ppmRestart_keeps { s.ppm with order := clampOrder order.toNat } { s.sa with u := bytes.toNat / 12 }).1
  refine ⟨?_, rfl, ?_, hkeeps.esc, hkeeps.disabled, rfl⟩
  · show (ppmCreate s.ppm s.sa (clampOrder order.toNat) (bytes.toNat / 12)).1.alloc = true ↔ _
    by_cases h : 129 ≤ bytes.toNat / 12
    · exact iff_of_true (ppmCreate_fresh _ _ _ h).alloc h
    · exact iff_of_false (by rw [ppmCreate_of_short _ _ _ (Nat.not_le.1 h)]; exact Bool.false_ne_true) h
  · intro halloc
    have hunits : 129 ≤ bytes.toNat / 12 := by
      by_contra h
      have hshort := ppmCreate_of_short s.ppm s.sa (clampOrder order.toNat) (Nat.not_le.1 h)
      exact Bool.false_ne_true (hshort.symm.trans halloc)
    have hfresh := ppmCreate_fresh s.ppm s.sa (clampOrder order.toNat) hunits
    have hsa := congrArg Prod.snd (ppmCreate_of_fits s.ppm s.sa (clampOrder order.toNat) hunits)
    obtain ⟨hroot, hminctx, hord⟩ := hfresh.place
    exact ⟨hfresh.order, hroot, hminctx, hord, congrArg SubAlloc.u hsa, congrArg SubAlloc.brk hsa,
      (congrArg SubAlloc.freeBlocks hsa).trans (SubAlloc.bare_freeBlocks _ _), hfresh.see, hfresh.context_root, hfresh.entries_root⟩

end Sys2Proof.Machine
end

section
/-! PROOFS. The blocks of the PPM model (spec/45_ppm_model.md R255, R256): what a context and an entry list are after a block is
stored; and the two updates of the entries, one equation for each way they go (R272, R273). -/

namespace Sys2Proof.Machine

/-! ### Storing a block -/

section
variable (m : PpmModel) (i j : Nat) (b : Block)

theorem PpmModel.putBlock_keeps : m.Keeps (m.putBlock i b) := ⟨rfl, rfl, rfl⟩

@[simp] theorem PpmModel.context_putBlock_self (n f : BitVec 16) (st su : Option Nat) :
    (m.putBlock i (.ctx n f st su)).context i = some (n, f, st, su) := by
  simp only [PpmModel.context, PpmModel.putBlock, Sparse.find_put_self]

@[simp] theorem PpmModel.entries_putBlock_self (es : List Entry) : (m.putBlock i (.stats es)).entries (some i) = some es := by
  simp only [PpmModel.entries, PpmModel.putBlock, Sparse.find_put_self]

variable {i j}

@[simp] theorem PpmModel.context_putBlock_ne (h : j ≠ i) : (m.putBlock i b).context j = m.context j := by
  simp only [PpmModel.context, PpmModel.putBlock, Sparse.find_put_ne _ _ _ _ h]

@[simp] theorem PpmModel.entries_putBlock_ne (h : j ≠ i) : (m.putBlock i b).entries (some j) = m.entries (some j) := by
  simp only [PpmModel.entries, PpmModel.putBlock, Sparse.find_put_ne _ _ _ _ h]

end

/-! ### The frequency update (R272) -/

theorem saturated_iff (es : List Entry) (s : Byte) : saturated es s = true ↔ ∃ e ∈ es, e.sym = s ∧ e.freq = 255 := by
  have hmax (x : Byte) : x.toNat = Config.freqMax ↔ x = 255 := BitVec.toNat_inj (y := 255)
  simp only [saturated, List.any_eq_true, Bool.and_eq_true, beq_iff_eq, hmax]

theorem bumpEntries_of_saturated {es : List Entry} {s : Byte} (h : saturated es s = true) : bumpEntries es s =
    es.map fun e => { e with freq := BitVec.ofNat 8 ((e.freq.toNat + 1) / 2 + if e.sym = s then 1 else 0) } := by
  rw [bumpEntries, if_pos h, List.map_map]
  refine List.map_congr_left fun e _ => ?_
  dsimp only [Function.comp_apply]
  split
  · rw [BitVec.ofNat_add]
    rfl
  · rfl

theorem bumpEntries_of_unsaturated {es : List Entry} {s : Byte} (h : saturated es s = false) :
    bumpEntries es s = es.map fun e => { e with freq := e.freq + if e.sym = s then 1 else 0 } := by
  rw [bumpEntries, h, if_neg Bool.false_ne_true]
  refine List.map_congr_left fun e _ => ?_
  split
  · rfl
  · simp

section
variable {m : PpmModel} {c st : Nat} {n f : BitVec 16} {su : Option Nat} {es : List Entry}
variable (hc : m.context c = some (n, f, some st, su)) (hes : m.entries (some st) = some es)
include hc hes

/-- The context and its entries are stored anew, with the sum of the counts. -/
theorem PpmModel.bump_eq (s : Byte) : m.bump c s = some ((m.putBlock c (.ctx n
      (if saturated es s then BitVec.ofNat 16 (freqSum (bumpEntries es s)) else f + 1) (some st) su)).putBlock st
    (.stats (bumpEntries es s))) := by
  rw [PpmModel.bump, hc]
  dsimp only
  rw [hes]

/-- The entry of a symbol gets a child (R275). -/
theorem PpmModel.setChild_eq (s : Byte) (child : Nat) : m.setChild c s child =
    m.putBlock st (.stats (es.map fun e => if e.sym = s then { e with child := some child } else e)) := by
  rw [PpmModel.setChild, hc]
  dsimp only
  rw [hes]

theorem PpmModel.entryOf_eq (s : Byte) : m.entryOf c s = es.find? fun e => e.sym == s := by
  rw [PpmModel.entryOf, hc]
  dsimp only
  rw [hes]

end

/-! ### A new entry (R273) -/

/-- The model and the allocator with the block of the old entries, if there is one, given back. -/
def freeEntries (m : PpmModel) (a : SubAlloc) (n : Nat) : Option Nat → PpmModel × SubAlloc
  | some old => ({ m with arena := Sparse.erase m.arena old }, a.free old n)
  | none => (m, a)

theorem freeEntries_keeps (m : PpmModel) (a : SubAlloc) (n : Nat) (st : Option Nat) :
    m.Keeps (freeEntries m a n st).1 ∧ (freeEntries m a n st).2.u = a.u := by
  cases st <;> exact ⟨⟨rfl, rfl, rfl⟩, rfl⟩

section
variable {m : PpmModel} {a a1 : SubAlloc} {x old new : Nat} {n f : BitVec 16} {st su : Option Nat} {es : List Entry}

/-- An odd number of entries leaves room in the block. -/
theorem appendSymbol_odd (hx : m.context x = some (n, f, some old, su)) (hes : m.entries (some old) = some es)
    (hodd : n.toNat % 2 = 1) (s : Byte) : appendSymbol m a x s =
      .done ((m.putBlock old (.stats (es ++ [⟨s, 1, none⟩]))).putBlock x (.ctx (n + 1) (f + 1) (some old) su)) a := by
  rw [appendSymbol, hx]
  dsimp only
  rw [hes]
  exact if_neg (by omega)

variable (hx : m.context x = some (n, f, st, su)) (hes : m.entries st = some es) (heven : n.toNat % 2 = 0)
include hx hes heven

theorem appendSymbol_nomem (ha : (a.alloc (n.toNat / 2 + 1)).1 = none) (s : Byte) : appendSymbol m a x s = .nomem := by
  rw [appendSymbol, hx]
  dsimp only
  rw [hes]
  dsimp only
  rw [if_pos heven]
  split
  · rfl
  next h => rw [h] at ha; cases ha

/-- A full block is replaced. -/
theorem appendSymbol_even (ha : a.alloc (n.toNat / 2 + 1) = (some new, a1)) (s : Byte) : appendSymbol m a x s =
    .done (((freeEntries m a1 (n.toNat / 2) st).1.putBlock new (.stats (es ++ [⟨s, 1, none⟩]))).putBlock x
      (.ctx (n + 1) (f + 1) (some new) su)) (freeEntries m a1 (n.toNat / 2) st).2 := by
  rw [appendSymbol, hx]
  dsimp only
  rw [hes]
  dsimp only
  rw [if_pos heven, ha]
  cases st <;> rfl

end

/-! ### What `PPM.DECODE` does to the counts and the entries -/

/-- A halved count and one more fit a byte. -/
theorem toNat_halvedCount (x : Byte) (p : Prop) [Decidable p] :
    (BitVec.ofNat 8 ((x.toNat + 1) / 2 + if p then 1 else 0)).toNat = (x.toNat + 1) / 2 + if p then 1 else 0 := by
  have hx := x.isLt
  rw [BitVec.toNat_ofNat]
  exact Nat.mod_eq_of_lt (by split <;> omega)

/-- The frequency update of R272, as O24 states it. -/
theorem bump_counts (m : PpmModel) (c st : Nat) (n f : BitVec 16) (su : Option Nat) (es : List Entry) (b : Byte) (hne : c ≠ st)
    (hc : m.context c = some (n, f, some st, su)) (hes : m.entries (some st) = some es) :
    let full := ∃ e ∈ es, e.sym = b ∧ e.freq = 255
    let count (e : Entry) : Nat := (if full then (e.freq.toNat + 1) / 2 else e.freq.toNat) + if e.sym = b then 1 else 0
    ∃ m1, m.bump c b = some m1 ∧
      m1.entries (some st) = some (es.map fun e => { e with freq := BitVec.ofNat 8 (count e) }) ∧
      m1.context c = some (n, if full then BitVec.ofNat 16 (es.map count).sum else f + 1, some st, su) ∧
      (∀ i, i ≠ c → i ≠ st → Sparse.find m1.arena i = Sparse.find m.arena i) ∧ m1 = { m with arena := m1.arena } := by
  intro full count
  refine ⟨_, PpmModel.bump_eq hc hes b, ?_, ?_, fun i hic hist => ?_, rfl⟩
  · rw [PpmModel.entries_putBlock_self]
    by_cases h : full
    · simp only [bumpEntries_of_saturated ((saturated_iff es b).2 h), count, if_pos h]
    · rw [bumpEntries_of_unsaturated (Bool.eq_false_iff.2 (mt (saturated_iff es b).1 h))]
      refine congrArg some (List.map_congr_left fun e _ => ?_)
      simp only [count, if_neg h, BitVec.ofNat_add, BitVec.ofNat_toNat, BitVec.setWidth_eq]
      split <;> rfl
  · rw [PpmModel.context_putBlock_ne _ _ hne, PpmModel.context_putBlock_self]
    by_cases h : full
    · have hsat := (saturated_iff es b).2 h
      simp only [hsat, bumpEntries_of_saturated hsat, freqSum, List.map_map, Function.comp_def, toNat_halvedCount, count, if_pos h]
      rfl
    · rw [if_neg (mt (saturated_iff es b).1 h), if_neg h]
  · exact (Sparse.find_put_ne _ _ _ _ hist).trans (Sparse.find_put_ne _ _ _ _ hic)

/-- The append of R273, as O24 states it. -/
theorem appendSymbol_grows (m : PpmModel) (a : SubAlloc) (x : Nat) (n f : BitVec 16) (st su : Option Nat) (es : List Entry) (b : Byte)
    (hx : m.context x = some (n, f, st, su)) (hes : m.entries st = some es) (hnone : st = none ↔ n = 0) (hne : st ≠ some x) :
    (n.toNat % 2 = 1 → ∃ m1, appendSymbol m a x b = .done m1 a ∧ m1.entries st = some (es ++ [⟨b, 1, none⟩]) ∧
      m1.context x = some (n + 1, f + 1, st, su)) ∧
    (n.toNat % 2 = 0 → (a.alloc (n.toNat / 2 + 1)).1 = none → appendSymbol m a x b = .nomem) ∧
    (n.toNat % 2 = 0 → ∀ new, (a.alloc (n.toNat / 2 + 1)).1 = some new → new ≠ x →
      ∃ m1 a1, appendSymbol m a x b = .done m1 a1 ∧ m1.entries (some new) = some (es ++ [⟨b, 1, none⟩]) ∧
        m1.context x = some (n + 1, f + 1, some new, su) ∧
        (∀ old, st = some old → a1 = (a.alloc (n.toNat / 2 + 1)).2.free old (n.toNat / 2)) ∧
        (st = none → a1 = (a.alloc (n.toNat / 2 + 1)).2)) := by
  refine ⟨fun hodd => ?_, fun heven ha => appendSymbol_nomem hx hes heven ha b, fun heven new ha hnew => ?_⟩
  · cases st with
    | none => rw [hnone.1 rfl] at hodd; cases hodd
    | some old =>
      have hold : old ≠ x := fun h => hne (congrArg some h)
      exact ⟨_, appendSymbol_odd hx hes hodd b, by rw [PpmModel.entries_putBlock_ne _ _ hold, PpmModel.entries_putBlock_self],
        PpmModel.context_putBlock_self _ _ _ _ _ _⟩
  · refine ⟨_, _, appendSymbol_even hx hes heven (Prod.ext ha rfl) b, ?_, PpmModel.context_putBlock_self _ _ _ _ _ _, ?_, ?_⟩
    · rw [PpmModel.entries_putBlock_ne _ _ hnew, PpmModel.entries_putBlock_self]
    · rintro old rfl
      rfl
    · rintro rfl
      rfl

end Sys2Proof.Machine
end

section
/-! PROOFS. `PPM.DECODE` completes on a port that meets no error (spec/45_ppm_model.md R264, R287): what each part of the decoder
leaves alone, under one contract. -/

namespace Sys2Proof.Machine

/-! ### The model updates -/

/-- A model update that is done keeps the order, `ESC`, `PPM_DISABLED` and `U`. -/
def Update.Keeps (m : PpmModel) (a : SubAlloc) : Update → Prop
  | .done n b => m.Keeps n ∧ b.u = a.u
  | .nomem => True
  | .broken => True

theorem Update.Keeps.of_done {m n : PpmModel} {a b : SubAlloc} {u : Update} (hm : m.Keeps n) (ha : b.u = a.u) (h : u.Keeps n b) :
    u.Keeps m a := by
  cases u with
  | done n b => exact ⟨hm.trans h.1, h.2.trans ha⟩
  | nomem => trivial
  | broken => trivial

theorem PpmModel.bump_keeps {m n : PpmModel} {c : Nat} {s : Byte} (h : m.bump c s = some n) : m.Keeps n := by
  unfold PpmModel.bump at h
  split at h
  · split at h
    · cases h
      exact ⟨rfl, rfl, rfl⟩
    · cases h
  · cases h

theorem PpmModel.setChild_keeps (m : PpmModel) (x : Nat) (s : Byte) (c : Nat) : m.Keeps (m.setChild x s c) := by
  unfold PpmModel.setChild
  split
  · split
    · exact m.putBlock_keeps _ _
    · exact .refl m
  · exact .refl m

theorem appendSymbol_keeps (m : PpmModel) (a : SubAlloc) (x : Nat) (s : Byte) : (appendSymbol m a x s).Keeps m a := by
  cases hx : m.context x with
  | none => simp only [appendSymbol, hx, Update.Keeps]
  | some ctx =>
    obtain ⟨n, f, st, su⟩ := ctx
    cases hes : m.entries st with
    | none => simp only [appendSymbol, hx, hes, Update.Keeps]
    | some es =>
      obtain heven | hodd := Nat.mod_two_eq_zero_or_one n.toNat
      · cases ha : a.alloc (n.toNat / 2 + 1) with
        | mk r a1 =>
          cases r with
          | none =>
            rw [appendSymbol_nomem hx hes heven (congrArg Prod.fst ha)]
            trivial
          | some new =>
            rw [appendSymbol_even hx hes heven ha]
            obtain ⟨hm, hu⟩ := freeEntries_keeps m a1 (n.toNat / 2) st
            exact ⟨⟨hm.esc, hm.disabled, hm.order⟩, hu.trans (SubAlloc.u_of_alloc ha)⟩
      · cases st with
        | none => simp [appendSymbol, hx, hes, hodd, Update.Keeps]
        | some old =>
          rw [appendSymbol_odd hx hes hodd]
          exact ⟨⟨rfl, rfl, rfl⟩, rfl⟩

theorem appendAll_keeps (m : PpmModel) (a : SubAlloc) (s : Byte) (l : List Nat) : (appendAll m a s l).Keeps m a := by
  induction l generalizing m a with
  | nil => exact ⟨.refl m, rfl⟩
  | cons x t ih =>
    have hx := appendSymbol_keeps m a x s
    rw [appendAll]
    cases hu : appendSymbol m a x s with
    | done n b =>
      rw [hu] at hx
      exact .of_done hx.1 hx.2 (ih n b)
    | nomem => trivial
    | broken => trivial

theorem linkChildren_keeps (m : PpmModel) (a : SubAlloc) (s : Byte) (lower : Option Nat) (l : List Nat) :
    (linkChildren m a s lower l).1.Keeps m a := by
  induction l generalizing m a lower with
  | nil => exact ⟨.refl m, rfl⟩
  | cons x t ih =>
    rw [linkChildren]
    split
    · trivial
    · split
      · exact ih m a _
      · split
        · trivial
        next ha => exact .of_done ((m.putBlock_keeps _ _).trans (PpmModel.setChild_keeps _ _ _ _)) (SubAlloc.u_of_alloc ha) (ih _ _ _)

theorem ppmUpdate_keeps (m : PpmModel) (a : SubAlloc) (c : Nat) (s : Byte) (escaped : List Nat) :
    (ppmUpdate m a c s escaped).Keeps m a := by
  unfold ppmUpdate
  split
  · trivial
  next m1 hbump =>
    refine .of_done (PpmModel.bump_keeps hbump) rfl ?_
    have hall := appendAll_keeps m1 a s escaped
    split
    next m2 a2 happend =>
      rw [happend] at hall
      refine .of_done hall.1 hall.2 ?_
      have hlink := linkChildren_keeps m2 a2 s none ((m2.chain (m2.ord + 1) m2.minctx).reverse.take m2.order)
      split
      next hl =>
        rw [hl] at hlink
        exact ⟨⟨hlink.1.esc, hlink.1.disabled, hlink.1.order⟩, hlink.2⟩
      next hl =>
        rw [hl] at hlink
        exact hlink
    · exact hall

/-! ### The decoding loop under a contract -/

/-- What a contract needs so that the decoding loop keeps it. -/
structure Contract.Coding (K : Contract PpmWorld Halt) : Prop where
  coder : ∀ (w : PpmWorld) (rc : RangeCoder), K.rel w { w with rc := rc }
  see : ∀ (w : PpmWorld) (i v : Nat), K.rel w { w with ppm := w.ppm.setSee i v }
  byte : ∀ w, K.Holds rcShiftIn w

section
variable {K : Contract PpmWorld Halt} (hK : K.Coding)
include hK

theorem Contract.Coding.rcNormalise (fuel : Nat) (w : PpmWorld) : K.Holds (rcNormalise fuel) w := by
  induction fuel generalizing w with
  | zero => exact .pure trivial
  | succ fuel ih =>
    refine .get ?_
    cases w.rc.unsettled with
    | none => exact .pure trivial
    | some range =>
      exact .bind (.update (hK.coder _ _)) fun _ _ _ => .bind (hK.byte _) fun _ _ _ =>
        .bind (.update (hK.coder _ _)) fun _ _ _ => ih _

theorem Contract.Coding.rcUpdate (cum f : Nat) (w : PpmWorld) : K.Holds (rcUpdate cum f) w :=
  .bind (.update (hK.coder _ _)) fun _ _ _ => .get (hK.rcNormalise _ _)

theorem Contract.Coding.ppmWalk (fuel : Nat) (c : Option Nat) (mask : List Byte) (escaped : List Nat) (w : PpmWorld) :
    K.Holds (ppmWalk fuel c mask escaped) w := by
  induction fuel generalizing c mask escaped w with
  | zero => exact .pure trivial
  | succ fuel ih =>
    cases c with
    | none => exact .pure trivial
    | some c =>
      refine .get ?_
      split
      · exact .pure trivial
      split
      · exact .pure trivial
      dsimp only
      split
      · exact ih _ _ _ _
      refine .bind (.set (hK.coder _ _)) fun _ _ _ => ?_
      split
      · exact .pure trivial
      split
      · split
        · exact .pure trivial
        · exact .bind (hK.rcUpdate _ _ _) fun _ _ _ => .bind (.update (hK.see _ _ _)) fun _ _ _ => .pure trivial
      · exact .bind (hK.rcUpdate _ _ _) fun _ _ _ => .bind (.update (hK.see _ _ _)) fun _ _ _ => ih _ _ _ _

end

/-! ### The decode completes -/

/-- The port stays without error, `BITPOS` does not go back, and the order, `ESC`, `PPM_DISABLED` and `U` stay. -/
structure PpmWorld.Decodes (w v : PpmWorld) : Prop where
  ready : w.cur.ready = true → v.cur.ready = true
  bitpos : w.cur.bitpos ≤ v.cur.bitpos
  ppm : w.ppm.Keeps v.ppm
  sa : v.sa.u = w.sa.u

theorem PpmWorld.Decodes.refl (w : PpmWorld) : w.Decodes w := ⟨id, Nat.le_refl _, .refl _, rfl⟩

theorem PpmWorld.Decodes.trans {w v u : PpmWorld} (h : w.Decodes v) (k : v.Decodes u) : w.Decodes u :=
  ⟨k.ready ∘ h.ready, h.bitpos.trans k.bitpos, h.ppm.trans k.ppm, k.sa.trans h.sa⟩

/-- On a port that meets no error nothing abandons the decode. -/
def readyContract : Contract PpmWorld Halt where
  pre w := w.cur.ready = true
  rel := PpmWorld.Decodes
  err _ := False
  refl := .refl
  trans := .trans
  keeps hw h := h.ready hw

/-- A byte of the stream is read (R127). -/
theorem rcShiftIn_completes (w : PpmWorld) : readyContract.Holds rcShiftIn w := by
  have hok (hw : w.cur.ready = true) : ∃ v, rcShiftIn w = .ok () v ∧ w.Decodes v := by
    obtain ⟨d, hd, hahead⟩ := getbits_ahead hw (n := 8) (by decide)
    have hbyte : PpmM.ofCur getbyte w = .ok (w.cur.streamNat 0 8) { w with cur := d } := ofCur_of_ok hd
    exact ⟨_, (bind_of_ok hbyte).trans rfl, fun _ => hahead.ready hw, hahead.bitpos ▸ Nat.le_add_right _ _, .refl _, rfl⟩
  constructor
  · intro _ t hw hx
    obtain ⟨v, hv, hdec⟩ := hok hw
    cases hv.symm.trans hx
    exact ⟨hdec, trivial⟩
  · intro _ t hw hx
    obtain ⟨v, hv, -⟩ := hok hw
    cases hv.symm.trans hx

theorem readyContract_coding : readyContract.Coding where
  coder _ _ := ⟨id, Nat.le_refl _, .refl _, rfl⟩
  see _ _ _ := ⟨id, Nat.le_refl _, ⟨rfl, rfl, rfl⟩, rfl⟩
  byte := rcShiftIn_completes

theorem Contract.Holds.completes {α : Type} {x : PpmM α} {w : PpmWorld} (h : readyContract.Holds x w) (hw : w.cur.ready = true) :
    ∃ a v, x w = .ok a v ∧ w.Decodes v := by
  cases hx : x w with
  | ok a v => exact ⟨a, v, rfl, (h.ok hw hx).1⟩
  | error e v => exact (h.error hw hx).2.elim

theorem ppmDecode_completes (w : PpmWorld) : readyContract.Holds ppmDecode w := by
  refine .get (.bind (readyContract_coding.ppmWalk _ _ _ _ w) fun r v _ => ?_)
  cases r with
  | stop r => exact .pure trivial
  | found c b escaped =>
    refine .get ?_
    have hupdate := ppmUpdate_keeps v.ppm v.sa c b escaped
    have hrestart := ppmRestart_keeps v.ppm v.sa
    split
    next h =>
      rw [h] at hupdate
      exact .bind (.set ⟨id, Nat.le_refl _, hupdate.1, hupdate.2⟩) fun _ _ _ => .pure trivial
    · exact .pure trivial
    · generalize ppmRestart v.ppm v.sa = restart at hrestart
      obtain ⟨ok, m, a⟩ := restart
      obtain ⟨⟨hesc, hdisabled, horder⟩, hu⟩ := hrestart
      refine .bind (.set ⟨id, Nat.le_refl _, ⟨hesc, hdisabled, horder⟩, hu⟩) fun _ _ _ => ?_
      cases ok <;> exact .pure trivial

/-! ### The command -/

theorem onPpmQuietly_of_ok {α : Type} {x : PpmM α} {s : State} {a : α} {w : PpmWorld} (h : x s.world = .ok a w) :
    onPpmQuietly x s = .ok a (s.setWorld w) := by
  simp only [onPpmQuietly, h]

/-- `PPM.DECODE` with a model, where the decode completes. -/
theorem exec_ppmDecode_idle {s : State} {r : PpmResult} {w : PpmWorld} (hi : s.isIdle = true) (ha : s.ppm.alloc = true)
    (h : ppmDecode s.world = .ok r w) : exec .ppmDecode s = .next ((s.accept.setWorld w).setResult r.code) :=
  portCommand_some hi ha ((bind_of_ok (onPpmQuietly_of_ok (s := s.accept) h)).trans rfl)

theorem PpmResult.code_le (r : PpmResult) : r.code.toNat ≤ 0x102 := by
  cases r with
  | byte b =>
    have hb := b.isLt
    rw [PpmResult.code, BitVec.toNat_setWidth]
    omega
  | endSegment | corrupt | nomem => decide

/-- Settles O24: nothing abandons the decode, and the two updates of its byte are those of R272 and R273. -/
theorem ppmDecodeGivesAByteOrASentinel : Obligations.PpmDecodeGivesAByteOrASentinel := by
  refine ⟨fun s hi ha hready => ?_, fun m c st n f su es b hne hc hes _ => bump_counts m c st n f su es b hne hc hes,
    fun m a x n f st su es b hx hes hnone hne _ => appendSymbol_grows m a x n f st su es b hx hes hnone hne⟩
  obtain ⟨r, w, hrun, hdec⟩ := (ppmDecode_completes s.world).completes hready
  exact ⟨_, exec_ppmDecode_idle hi ha hrun, r.code_le, hdec.bitpos, hdec.ppm.esc, hdec.ppm.disabled, hdec.ppm.order, hdec.sa, rfl⟩

end Sys2Proof.Machine
end

section
/-! PROOFS. The decoding loop of `ppm_decode` (spec/45_ppm_model.md R265): one equation for each way it goes on from a context, and how
a decision without masked symbols comes out at the root, on a port that meets no error. -/

namespace Sys2Proof.Machine

/-! ### One context -/

theorem set_bind {σ ε β : Type} (t : σ) (f : PUnit → EStateM ε σ β) (s : σ) : (set t >>= f) s = f ⟨⟩ t := rfl

section
variable {w : PpmWorld} {c : Nat} {n f : BitVec 16} {st su : Option Nat} {es : List Entry}
variable (hc : w.ppm.context c = some (n, f, st, su)) (fuel : Nat) (escaped : List Nat)
include hc

/-- A context without entries is passed without a coded decision. -/
theorem ppmWalk_empty (hes : w.ppm.entries st = some []) (mask : List Byte) :
    ppmWalk (fuel + 1) (some c) mask escaped w = ppmWalk fuel su mask (escaped ++ [c]) w := by
  rw [ppmWalk, get_bind, hc]
  dsimp only
  rw [hes]
  rfl

/-- A coded decision: no symbol, one of the live entries, or an escape. -/
theorem ppmWalk_coded {mask : List Byte} {live : List Entry} {i total k : Nat} {rc : RangeCoder}
    (hes : w.ppm.entries st = some es) (hlive : (es.filter fun e => !mask.contains e.sym) = live) (hne : live ≠ [])
    (hi : seeIndex live.length (!mask.isEmpty) = i) (htotal : freqSum live + max 1 (w.ppm.seeAt i / 16) = total)
    (hcount : w.rc.count total = (k, rc)) :
    (total ≤ k → ppmWalk (fuel + 1) (some c) mask escaped w = .ok (.stop .corrupt) { w with rc := rc }) ∧
    (∀ e cum, k < total → k < freqSum live → findLive live 0 k = some (e, cum) → ppmWalk (fuel + 1) (some c) mask escaped w =
      (do
        rcUpdate cum e.freq.toNat
        modify fun s => { s with ppm := s.ppm.setSee i (s.ppm.seeAt i - s.ppm.seeAt i / 32) }
        pure (.found c e.sym escaped) : PpmM Walk) { w with rc := rc }) ∧
    (k < total → freqSum live ≤ k → ppmWalk (fuel + 1) (some c) mask escaped w =
      (do
        rcUpdate (freqSum live) (max 1 (w.ppm.seeAt i / 16))
        modify fun s => { s with ppm := s.ppm.setSee i (min (s.ppm.seeAt i + 16) 4080) }
        ppmWalk fuel su (mask ++ live.map (·.sym)) (escaped ++ [c]) : PpmM Walk) { w with rc := rc }) := by
  have hempty : live.isEmpty = false := List.isEmpty_eq_false_iff.2 hne
  rw [ppmWalk, get_bind, hc]
  dsimp only
  rw [hes]
  dsimp only
  rw [hlive, hempty, if_neg Bool.false_ne_true, hi, htotal, hcount]
  dsimp only
  rw [set_bind]
  refine ⟨fun h => ?_, fun e cum h hk hfind => ?_, fun h hk => ?_⟩
  · rw [if_pos h]
    rfl
  · rw [if_neg (Nat.not_le.2 h), if_pos hk, hfind]
  · rw [if_neg (Nat.not_le.2 h), if_neg (Nat.not_lt.2 hk)]

end

/-! ### The decision at the root -/

/-- The entry whose interval holds the count starts at or below it. -/
theorem le_of_findLive {es : List Entry} {cum k start : Nat} {e : Entry} (h : findLive es cum k = some (e, start)) (hk : cum ≤ k) :
    start ≤ k ∧ k < start + e.freq.toNat ∧ start + e.freq.toNat ≤ cum + freqSum es := by
  induction es generalizing cum with
  | nil => cases h
  | cons x t ih =>
    have hsum : freqSum (x :: t) = x.freq.toNat + freqSum t := List.sum_cons
    rw [findLive] at h
    split at h
    next hlt =>
      cases h
      exact ⟨hk, hlt, by omega⟩
    next hge =>
      obtain ⟨h1, h2, h3⟩ := ih h (Nat.not_lt.1 hge)
      exact ⟨h1, h2, by omega⟩

theorem filter_unmasked (es : List Entry) : (es.filter fun e => !([] : List Byte).contains e.sym) = es :=
  List.filter_eq_self.2 fun _ _ => rfl

/-- The count `rc_count(T)` gives (R242). -/
def RangeCoder.countIn (r : RangeCoder) (total : Nat) : Nat := (r.code - r.low).toNat / (r.range.toNat / total)

/-- The world stands at a root of entries `es` with no symbol masked, `total` shares of a large range to divide, and a port that
meets no error. -/
structure PpmWorld.AtRoot (w : PpmWorld) (c : Nat) (es : List Entry) (i total : Nat) : Prop where
  context : ∃ n f st, w.ppm.context c = some (n, f, st, none) ∧ w.ppm.entries st = some es
  nonempty : es ≠ []
  index : seeIndex es.length false = i
  shares : freqSum es + max 1 (w.ppm.seeAt i / 16) = total
  small : total < 2 ^ 16
  range : 2 ^ 16 ≤ w.rc.range.toNat
  ready : w.cur.ready = true

namespace PpmWorld.AtRoot

variable {w : PpmWorld} {c i total : Nat} {es : List Entry} (h : w.AtRoot c es i total)
include h

/-- A decision on a large range and a port without error completes and leaves the range large (R245). -/
theorem rcUpdate_completes {cum f : Nat} (hf : 1 ≤ f) (hcum : cum + f ≤ total) : ∃ v,
    rcUpdate cum f { w with rc := (w.rc.count total).2 } = .ok () v ∧ 2 ^ 16 ≤ v.rc.range.toNat ∧ v.ppm = w.ppm ∧ v.sa = w.sa := by
  obtain ⟨_, v, hv, -⟩ := (readyContract_coding.rcUpdate cum f { w with rc := (w.rc.count total).2 }).completes h.ready
  obtain ⟨-, -, -, hupdate⟩ := coderRangeStaysLarge w v total cum f h.range hf hcum h.small
  exact ⟨v, hv, hupdate hv⟩

theorem count_eq : w.rc.count total = (w.rc.countIn total, (w.rc.count total).2) := by
  have htotal : 1 ≤ total := by
    have hshares := h.shares
    omega
  obtain ⟨-, -, hcount, -⟩ := coderRangeStaysLarge w w total 0 1 h.range (Nat.le_refl 1) htotal h.small
  exact Prod.ext hcount rfl

variable (fuel : Nat) (escaped : List Nat)

theorem walk_corrupt (hk : total ≤ w.rc.countIn total) :
    ppmWalk (fuel + 1) (some c) [] escaped w = .ok (.stop .corrupt) { w with rc := (w.rc.count total).2 } := by
  obtain ⟨n, f, st, hc, hes⟩ := h.context
  obtain ⟨hcorrupt, -, -⟩ := ppmWalk_coded hc fuel escaped (mask := []) hes (filter_unmasked es) h.nonempty h.index h.shares h.count_eq
  exact hcorrupt hk

/-- The symbol is found, and the escape estimate falls (R268). -/
theorem walk_found {e : Entry} {cum : Nat} (hk : w.rc.countIn total < freqSum es)
    (hfind : findLive es 0 (w.rc.countIn total) = some (e, cum)) :
    ∃ v, ppmWalk (fuel + 1) (some c) [] escaped w = .ok (.found c e.sym escaped) v ∧ 2 ^ 16 ≤ v.rc.range.toNat ∧
      v.ppm = w.ppm.setSee i (w.ppm.seeAt i - w.ppm.seeAt i / 32) ∧ v.sa = w.sa := by
  obtain ⟨n, f, st, hc, hes⟩ := h.context
  obtain ⟨hle, hlt, hsum⟩ := le_of_findLive hfind (Nat.zero_le _)
  have htotal := h.shares
  obtain ⟨v, hv, hrange, hppm, hsa⟩ := h.rcUpdate_completes (cum := cum) (f := e.freq.toNat) (by omega) (by omega)
  refine ⟨{ v with ppm := v.ppm.setSee i (v.ppm.seeAt i - v.ppm.seeAt i / 32) }, ?_, hrange, by rw [hppm], hsa⟩
  obtain ⟨-, hfound, -⟩ := ppmWalk_coded hc fuel escaped (mask := []) hes (filter_unmasked es) h.nonempty h.index h.shares h.count_eq
  rw [hfound e cum (by omega) hk hfind, bind_of_ok hv]
  rfl

/-- An escape from the root ends the segment, and the escape estimate rises (R268, R271). -/
theorem walk_escape (hlow : freqSum es ≤ w.rc.countIn total) (hk : w.rc.countIn total < total) :
    ∃ v, ppmWalk (fuel + 2) (some c) [] escaped w = .ok (.stop .endSegment) v ∧ 2 ^ 16 ≤ v.rc.range.toNat ∧
      v.ppm = w.ppm.setSee i (min (w.ppm.seeAt i + 16) 4080) ∧ v.sa = w.sa := by
  obtain ⟨n, f, st, hc, hes⟩ := h.context
  obtain ⟨v, hv, hrange, hppm, hsa⟩ :=
    h.rcUpdate_completes (cum := freqSum es) (f := max 1 (w.ppm.seeAt i / 16)) (Nat.le_max_left _ _) h.shares.le
  refine ⟨{ v with ppm := v.ppm.setSee i (min (v.ppm.seeAt i + 16) 4080) }, ?_, hrange, by rw [hppm], hsa⟩
  obtain ⟨-, -, hescape⟩ :=
    ppmWalk_coded hc (fuel + 1) escaped (mask := []) hes (filter_unmasked es) h.nonempty h.index h.shares h.count_eq
  rw [hescape hk hlow, bind_of_ok hv]
  rfl

end PpmWorld.AtRoot

/-! ### How a decode ends -/

section
variable {w v : PpmWorld} {c : Nat} {b : Byte} {escaped : List Nat} {m : PpmModel} {a : SubAlloc}

theorem ppmDecode_of_stop {r : PpmResult} (h : ppmWalk (w.ppm.ord + 2) w.ppm.minctx [] [] w = .ok (.stop r) v) :
    ppmDecode w = .ok r v := by
  rw [ppmDecode, get_bind, bind_of_ok h]
  rfl

variable (h : ppmWalk (w.ppm.ord + 2) w.ppm.minctx [] [] w = .ok (.found c b escaped) v)
include h

theorem ppmDecode_of_done (hupdate : ppmUpdate v.ppm v.sa c b escaped = .done m a) :
    ppmDecode w = .ok (.byte b) { v with ppm := m, sa := a } := by
  rw [ppmDecode, get_bind, bind_of_ok h]
  dsimp only
  rw [get_bind, hupdate]
  rfl

/-- The restart after an update that the memory is too small for (R279). -/
theorem ppmDecode_of_nomem (hupdate : ppmUpdate v.ppm v.sa c b escaped = .nomem) (hu : 129 ≤ v.sa.u) :
    ppmDecode w = .ok (.byte b) { v with ppm := v.ppm.renewed, sa := .bare v.sa.u 129, restarted := true } := by
  rw [ppmDecode, get_bind, bind_of_ok h]
  dsimp only
  rw [get_bind, hupdate]
  dsimp only
  rw [ppmRestart_of_fits v.ppm hu]
  rfl

end

end Sys2Proof.Machine
end

section
/-! PROOFS. The entries of the root, one for each byte in order (spec/45_ppm_model.md R261): where a count falls among them, and
what the updates make of them. -/

namespace Sys2Proof.Machine

/-- Entries for the symbols of `l`. -/
def byteEntries (freq : Nat → Byte) (child : Nat → Option Nat) (l : List Nat) : List Entry :=
  l.map fun i => ⟨BitVec.ofNat 8 i, freq i, child i⟩

/-- Entries for all bytes. -/
abbrev rootEntries (freq : Nat → Byte) (child : Nat → Option Nat) : List Entry := byteEntries freq child (List.range 256)

theorem ofNat8_inj {i j : Nat} (hi : i < 256) (hj : j < 256) : BitVec.ofNat 8 i = BitVec.ofNat 8 j ↔ i = j := by
  rw [← BitVec.toNat_inj, BitVec.toNat_ofNat, BitVec.toNat_ofNat, Nat.mod_eq_of_lt hi, Nat.mod_eq_of_lt hj]

section
variable (freq : Nat → Byte) (child : Nat → Option Nat)

theorem freqSum_byteEntries (l : List Nat) : freqSum (byteEntries freq child l) = (l.map fun i => (freq i).toNat).sum := by
  rw [freqSum, byteEntries, List.map_map]
  rfl

theorem rootEntries_ne_nil : rootEntries freq child ≠ [] := by
  simp [rootEntries, byteEntries]

theorem length_rootEntries : (rootEntries freq child).length = 256 := by
  simp [rootEntries, byteEntries]

/-- The entries before that of symbol `b`, and those after it. -/
theorem rootEntries_split {b : Nat} (hb : b < 256) :
    ∃ t, rootEntries freq child = byteEntries freq child (List.range b) ++ ⟨BitVec.ofNat 8 b, freq b, child b⟩ :: t := by
  refine ⟨byteEntries freq child ((List.range (255 - b)).map fun j => b + (j + 1)), ?_⟩
  have hrange : List.range 256 = List.range b ++ b :: (List.range (255 - b)).map fun j => b + (j + 1) := by
    rw [show 256 = b + (255 - b + 1) by omega, List.range_add, List.range_succ_eq_map, List.map_cons, List.map_map]
    rfl
  rw [rootEntries, hrange, byteEntries, List.map_append]
  rfl

/-! ### The search -/

/-- A count is in the interval of the entry after those whose sum it reaches (R265). -/
theorem findLive_append {es t : List Entry} {e : Entry} {cum k : Nat} (hlow : cum + freqSum es ≤ k)
    (hk : k < cum + freqSum es + e.freq.toNat) : findLive (es ++ e :: t) cum k = some (e, cum + freqSum es) := by
  induction es generalizing cum with
  | nil => exact if_pos hk
  | cons x l ih =>
    have hsum : freqSum (x :: l) = x.freq.toNat + freqSum l := List.sum_cons
    rw [List.cons_append, findLive, if_neg (by omega), ih (by omega) (by omega), hsum, Nat.add_assoc]

theorem findLive_rootEntries {b k : Nat} (hb : b < 256) (hlow : ((List.range b).map fun i => (freq i).toNat).sum ≤ k)
    (hk : k < ((List.range b).map fun i => (freq i).toNat).sum + (freq b).toNat) : ∃ cum,
    findLive (rootEntries freq child) 0 k = some (⟨BitVec.ofNat 8 b, freq b, child b⟩, cum) := by
  obtain ⟨t, ht⟩ := rootEntries_split freq child hb
  rw [← freqSum_byteEntries freq child] at hlow hk
  rw [ht]
  exact ⟨_, findLive_append (by omega) (by dsimp only; omega)⟩

theorem find_rootEntries {b : Nat} (hb : b < 256) : (rootEntries freq child).find? (fun e => e.sym == BitVec.ofNat 8 b) =
    some ⟨BitVec.ofNat 8 b, freq b, child b⟩ := by
  obtain ⟨t, ht⟩ := rootEntries_split freq child hb
  rw [List.find?_eq_some_iff_append]
  refine ⟨beq_self_eq_true _, _, t, ht, fun e he => ?_⟩
  obtain ⟨i, hi, rfl⟩ := List.mem_map.1 he
  have hib : i < b := List.mem_range.1 hi
  simpa [ofNat8_inj (hib.trans hb) hb] using hib.ne

/-! ### The updates -/

/-- The symbol's count grows by one (R272). -/
theorem bumpEntries_rootEntries {b : Nat} (hb : b < 256) (hfreq : ∀ i < 256, freq i ≠ 255) :
    saturated (rootEntries freq child) (BitVec.ofNat 8 b) = false ∧
    bumpEntries (rootEntries freq child) (BitVec.ofNat 8 b) = rootEntries (fun i => freq i + if i = b then 1 else 0) child := by
  have hsat : saturated (rootEntries freq child) (BitVec.ofNat 8 b) = false := by
    refine Bool.eq_false_iff.2 fun h => ?_
    obtain ⟨e, he, -, hfull⟩ := (saturated_iff _ _).1 h
    obtain ⟨i, hi, rfl⟩ := List.mem_map.1 he
    exact hfreq i (List.mem_range.1 hi) hfull
  refine ⟨hsat, ?_⟩
  rw [bumpEntries_of_unsaturated hsat, rootEntries, byteEntries, List.map_map]
  refine List.map_congr_left fun i hi => ?_
  simp only [Function.comp_apply, ofNat8_inj (List.mem_range.1 hi) hb]

/-- The symbol's entry gets a child (R275). -/
theorem map_child_rootEntries {b : Nat} (hb : b < 256) (c : Nat) :
    ((rootEntries freq child).map fun e => if e.sym = BitVec.ofNat 8 b then { e with child := some c } else e) =
    rootEntries freq fun i => if i = b then some c else child i := by
  rw [rootEntries, byteEntries, List.map_map]
  refine List.map_congr_left fun i hi => ?_
  simp only [Function.comp_apply, ofNat8_inj (List.mem_range.1 hi) hb]
  split <;> rfl

end

/-! ### The counts of the first two decodes -/

/-- Every count is 1 but that of `k`, which is 2. -/
def doubledAt (k i : Nat) : Byte := if i = k then 2 else 1

theorem toNat_doubledAt (k i : Nat) : (doubledAt k i).toNat = if i = k then 2 else 1 := by
  rw [doubledAt]
  split <;> rfl

theorem sum_ones (n : Nat) : ((List.range n).map fun _ => (1 : Byte).toNat).sum = n := by
  simp

theorem sum_doubledAt (k n : Nat) : ((List.range n).map fun i => (doubledAt k i).toNat).sum = n + if k < n then 1 else 0 := by
  induction n with
  | zero => rfl
  | succ n ih =>
    rw [List.sum_range_succ, ih, toNat_doubledAt]
    split <;> split <;> split <;> omega

theorem freqSum_ones (child : Nat → Option Nat) : freqSum (rootEntries (fun _ => 1) child) = 256 := by
  rw [freqSum_byteEntries, sum_ones]

theorem freqSum_doubledAt {k : Nat} (hk : k < 256) (child : Nat → Option Nat) : freqSum (rootEntries (doubledAt k) child) = 257 := by
  rw [freqSum_byteEntries, sum_doubledAt, if_pos hk]

/-- The byte whose interval holds the count `k2` when byte `k` has two of the shares. -/
def secondByte (k k2 : Nat) : Nat := if k2 ≤ k then k2 else k2 - 1

theorem secondByte_lt {k k2 : Nat} (hk : k < 256) (hk2 : k2 < 257) : secondByte k k2 < 256 := by
  rw [secondByte]
  split <;> omega

/-- Below `k` and at its first share the byte is the count, from its second share on one less. -/
theorem secondByte_interval (k k2 : Nat) :
    ((List.range (secondByte k k2)).map fun i => (doubledAt k i).toNat).sum ≤ k2 ∧
    k2 < ((List.range (secondByte k k2)).map fun i => (doubledAt k i).toNat).sum + (doubledAt k (secondByte k k2)).toNat := by
  rw [sum_doubledAt, toNat_doubledAt, secondByte]
  by_cases hle : k2 ≤ k
  · rw [if_pos hle, if_neg (by omega)]
    split <;> omega
  · rw [if_neg hle]
    split <;> split <;> omega

end Sys2Proof.Machine
end

section
/-! PROOFS. The model update of `ppm_decode` (spec/45_ppm_model.md R265, R268, R275), one equation for each way it goes, and what it does to
a root at unit 0 with all bytes. -/

namespace Sys2Proof.Machine

/-! ### The escape estimates (R268) -/

theorem PpmModel.seeAt_of_see {m : PpmModel} {i v : Nat} (h : (m.see[i]?).map BitVec.toNat = some v) : m.seeAt i = v := by
  obtain ⟨x, hx, rfl⟩ := Option.map_eq_some_iff.1 h
  rw [PpmModel.seeAt, hx, Option.getD_some]

theorem PpmModel.see_setSee (m : PpmModel) {i v : Nat} (hi : i < 16) (hv : v < 2 ^ 16) (j : Nat) :
    ((m.setSee i v).see[j]?).map BitVec.toNat = if j = i then some v else (m.see[j]?).map BitVec.toNat := by
  rw [PpmModel.setSee, Vector.getElem?_setIfInBounds, if_pos hi]
  by_cases h : j = i
  · rw [if_pos h.symm, if_pos h, Option.map_some, BitVec.toNat_ofNat, Nat.mod_eq_of_lt hv]
  · rw [if_neg (Ne.symm h), if_neg h]

/-! ### The links to the children (R275) and the whole update (R265) -/

theorem PpmModel.chain_cons {m : PpmModel} {c : Nat} {n f : BitVec 16} {st su : Option Nat} (h : m.context c = some (n, f, st, su))
    (fuel : Nat) : m.chain (fuel + 1) (some c) = c :: m.chain fuel su := by
  rw [PpmModel.chain, h]

section
variable {m : PpmModel} {a a1 : SubAlloc} {x st nc : Nat} {n f : BitVec 16} {su : Option Nat} {es : List Entry} {e : Entry} {s : Byte}
variable (hx : m.context x = some (n, f, some st, su)) (hes : m.entries (some st) = some es)
variable (hfind : es.find? (fun e => e.sym == s) = some e) (lower : Option Nat) (t : List Nat)
include hx hes hfind

/-- A child that is there is kept. -/
theorem linkChildren_old {child : Nat} (hchild : e.child = some child) :
    linkChildren m a s lower (x :: t) = linkChildren m a s (some child) t := by
  rw [linkChildren, PpmModel.entryOf_eq hx hes, hfind]
  dsimp only
  rw [hchild]

theorem linkChildren_nomem (hchild : e.child = none) (ha : (a.alloc 1).1 = none) :
    linkChildren m a s lower (x :: t) = (.nomem, lower) := by
  rw [linkChildren, PpmModel.entryOf_eq hx hes, hfind]
  dsimp only
  rw [hchild]
  dsimp only
  split
  · rfl
  next h => rw [h] at ha; cases ha

/-- A new child is an empty context whose suffix is the child of the order below. -/
theorem linkChildren_new (hchild : e.child = none) (ha : a.alloc 1 = (some nc, a1)) (hxnc : x ≠ nc) (hstnc : st ≠ nc) :
    linkChildren m a s lower (x :: t) = linkChildren ((m.putBlock nc (.ctx 0 0 none (some (lower.getD m.root)))).putBlock st
      (.stats (es.map fun e => if e.sym = s then { e with child := some nc } else e))) a1 s (some nc) t := by
  have hset := PpmModel.setChild_eq (m := m.putBlock nc (.ctx 0 0 none (some (lower.getD m.root))))
    ((m.context_putBlock_ne _ hxnc).trans hx) ((m.entries_putBlock_ne _ hstnc).trans hes) s nc
  rw [linkChildren, PpmModel.entryOf_eq hx hes, hfind]
  dsimp only
  rw [hchild]
  dsimp only
  rw [ha]
  dsimp only
  rw [hset]

end

section
variable {m m1 m2 m3 : PpmModel} {a a2 a3 : SubAlloc} {c : Nat} {s : Byte} {escaped : List Nat} {last : Option Nat}
variable (hbump : m.bump c s = some m1) (happend : appendAll m1 a s escaped = .done m2 a2)
include hbump happend

theorem ppmUpdate_of_link
    (hlink : linkChildren m2 a2 s none ((m2.chain (m2.ord + 1) m2.minctx).reverse.take m2.order) = (.done m3 a3, last)) :
    ppmUpdate m a c s escaped = .done { m3 with minctx := last, ord := min (m3.ord + 1) m3.order } a3 := by
  rw [ppmUpdate, hbump]
  dsimp only
  rw [happend]
  dsimp only
  rw [hlink]

theorem ppmUpdate_of_link_nomem
    (hlink : linkChildren m2 a2 s none ((m2.chain (m2.ord + 1) m2.minctx).reverse.take m2.order) = (.nomem, last)) :
    ppmUpdate m a c s escaped = .nomem := by
  rw [ppmUpdate, hbump]
  dsimp only
  rw [happend]
  dsimp only
  rw [hlink]

end

/-! ### The root -/

/-- The root at unit 0 has all bytes, in the block at unit 1. -/
structure PpmModel.Root (m : PpmModel) (sum : BitVec 16) (freq : Nat → Byte) (child : Nat → Option Nat) : Prop where
  root : m.root = 0
  context : m.context 0 = some (256, sum, some 1, none)
  entries : m.entries (some 1) = some (rootEntries freq child)

/-- The root with other counts and children. -/
def PpmModel.putRoot (m : PpmModel) (sum : BitVec 16) (freq : Nat → Byte) (child : Nat → Option Nat) : PpmModel :=
  (m.putBlock 0 (.ctx 256 sum (some 1) none)).putBlock 1 (.stats (rootEntries freq child))

/-- An empty context of order 1 at unit `nc`, and the root with other children. -/
def PpmModel.putChild (m : PpmModel) (nc : Nat) (freq : Nat → Byte) (child : Nat → Option Nat) : PpmModel :=
  (m.putBlock nc (.ctx 0 0 none (some 0))).putBlock 1 (.stats (rootEntries freq child))

/-- Only the blocks differ. -/
def PpmModel.OnlyBlocks (m n : PpmModel) : Prop := n = { m with arena := n.arena }

theorem PpmModel.OnlyBlocks.trans {m n o : PpmModel} (h : m.OnlyBlocks n) (k : n.OnlyBlocks o) : m.OnlyBlocks o :=
  Eq.trans k (congrArg (fun x : PpmModel => { x with arena := o.arena }) h)

theorem PpmModel.putChild_onlyBlocks (m : PpmModel) (nc : Nat) (freq : Nat → Byte) (child : Nat → Option Nat) :
    m.OnlyBlocks (m.putChild nc freq child) := rfl

theorem PpmModel.root_putRoot {m : PpmModel} (h : m.root = 0) (sum : BitVec 16) (freq : Nat → Byte) (child : Nat → Option Nat) :
    (m.putRoot sum freq child).Root sum freq child :=
  ⟨h, by simp [PpmModel.putRoot], by simp [PpmModel.putRoot]⟩

namespace PpmModel.Root

variable {m : PpmModel} {sum : BitVec 16} {freq : Nat → Byte} {child : Nat → Option Nat}

theorem of_arena {m1 : PpmModel} (h : m1.Root sum freq child) (harena : m.arena = m1.arena) (hroot : m.root = m1.root) :
    m.Root sum freq child where
  root := hroot.trans h.root
  context := by rw [PpmModel.context, harena]; exact h.context
  entries := by rw [PpmModel.entries, harena]; exact h.entries

variable (h : m.Root sum freq child)
include h

/-- Other blocks do not touch the root. -/
theorem putBlock {i : Nat} (hi : 2 ≤ i) (b : Block) : (m.putBlock i b).Root sum freq child where
  root := h.root
  context := (m.context_putBlock_ne b (by omega)).trans h.context
  entries := (m.entries_putBlock_ne b (by omega)).trans h.entries

/-- The count of byte `b` grows by one (R272). -/
theorem bump {b : Nat} (hb : b < 256) (hfreq : ∀ i < 256, freq i ≠ 255) :
    m.bump 0 (BitVec.ofNat 8 b) = some (m.putRoot (sum + 1) (fun i => freq i + if i = b then 1 else 0) child) := by
  obtain ⟨hsat, hentries⟩ := bumpEntries_rootEntries freq child hb hfreq
  rw [PpmModel.bump_eq h.context h.entries, hsat, hentries]
  rfl

/-- Byte `b` gets a child of order 1 at unit `nc` (R275). -/
theorem link_new {b nc : Nat} {a a1 : SubAlloc} (hb : b < 256) (hchild : child b = none) (ha : a.alloc 1 = (some nc, a1)) (hnc : 2 ≤ nc)
    (t : List Nat) : linkChildren m a (BitVec.ofNat 8 b) none (0 :: t) =
      linkChildren (m.putChild nc freq fun i => if i = b then some nc else child i) a1 (BitVec.ofNat 8 b) (some nc) t := by
  rw [linkChildren_new h.context h.entries (find_rootEntries freq child hb) none t hchild ha (by omega) (by omega),
    map_child_rootEntries freq child hb, Option.getD_none, h.root]
  rfl

theorem putChild {nc : Nat} (hnc : 2 ≤ nc) (child1 : Nat → Option Nat) :
    (m.putChild nc freq child1).Root sum freq child1 where
  root := h.root
  context := by rw [PpmModel.putChild, PpmModel.context_putBlock_ne _ _ (by decide), (h.putBlock hnc _).context]
  entries := PpmModel.entries_putBlock_self _ _ _

end PpmModel.Root

end Sys2Proof.Machine
end

section
/-! PROOFS. The model updates of the first two bytes of a fresh model (spec/45_ppm_model.md R265, R272, R273, R275), followed block by
block. -/

namespace Sys2Proof.Machine

/-- A model with the root only, at a count of 256, before its first byte is counted. -/
structure PpmModel.Unread (m : PpmModel) : Prop extends m.Root 256 (fun _ => 1) (fun _ => none) where
  minctx : m.minctx = some 0
  ord : m.ord = 0
  order : 2 ≤ m.order

/-- The model after the first byte `k`. -/
structure PpmModel.OneByte (m : PpmModel) (k : Nat) : Prop
    extends m.Root 257 (doubledAt k) (fun i => if i = k then some 129 else none) where
  minctx : m.minctx = some 129
  ord : m.ord = 1
  order : 2 ≤ m.order
  below : m.context 129 = some (0, 0, none, some 0)

/-- The model after the second byte `b`, with the new contexts of order 1 and 2 at the units `one` and `two`. -/
structure PpmModel.TwoBytes (m : PpmModel) (k b one two : Nat) : Prop
    extends m.Root 258 (fun i => doubledAt k i + if i = b then 1 else 0)
      (fun i => if i = k then some 129 else if i = b then some one else none) where
  minctx : m.minctx = some two
  ord : m.ord = 2
  below : m.context 129 = some (1, 1, some 130, some 0)
  entry : m.entries (some 130) = some [⟨BitVec.ofNat 8 b, 1, some two⟩]
  top : m.context two = some (0, 0, none, some one)

theorem PpmModel.Unread.setSee {m : PpmModel} (h : m.Unread) (i v : Nat) : (m.setSee i v).Unread :=
  ⟨.of_arena h.toRoot rfl rfl, h.minctx, h.ord, h.order⟩

theorem PpmModel.OneByte.setSee {m : PpmModel} {k : Nat} (h : m.OneByte k) (i v : Nat) : (m.setSee i v).OneByte k :=
  ⟨.of_arena h.toRoot rfl rfl, h.minctx, h.ord, h.order, h.below⟩

section
variable {m : PpmModel} {units k : Nat}

/-! ### The first update -/

/-- The root of a fresh model after the first byte is counted. -/
theorem PpmModel.Unread.bump_root (h : m.Unread) (hk : k < 256) :
    m.bump 0 (BitVec.ofNat 8 k) = some (m.putRoot 257 (doubledAt k) fun _ => none) := by
  rw [h.toRoot.bump hk fun _ _ => by decide]
  have hfreq : (fun i => (1 : Byte) + if i = k then 1 else 0) = doubledAt k := by
    funext i
    rw [doubledAt]
    split <;> rfl
  rw [hfreq]
  rfl

theorem PpmModel.Unread.links (h : m.Unread) (sum : BitVec 16) (freq : Nat → Byte) (child : Nat → Option Nat) :
    ((m.putRoot sum freq child).chain ((m.putRoot sum freq child).ord + 1) (m.putRoot sum freq child).minctx).reverse.take
      (m.putRoot sum freq child).order = [0] := by
  have hroot := PpmModel.root_putRoot h.root sum freq child
  have hchain : (m.putRoot sum freq child).chain (m.ord + 1) m.minctx = [0] := by
    rw [h.ord, h.minctx, PpmModel.chain_cons hroot.context]
    rfl
  have horder := h.order
  show (((m.putRoot sum freq child).chain (m.ord + 1) m.minctx).reverse.take m.order) = [0]
  rw [hchain]
  exact List.take_of_length_le (by simp; omega)

/-- With 129 units there is none for the child (R279). -/
theorem ppmUpdate_first_nomem (h : m.Unread) (hk : k < 256) : ppmUpdate m (.bare 129 129) 0 (BitVec.ofNat 8 k) [] = .nomem := by
  have hroot := PpmModel.root_putRoot h.root 257 (doubledAt k) fun _ => none
  have hnone : ((SubAlloc.bare 129 129).alloc 1).1 = none := congrArg Prod.fst (SubAlloc.bare_alloc_of_full (by decide))
  have hlink := linkChildren_nomem hroot.context hroot.entries (find_rootEntries _ _ hk) none [] rfl hnone
  exact ppmUpdate_of_link_nomem (h.bump_root hk) rfl (by rw [h.links, hlink])

/-- With a unit more the root's entry of the byte gets an empty context of order 1 at unit 129. -/
theorem ppmUpdate_first (h : m.Unread) (hk : k < 256) (hu : 130 ≤ units) :
    ∃ m1, ppmUpdate m (.bare units 129) 0 (BitVec.ofNat 8 k) [] = .done m1 (.bare units 130) ∧ m1.OneByte k ∧
      m1.see = m.see ∧ m1.alloc = m.alloc ∧ m1.order = m.order := by
  have hroot := PpmModel.root_putRoot h.root 257 (doubledAt k) fun _ => none
  have halloc : (SubAlloc.bare units 129).alloc 1 = (some 129, .bare units 130) := SubAlloc.bare_alloc_of_fits hu
  have hlink := hroot.link_new hk rfl halloc (by decide) []
  have hupdate := ppmUpdate_of_link (a := .bare units 129) (escaped := []) (h.bump_root hk) rfl (by rw [h.links, hlink]; rfl)
  refine ⟨_, hupdate, ⟨.of_arena (hroot.putChild (nc := 129) (by decide) _) rfl rfl, rfl, ?_, h.order, ?_⟩, rfl, rfl, rfl⟩
  · have horder := h.order
    have hord := h.ord
    show min (m.ord + 1) m.order = 1
    omega
  · show ((PpmModel.putRoot _ _ _ _).putChild 129 _ _).context 129 = _
    rw [PpmModel.putChild, PpmModel.context_putBlock_ne _ _ (by decide), PpmModel.context_putBlock_self]

/-! ### The second update -/

/-- The counts after the second byte `b`. -/
def twiceCounted (k b i : Nat) : Byte := doubledAt k i + if i = b then 1 else 0

/-- The model after the second byte is counted at the root and appended in the context of order 1. -/
def PpmModel.recorded (m : PpmModel) (k b : Nat) : PpmModel :=
  ((m.putRoot 258 (twiceCounted k b) fun i => if i = k then some 129 else none).putBlock 130
    (.stats [⟨BitVec.ofNat 8 b, 1, none⟩])).putBlock 129 (.ctx 1 1 (some 130) (some 0))

variable {b : Nat}

theorem PpmModel.recorded_onlyBlocks (m : PpmModel) (k b : Nat) : m.OnlyBlocks (m.recorded k b) := rfl

theorem PpmModel.recorded_root (h : m.OneByte k) (b : Nat) :
    (m.recorded k b).Root 258 (twiceCounted k b) fun i => if i = k then some 129 else none :=
  ((PpmModel.root_putRoot h.root 258 (twiceCounted k b) _).putBlock (by decide) _).putBlock (by decide) _

theorem PpmModel.recorded_below (m : PpmModel) (k b : Nat) : (m.recorded k b).context 129 = some (1, 1, some 130, some 0) :=
  PpmModel.context_putBlock_self _ _ _ _ _ _

theorem PpmModel.recorded_entry (m : PpmModel) (k b : Nat) :
    (m.recorded k b).entries (some 130) = some [⟨BitVec.ofNat 8 b, 1, none⟩] := by
  rw [PpmModel.recorded, PpmModel.entries_putBlock_ne _ _ (by decide), PpmModel.entries_putBlock_self]

theorem PpmModel.OneByte.bump_root (h : m.OneByte k) (hb : b < 256) : m.bump 0 (BitVec.ofNat 8 b) =
    some (m.putRoot 258 (twiceCounted k b) fun i => if i = k then some 129 else none) :=
  h.toRoot.bump hb fun i _ => by rw [doubledAt]; split <;> decide

theorem PpmModel.OneByte.append (h : m.OneByte k) (hu : 131 ≤ units) (b : Nat) :
    appendAll (m.putRoot 258 (twiceCounted k b) fun i => if i = k then some 129 else none) (.bare units 130) (BitVec.ofNat 8 b) [129] =
      .done (m.recorded k b) (.bare units 131) := by
  have hbelow : (m.putRoot 258 (twiceCounted k b) fun i => if i = k then some 129 else none).context 129 =
      some (0, 0, none, some 0) := by
    rw [PpmModel.putRoot, PpmModel.context_putBlock_ne _ _ (by decide), PpmModel.context_putBlock_ne _ _ (by decide), h.below]
  have halloc : (SubAlloc.bare units 130).alloc 1 = (some 130, .bare units 131) := SubAlloc.bare_alloc_of_fits hu
  rw [appendAll, appendSymbol_even hbelow rfl rfl halloc]
  rfl

theorem PpmModel.OneByte.links (h : m.OneByte k) (b : Nat) :
    ((m.recorded k b).chain ((m.recorded k b).ord + 1) (m.recorded k b).minctx).reverse.take (m.recorded k b).order = [0, 129] := by
  have hchain : (m.recorded k b).chain (m.ord + 1) m.minctx = [129, 0] := by
    rw [h.ord, h.minctx, PpmModel.chain_cons (m.recorded_below k b), PpmModel.chain_cons (PpmModel.recorded_root h b).context]
    rfl
  show ((m.recorded k b).chain (m.ord + 1) m.minctx).reverse.take m.order = [0, 129]
  rw [hchain]
  exact List.take_of_length_le h.order

/-- The new entry of the context of order 1 with an empty context of order 2 as its child. -/
def PpmModel.topped (n : PpmModel) (b one two : Nat) : PpmModel :=
  (n.putBlock two (.ctx 0 0 none (some one))).putBlock 130 (.stats [⟨BitVec.ofNat 8 b, 1, some two⟩])

/-- The last link: from a model in which the byte's context of order 1 is at unit `one`. -/
theorem link_top {n : PpmModel} {one two : Nat} (hbelow : n.context 129 = some (1, 1, some 130, some 0))
    (hentry : n.entries (some 130) = some [⟨BitVec.ofNat 8 b, 1, none⟩]) (hu : two < units) (htwo : 131 ≤ two) :
    linkChildren n (.bare units two) (BitVec.ofNat 8 b) (some one) [129] =
      (.done (n.topped b one two) (.bare units (two + 1)), some two) := by
  have hfind : [(⟨BitVec.ofNat 8 b, 1, none⟩ : Entry)].find? (fun e => e.sym == BitVec.ofNat 8 b) =
      some ⟨BitVec.ofNat 8 b, 1, none⟩ := by
    simp
  rw [linkChildren_new hbelow hentry hfind (some one) [] rfl (SubAlloc.bare_alloc_of_fits hu) (by omega) (by omega), List.map_singleton,
    if_pos rfl]
  rfl

/-- The second update, once the root's link is made: that leads to the model `n`. -/
theorem ppmUpdate_second {n : PpmModel} {one two : Nat} (h : m.OneByte k) (hb : b < 256) (hu : two < units) (htwo : 131 ≤ two)
    (hlink : linkChildren (m.recorded k b) (.bare units 131) (BitVec.ofNat 8 b) none [0, 129] =
      linkChildren n (.bare units two) (BitVec.ofNat 8 b) (some one) [129])
    (hn : m.OnlyBlocks n)
    (hroot : n.Root 258 (twiceCounted k b) fun i => if i = k then some 129 else if i = b then some one else none)
    (hbelow : n.context 129 = some (1, 1, some 130, some 0)) (hentry : n.entries (some 130) = some [⟨BitVec.ofNat 8 b, 1, none⟩]) :
    ∃ m1, ppmUpdate m (.bare units 130) 0 (BitVec.ofNat 8 b) [129] = .done m1 (.bare units (two + 1)) ∧ m1.TwoBytes k b one two ∧
      m1.see = m.see ∧ m1.context 131 = (n.topped b one two).context 131 := by
  have hupdate := ppmUpdate_of_link (h.bump_root hb) (h.append (units := units) (by omega) b)
    (by rw [h.links, hlink, link_top hbelow hentry hu htwo])
  have hroot1 : (n.topped b one two).Root 258 (twiceCounted k b) fun i => if i = k then some 129 else if i = b then some one else none :=
    (hroot.putBlock (by omega) _).putBlock (by decide) _
  refine ⟨_, hupdate, ⟨.of_arena hroot1 rfl rfl, rfl, ?_, ?_, PpmModel.entries_putBlock_self _ _ _, ?_⟩,
    (congrArg PpmModel.see hn :), rfl⟩
  · have hord : n.ord = 1 := (congrArg PpmModel.ord hn).trans h.ord
    have horder : 2 ≤ n.order := h.order.trans_eq (congrArg PpmModel.order hn).symm
    show min (n.ord + 1) n.order = 2
    omega
  · show (n.topped b one two).context 129 = _
    rw [PpmModel.topped, PpmModel.context_putBlock_ne _ _ (by decide), PpmModel.context_putBlock_ne _ _ (by omega), hbelow]
  · show (n.topped b one two).context two = _
    rw [PpmModel.topped, PpmModel.context_putBlock_ne _ _ (by omega), PpmModel.context_putBlock_self]

/-- The byte is that of the first decode: the root keeps its child. -/
theorem ppmUpdate_repeated (h : m.OneByte k) (hk : k < 256) (hu : 132 ≤ units) :
    ∃ m1, ppmUpdate m (.bare units 130) 0 (BitVec.ofNat 8 k) [129] = .done m1 (.bare units 132) ∧ m1.TwoBytes k k 129 131 ∧
      m1.see = m.see := by
  have hroot := PpmModel.recorded_root h k
  have hold := linkChildren_old (a := .bare units 131) hroot.context hroot.entries (find_rootEntries _ _ hk) none [129]
    (if_pos rfl : (if k = k then some 129 else none) = some 129)
  have hchild : (fun i => if i = k then some 129 else if i = k then some 129 else none) = fun i => if i = k then some 129 else none := by
    funext i
    split <;> rfl
  obtain ⟨m1, hupdate, htwo, hsee, -⟩ := ppmUpdate_second (n := m.recorded k k) (one := 129) (two := 131) h hk hu (Nat.le_refl _) hold
    (m.recorded_onlyBlocks k k) (by rwa [hchild]) (m.recorded_below k k) (m.recorded_entry k k)
  exact ⟨m1, hupdate, htwo, hsee⟩

/-- Another byte: the root's entry gets a child too. -/
theorem ppmUpdate_other (h : m.OneByte k) (hb : b < 256) (hne : b ≠ k) (hu : 133 ≤ units) :
    ∃ m1, ppmUpdate m (.bare units 130) 0 (BitVec.ofNat 8 b) [129] = .done m1 (.bare units 133) ∧ m1.TwoBytes k b 131 132 ∧
      m1.see = m.see ∧ m1.context 131 = some (0, 0, none, some 0) := by
  have hroot := PpmModel.recorded_root h b
  have halloc : (SubAlloc.bare units 131).alloc 1 = (some 131, .bare units 132) := SubAlloc.bare_alloc_of_fits (by omega)
  have hnew := hroot.link_new hb (if_neg hne) halloc (by decide) [129]
  have hchild : (fun i => if i = b then some 131 else if i = k then some 129 else none) =
      fun i => if i = k then some 129 else if i = b then some 131 else none := by
    funext i
    by_cases hib : i = b
    · rw [if_pos hib, if_neg (hib ▸ hne), if_pos hib]
    · rw [if_neg hib, if_neg hib]
  rw [hchild] at hnew
  have hroot1 := hroot.putChild (nc := 131) (by decide) fun i => if i = k then some 129 else if i = b then some 131 else none
  obtain ⟨m1, hupdate, htwo, hsee, hone⟩ := ppmUpdate_second (one := 131) (two := 132) h hb hu (by decide) hnew
    ((m.recorded_onlyBlocks k b).trans (PpmModel.putChild_onlyBlocks _ _ _ _)) hroot1
    (by rw [PpmModel.putChild, PpmModel.context_putBlock_ne _ _ (by decide), PpmModel.context_putBlock_ne _ _ (by decide),
      PpmModel.recorded_below])
    (by rw [PpmModel.putChild, PpmModel.entries_putBlock_ne _ _ (by decide), PpmModel.entries_putBlock_ne _ _ (by decide),
      PpmModel.recorded_entry])
  refine ⟨m1, hupdate, htwo, hsee, hone.trans ?_⟩
  rw [PpmModel.topped, PpmModel.context_putBlock_ne _ _ (by decide), PpmModel.context_putBlock_ne _ _ (by decide), PpmModel.putChild,
    PpmModel.context_putBlock_ne _ _ (by decide), PpmModel.context_putBlock_self]

/-- The second update, whichever the byte. -/
theorem ppmUpdate_twice (h : m.OneByte k) (hk : k < 256) (hb : b < 256) (hu : 133 ≤ units) : ∃ m1 one two,
    ppmUpdate m (.bare units 130) 0 (BitVec.ofNat 8 b) [129] = .done m1 (.bare units (two + 1)) ∧ m1.TwoBytes k b one two ∧
    m1.see = m.see ∧
    (b = k ∧ one = 129 ∧ two = 131 ∨ b ≠ k ∧ one = 131 ∧ two = 132 ∧ m1.context 131 = some (0, 0, none, some 0)) := by
  by_cases hbk : b = k
  · subst hbk
    obtain ⟨m1, hupdate, htwo, hsee⟩ := ppmUpdate_repeated h hk (units := units) (by omega)
    exact ⟨m1, 129, 131, hupdate, htwo, hsee, .inl ⟨rfl, rfl, rfl⟩⟩
  · obtain ⟨m1, hupdate, htwo, hsee, hone⟩ := ppmUpdate_other h hb hbk hu
    exact ⟨m1, 131, 132, hupdate, htwo, hsee, .inr ⟨hbk, rfl, rfl, hone⟩⟩

end

end Sys2Proof.Machine
end

section
/-! PROOFS. `PPM.DECODE` on a fresh model and once more (spec/45_ppm_model.md R265, R268, R279, R286, R287). -/

namespace Sys2Proof.Machine

theorem seeIndex_root : seeIndex 256 false = 14 := by decide

/-- A world at a root of all bytes, where the counts and the escape estimate make 264 shares. -/
theorem PpmModel.Root.atRoot {w : PpmWorld} {sum : BitVec 16} {freq : Nat → Byte} {child : Nat → Option Nat}
    (h : w.ppm.Root sum freq child) (hshares : freqSum (rootEntries freq child) + max 1 (w.ppm.seeAt 14 / 16) = 264)
    (hrange : 2 ^ 16 ≤ w.rc.range.toNat) (hready : w.cur.ready = true) : w.AtRoot 0 (rootEntries freq child) 14 264 where
  context := ⟨256, sum, some 1, h.context, h.entries⟩
  nonempty := rootEntries_ne_nil freq child
  index := by rw [length_rootEntries, seeIndex_root]
  shares := hshares
  small := by decide
  range := hrange
  ready := hready

theorem PpmResult.code_byte {k : Nat} (hk : k < 256) : (PpmResult.byte (BitVec.ofNat 8 k)).code = BitVec.ofNat 32 k := by
  refine BitVec.eq_of_toNat_eq ?_
  rw [PpmResult.code, BitVec.toNat_setWidth, BitVec.toNat_ofNat, BitVec.toNat_ofNat]
  omega

/-! ### The first byte -/

theorem PpmModel.Fresh.unread {m : PpmModel} {order : Nat} (h : m.Fresh order) (horder : 2 ≤ order) : m.Unread := by
  obtain ⟨hroot, hminctx, hord⟩ := h.place
  exact ⟨⟨hroot, h.context_root, h.entries_root⟩, hminctx, hord, horder.trans_eq h.order.symm⟩

/-- An idle machine with a fresh model in `units` units, a large range and a port that meets no error. -/
structure State.BeforeFirst (s : State) (order units : Nat) : Prop where
  idle : s.isIdle = true
  model : s.ppm.Fresh order
  order : 2 ≤ order
  sa : s.sa = .bare units 129
  range : 2 ^ 16 ≤ s.rc.range.toNat
  ready : s.cur.ready = true

section
variable {s : State} {order units : Nat} (h : s.BeforeFirst order units)
include h

theorem State.BeforeFirst.seeAt : s.ppm.seeAt 14 = 128 := PpmModel.seeAt_of_see (h.model.see 14 (by decide))

theorem State.BeforeFirst.see (v : Nat) (hv : v < 2 ^ 16) (i : Nat) (hi : i < 16) :
    (((s.ppm.setSee 14 v).see)[i]?).map BitVec.toNat = some (if i = 14 then v else 16 * (i / 2 + 1)) := by
  rw [PpmModel.see_setSee s.ppm (by decide) hv, h.model.see i hi]
  split <;> rfl

theorem State.BeforeFirst.unread : s.ppm.Unread := h.model.unread h.order

theorem State.BeforeFirst.atRoot : s.world.AtRoot 0 (rootEntries (fun _ => 1) fun _ => none) 14 264 :=
  h.unread.toRoot.atRoot (w := s.world)
    (by rw [freqSum_ones]; show 256 + max 1 (s.ppm.seeAt 14 / 16) = 264; rw [h.seeAt]; rfl) h.range h.ready

/-- The walk begins at the root. -/
theorem State.BeforeFirst.start : ppmWalk (s.world.ppm.ord + 2) s.world.ppm.minctx [] [] s.world =
    ppmWalk 2 (some 0) [] [] s.world := by
  show ppmWalk (s.ppm.ord + 2) s.ppm.minctx [] [] s.world = _
  rw [h.unread.ord, h.unread.minctx]

theorem State.BeforeFirst.corrupt (hk : 264 ≤ s.rc.countIn 264) :
    exec .ppmDecode s = .next ((s.accept.setRc (s.rc.count 264).2).setResult 0x101) :=
  exec_ppmDecode_idle h.idle h.model.alloc (ppmDecode_of_stop (h.start.trans (h.atRoot.walk_corrupt 1 [] hk)))

theorem State.BeforeFirst.endSegment (hlow : 256 ≤ s.rc.countIn 264) (hk : s.rc.countIn 264 < 264) :
    ∃ t, exec .ppmDecode s = .next t ∧ t.st.result = 0x100 ∧ 2 ^ 16 ≤ t.rc.range.toNat ∧ t.sa = s.sa ∧
      t.ppm = s.ppm.setSee 14 144 := by
  obtain ⟨v, hwalk, hrange, hppm, hsa⟩ := h.atRoot.walk_escape 0 [] ((freqSum_ones _).le.trans hlow) hk
  refine ⟨_, exec_ppmDecode_idle h.idle h.model.alloc (ppmDecode_of_stop (h.start.trans hwalk)), rfl, hrange, hsa, ?_⟩
  rw [show s.world.ppm.seeAt 14 = 128 from h.seeAt] at hppm
  exact hppm

/-- The walk finds byte `k`, and the estimate falls to 124. -/
theorem State.BeforeFirst.found (hk : s.rc.countIn 264 < 256) : ∃ v,
    ppmWalk (s.world.ppm.ord + 2) s.world.ppm.minctx [] [] s.world = .ok (.found 0 (BitVec.ofNat 8 (s.rc.countIn 264)) []) v ∧
    2 ^ 16 ≤ v.rc.range.toNat ∧ v.ppm = s.ppm.setSee 14 124 ∧ v.sa = .bare units 129 := by
  obtain ⟨cum, hfind⟩ := findLive_rootEntries (fun _ => 1) (fun _ => none) hk (sum_ones _).le
    (by rw [sum_ones]; exact Nat.lt_succ_self _)
  obtain ⟨v, hwalk, hrange, hppm, hsa⟩ := h.atRoot.walk_found 1 [] (hk.trans_eq (freqSum_ones _).symm) hfind
  rw [show s.world.ppm.seeAt 14 = 128 from h.seeAt] at hppm
  exact ⟨v, h.start.trans hwalk, hrange, hppm, hsa.trans h.sa⟩

/-- With 129 units the model restarts as it was (R279). -/
theorem State.BeforeFirst.restarted (hk : s.rc.countIn 264 < 256) (hu : units = 129) : ∃ t, exec .ppmDecode s = .next t ∧
    t.st.result = BitVec.ofNat 32 (s.rc.countIn 264) ∧ 2 ^ 16 ≤ t.rc.range.toNat ∧ t.ppm = s.ppm.renewed ∧ t.sa = .bare 129 129 := by
  subst hu
  obtain ⟨v, hwalk, hrange, hppm, hsa⟩ := h.found hk
  have hupdate : ppmUpdate v.ppm v.sa 0 (BitVec.ofNat 8 (s.rc.countIn 264)) [] = .nomem := by
    rw [hppm, hsa]
    exact ppmUpdate_first_nomem (h.unread.setSee _ _) hk
  have hdecode := ppmDecode_of_nomem hwalk hupdate (by rw [hsa]; exact Nat.le_refl _)
  refine ⟨_, exec_ppmDecode_idle h.idle h.model.alloc hdecode, PpmResult.code_byte hk, hrange, ?_, ?_⟩
  · show v.ppm.renewed = _
    rw [hppm]
    rfl
  · show SubAlloc.bare v.sa.u 129 = _
    rw [hsa]
    rfl

/-- An idle machine after the first byte `k`, with a large range. -/
structure State.AfterFirst (t : State) (k units : Nat) : Prop where
  idle : t.isIdle = true
  alloc : t.ppm.alloc = true
  model : t.ppm.OneByte k
  see : t.ppm.seeAt 14 = 124
  sa : t.sa = .bare units 130
  range : 2 ^ 16 ≤ t.rc.range.toNat

/-- With more the byte is counted (R272, R275). -/
theorem State.BeforeFirst.counted (hk : s.rc.countIn 264 < 256) (hu : 130 ≤ units) : ∃ t, exec .ppmDecode s = .next t ∧
    t.st.result = BitVec.ofNat 32 (s.rc.countIn 264) ∧ t.AfterFirst (s.rc.countIn 264) units ∧ t.ppm.order = order ∧
    t.ppm.see = (s.ppm.setSee 14 124).see := by
  obtain ⟨v, hwalk, hrange, hppm, hsa⟩ := h.found hk
  obtain ⟨m1, hfirst, hone, hsee, halloc, horder⟩ := ppmUpdate_first (h.unread.setSee 14 124) hk hu
  have hdecode := ppmDecode_of_done hwalk (by rw [hppm, hsa]; exact hfirst)
  refine ⟨_, exec_ppmDecode_idle h.idle h.model.alloc hdecode, PpmResult.code_byte hk,
    ⟨h.idle, halloc.trans h.model.alloc, hone, PpmModel.seeAt_of_see ?_, rfl, hrange⟩, horder.trans h.model.order, hsee⟩
  show (m1.see[14]?).map BitVec.toNat = some 124
  rw [hsee, h.see 124 (by decide) 14 (by decide)]
  rfl

end

/-! ### The second byte -/

section
variable {t : State} {k units : Nat} (h : t.AfterFirst k units)
include h

/-- The empty context of order 1 is passed without a coded decision (R271). -/
theorem State.AfterFirst.start : ppmWalk (t.world.ppm.ord + 2) t.world.ppm.minctx [] [] t.world =
    ppmWalk 2 (some 0) [] [129] t.world := by
  show ppmWalk (t.ppm.ord + 2) t.ppm.minctx [] [] t.world = _
  rw [h.model.ord, h.model.minctx]
  exact ppmWalk_empty (w := t.world) h.model.below 2 [] rfl []

variable (hk : k < 256) (hready : t.cur.ready = true)
include hk hready

theorem State.AfterFirst.atRoot : t.world.AtRoot 0 (rootEntries (doubledAt k) fun i => if i = k then some 129 else none) 14 264 :=
  h.model.toRoot.atRoot (w := t.world)
    (by rw [freqSum_doubledAt hk]; show 257 + max 1 (t.ppm.seeAt 14 / 16) = 264; rw [h.see]; rfl) h.range hready

theorem State.AfterFirst.sentinel (hlow : 257 ≤ t.rc.countIn 264) : ∃ u, exec .ppmDecode t = .next u ∧
    u.st.result = if t.rc.countIn 264 < 264 then 0x100 else 0x101 := by
  by_cases hsmall : t.rc.countIn 264 < 264
  · obtain ⟨v, hwalk, -⟩ := (h.atRoot hk hready).walk_escape 0 [129] ((freqSum_doubledAt hk _).le.trans hlow) hsmall
    exact ⟨_, exec_ppmDecode_idle h.idle h.alloc (ppmDecode_of_stop (h.start.trans hwalk)), (if_pos hsmall).symm⟩
  · have hwalk := (h.atRoot hk hready).walk_corrupt 1 [129] (Nat.not_lt.1 hsmall)
    exact ⟨_, exec_ppmDecode_idle h.idle h.alloc (ppmDecode_of_stop (h.start.trans hwalk)), (if_neg hsmall).symm⟩

/-- The walk finds the byte, and the estimate falls to 121. -/
theorem State.AfterFirst.found (hk2 : t.rc.countIn 264 < 257) : ∃ v,
    ppmWalk (t.world.ppm.ord + 2) t.world.ppm.minctx [] [] t.world =
      .ok (.found 0 (BitVec.ofNat 8 (secondByte k (t.rc.countIn 264))) [129]) v ∧
    v.ppm = t.ppm.setSee 14 121 ∧ v.sa = .bare units 130 := by
  obtain ⟨hlow, hhigh⟩ := secondByte_interval k (t.rc.countIn 264)
  obtain ⟨cum, hfind⟩ := findLive_rootEntries _ (fun i => if i = k then some 129 else none) (secondByte_lt hk hk2) hlow hhigh
  obtain ⟨v, hwalk, -, hppm, hsa⟩ := (h.atRoot hk hready).walk_found 1 [129] (hk2.trans_eq (freqSum_doubledAt hk _).symm) hfind
  rw [show t.world.ppm.seeAt 14 = 124 from h.see] at hppm
  exact ⟨v, h.start.trans hwalk, hppm, hsa.trans h.sa⟩

/-- The byte is counted, appended and linked (R272, R273, R275). -/
theorem State.AfterFirst.counted (hk2 : t.rc.countIn 264 < 257) (hu : 133 ≤ units) : ∃ u one two, exec .ppmDecode t = .next u ∧
    u.st.result = BitVec.ofNat 32 (secondByte k (t.rc.countIn 264)) ∧ (u.ppm.see[14]?).map BitVec.toNat = some 121 ∧
    u.ppm.TwoBytes k (secondByte k (t.rc.countIn 264)) one two ∧ u.sa.brk = two + 1 ∧
    (secondByte k (t.rc.countIn 264) = k ∧ one = 129 ∧ two = 131 ∨
      secondByte k (t.rc.countIn 264) ≠ k ∧ one = 131 ∧ two = 132 ∧ u.ppm.context 131 = some (0, 0, none, some 0)) := by
  obtain ⟨v, hwalk, hppm, hsa⟩ := h.found hk hready hk2
  have hb := secondByte_lt hk hk2
  obtain ⟨m1, one, two, hsecond, htwo, hsee, hcases⟩ := ppmUpdate_twice (h.model.setSee 14 121) hk hb hu
  have hdecode := ppmDecode_of_done hwalk (by rw [hppm, hsa]; exact hsecond)
  refine ⟨_, one, two, exec_ppmDecode_idle h.idle h.alloc hdecode, PpmResult.code_byte hb, ?_, htwo, rfl, hcases⟩
  show (m1.see[14]?).map BitVec.toNat = some 121
  rw [hsee, PpmModel.see_setSee t.ppm (by decide) (by decide)]
  rfl

end

/-! ### The obligation -/

/-- The entries of the root after the first byte, as O25 lists them. -/
theorem rootEntries_oneByte (k : Nat) : rootEntries (doubledAt k) (fun i => if i = k then some 129 else none) =
    (List.range 256).map fun i => if i = k then ⟨BitVec.ofNat 8 i, 2, some 129⟩ else ⟨BitVec.ofNat 8 i, 1, none⟩ :=
  List.map_congr_left fun i _ => by by_cases h : i = k <;> simp [doubledAt, h]

/-- The second decode, as O25 states it. -/
theorem State.AfterFirst.decode {t : State} {k units : Nat} (h : t.AfterFirst k units) (hk : k < 256) (hready : t.cur.ready = true)
    (hu : 133 ≤ units) :
    let k2 := (t.rc.code - t.rc.low).toNat / (t.rc.range.toNat / 264)
    let b := if k2 ≤ k then k2 else k2 - 1
    ∃ u, exec .ppmDecode t = .next u ∧
      u.st.result = (if k2 < 257 then BitVec.ofNat 32 b else if k2 < 264 then 0x100 else 0x101) ∧
      (k2 < 257 →
        (u.ppm.see[14]?).map BitVec.toNat = some 121 ∧ u.ppm.ord = 2 ∧
        u.ppm.context 0 = some (256, 258, some 1, none) ∧
        u.ppm.entries (some 1) = some ((List.range 256).map fun i =>
          ⟨BitVec.ofNat 8 i, (if i = k then 2 else 1) + (if i = b then 1 else 0),
            if i = k then some 129 else if i = b then some 131 else none⟩) ∧
        u.ppm.context 129 = some (1, 1, some 130, some 0) ∧
        (b = k → u.ppm.entries (some 130) = some [⟨BitVec.ofNat 8 b, 1, some 131⟩] ∧
          u.ppm.context 131 = some (0, 0, none, some 129) ∧ u.ppm.minctx = some 131 ∧ u.sa.brk = 132) ∧
        (b ≠ k → u.ppm.entries (some 130) = some [⟨BitVec.ofNat 8 b, 1, some 132⟩] ∧
          u.ppm.context 131 = some (0, 0, none, some 0) ∧ u.ppm.context 132 = some (0, 0, none, some 131) ∧
          u.ppm.minctx = some 132 ∧ u.sa.brk = 133)) := by
  intro k2 b
  by_cases hk2 : k2 < 257
  · obtain ⟨u, one, two, hexec, hresult, hsee, htwo, hbrk, hcases⟩ := h.counted hk hready hk2 hu
    refine ⟨u, hexec, hresult.trans (if_pos hk2).symm, fun _ => ⟨hsee, htwo.ord, htwo.context, ?_, htwo.below, ?_, ?_⟩⟩
    · refine htwo.entries.trans (congrArg some (List.map_congr_left fun i _ => ?_))
      obtain ⟨hbk, rfl, -⟩ | ⟨-, rfl, -⟩ := hcases
      · have hchild : (if i = k then some 129 else if i = b then some 129 else none) =
            if i = k then some 129 else if i = b then some 131 else none := by
          rw [show b = k from hbk]
          split <;> rfl
        exact congrArg (Entry.mk _ _) hchild
      · rfl
    · intro hb
      obtain ⟨-, rfl, rfl⟩ | ⟨hne, -⟩ := hcases
      · exact ⟨htwo.entry, htwo.top, htwo.minctx, hbrk⟩
      · exact absurd hb hne
    · intro hb
      obtain ⟨heq, -⟩ | ⟨-, rfl, rfl, hone⟩ := hcases
      · exact absurd heq hb
      · exact ⟨htwo.entry, hone, htwo.top, htwo.minctx, hbrk⟩
  · obtain ⟨u, hexec, hresult⟩ := h.sentinel hk hready (Nat.not_lt.1 hk2)
    exact ⟨u, hexec, hresult.trans (if_neg hk2).symm, fun h => absurd h hk2⟩

/-- Settles O25: the count falls among the root's 264 shares, at both decodes. -/
theorem freshModelDecodesByTheRootCounts : Obligations.FreshModelDecodesByTheRootCounts := by
  intro s m a order units hi horder _ hu hppm hsa hrange hready k
  have hs : s.BeforeFirst order units :=
    { idle := hi, model := hppm ▸ ppmCreate_fresh m a order hu, order := horder,
      sa := by rw [hsa, ppmCreate_of_fits m a order hu], range := hrange, ready := hready }
  by_cases hbyte : k < 256
  · by_cases hfew : units = 129
    · obtain ⟨t, hexec, hresult, hlarge, hmodel, halloc⟩ := hs.restarted hbyte hfew
      refine ⟨t, hexec, hresult.trans (if_pos hbyte).symm, fun h => ?_, fun _ => hlarge, fun h _ => ?_, fun _ _ => ⟨?_, ?_⟩,
        fun _ h => ?_⟩
      · omega
      · omega
      · rw [hmodel, hppm, ppmCreate_of_fits m a order hu]
        rfl
      · rw [halloc, hs.sa, hfew]
      · omega
    · obtain ⟨t, hexec, hresult, ht, hordert, hsee⟩ := hs.counted hbyte (by omega)
      refine ⟨t, hexec, hresult.trans (if_pos hbyte).symm, fun h => ?_, fun _ => ht.range, fun h _ => ?_, fun _ h => absurd h hfew,
        fun _ hmany => ⟨fun i hi => ?_, ht.alloc, ht.model.root, ht.model.minctx, ht.model.ord, hordert, ?_, ?_, ?_, ht.model.context, ?_,
          ht.model.below, fun hreadyt => ht.decode hbyte hreadyt hmany⟩⟩
      · omega
      · omega
      · rw [hsee, hs.see 124 (by decide) i hi]
      · rw [ht.sa]
        rfl
      · rw [ht.sa]
        rfl
      · rw [ht.sa, SubAlloc.bare_freeBlocks]
      · rw [ht.model.entries, rootEntries_oneByte]
        rfl
  · by_cases hend : k < 264
    · obtain ⟨t, hexec, hresult, hlarge, halloc, hmodel⟩ := hs.endSegment (Nat.not_lt.1 hbyte) hend
      refine ⟨t, hexec, hresult.trans ?_, fun h => ?_, fun _ => hlarge, fun _ _ => ⟨halloc, ?_, fun i hi => ?_⟩, fun h => absurd h hbyte,
        fun h => absurd h hbyte⟩
      · rw [if_neg hbyte, if_pos hend]
      · omega
      · rw [hmodel]
        rfl
      · rw [hmodel, hs.see 144 (by decide) i hi]
    · exact ⟨_, hs.corrupt (Nat.not_lt.1 hend), by rw [if_neg hbyte, if_neg hend]; rfl, fun _ => ⟨rfl, rfl, rfl⟩, fun h => absurd h hend,
        fun _ h => absurd h hend, fun h => absurd h hbyte, fun h => absurd h hbyte⟩

end Sys2Proof.Machine
end

section
/-! PROOFS. The stacks of the sub-allocator and one attempt of a request (spec/46_suballocator.md R290 to R293), the commands
`SA.INIT`, `SA.ALLOC` and `SA.FREE` (R300, R302, R303). -/

namespace Sys2Proof.Machine

/-! ### The stacks (R290, R293) -/

section
variable {a b : SubAlloc} {i m n : Nat} {l : List Nat}

theorem SubAlloc.bucket_setBucket (hn : 1 ≤ n) (hn128 : n ≤ 128) (hm : 1 ≤ m) :
    (a.setBucket n l).bucket m = if m = n then l else a.bucket m := by
  have hslot : n - 1 < Config.saMaxBlock := Nat.lt_of_lt_of_le (Nat.sub_one_lt_of_lt hn) hn128
  unfold SubAlloc.bucket SubAlloc.setBucket
  dsimp only
  rw [Vector.getElem?_setIfInBounds]
  by_cases hmn : m = n
  · rw [hmn, if_pos rfl, if_pos hslot, if_pos rfl, Option.getD_some]
  · rw [if_neg (by omega), if_neg hmn]

theorem SubAlloc.bucket_free (hn : 1 ≤ n) (hn128 : n ≤ 128) (hm : 1 ≤ m) :
    (a.free i n).bucket m = if m = n then i :: a.bucket n else a.bucket m :=
  SubAlloc.bucket_setBucket hn hn128 hm

end

/-! ### One attempt (R292) -/

/-- What remains of `a` when the block of `big` units on top of its stack is split for a request of `n` units. -/
def SubAlloc.carved (a : SubAlloc) (n big i : Nat) (rest : List Nat) : SubAlloc := (a.setBucket big rest).free (i + n) (big - n)

/-- Without room below `U` and with every stack of at least `n` units empty, an attempt fails. -/
def SubAlloc.Stuck (a : SubAlloc) (n : Nat) : Prop := a.u < a.brk + n ∧ ∀ m, n ≤ m → m ≤ 128 → a.bucket m = []

/-- The outcomes of an attempt of `n` units, in the order in which R292 tries them. -/
inductive SubAlloc.Attempt (a : SubAlloc) (n : Nat) : Option (Nat × SubAlloc) → Prop where
  | fitting {i rest} (top : a.bucket n = i :: rest) : Attempt a n (some (i, a.setBucket n rest))
  | unused (room : a.brk + n ≤ a.u) : Attempt a n (some (a.brk, { a with brk := a.brk + n }))
  | larger {big i rest} (gt : n < big) (le : big ≤ 128) (top : a.bucket big = i :: rest) :
      Attempt a n (some (i, a.carved n big i rest))
  | nil (stuck : a.Stuck n) : Attempt a n none

section
variable {a : SubAlloc} {b big i m n fuel : Nat} {rest : List Nat}

theorem SubAlloc.split_of_first (hm : m ≤ big) (hfuel : big < m + fuel) (hempty : ∀ k, m ≤ k → k < big → a.bucket k = [])
    (htop : a.bucket big = b :: rest) : a.split n fuel m = some (b, a.carved n big b rest) := by
  induction fuel generalizing m with
  | zero => omega
  | succ fuel ih =>
    rw [SubAlloc.split]
    obtain rfl | hlt := hm.eq_or_lt
    · rw [htop]
      rfl
    · rw [hempty m le_rfl hlt]
      exact ih hlt (by omega) fun k hk => hempty k (by omega)

theorem SubAlloc.split_of_empty (hempty : ∀ k, m ≤ k → k < m + fuel → a.bucket k = []) : a.split n fuel m = none := by
  induction fuel generalizing m with
  | zero => rfl
  | succ fuel ih =>
    rw [SubAlloc.split, hempty m le_rfl (by omega)]
    exact ih fun k hk hlt => hempty k (by omega) (by omega)

theorem SubAlloc.try_of_exact (htop : a.bucket n = i :: rest) : a.try n = some (i, a.setBucket n rest) := by
  rw [SubAlloc.try, htop]

theorem SubAlloc.try_of_room (hempty : a.bucket n = []) (hroom : a.brk + n ≤ a.u) :
    a.try n = some (a.brk, { a with brk := a.brk + n }) := by
  rw [SubAlloc.try, hempty]
  exact if_pos hroom

theorem SubAlloc.try_of_full (hempty : a.bucket n = []) (hfull : a.u < a.brk + n) :
    a.try n = a.split n (Config.saMaxBlock - n) (n + 1) := by
  rw [SubAlloc.try, hempty]
  exact if_neg (Nat.not_le.2 hfull)

theorem SubAlloc.try_of_larger (hfull : a.u < a.brk + n) (hn : n < big) (hbig : big ≤ 128)
    (hempty : ∀ k, n ≤ k → k < big → a.bucket k = []) (htop : a.bucket big = b :: rest) :
    a.try n = some (b, a.carved n big b rest) := by
  have hfuel : big < n + 1 + (Config.saMaxBlock - n) := by
    rw [Config.saMaxBlock]
    omega
  rw [SubAlloc.try_of_full (hempty n le_rfl hn) hfull]
  exact SubAlloc.split_of_first hn hfuel (fun k hk => hempty k (by omega)) htop

theorem SubAlloc.try_of_stuck (hn : n ≤ 128) (h : a.Stuck n) : a.try n = none := by
  rw [SubAlloc.try_of_full (h.2 n le_rfl hn) h.1]
  refine SubAlloc.split_of_empty fun k hk hlt => h.2 k (by omega) ?_
  rw [Config.saMaxBlock] at hlt
  omega

/-- The least nonempty stack decides an attempt that finds no room. -/
theorem SubAlloc.try_attempt (hn : n ≤ 128) : a.Attempt n (a.try n) := by
  by_cases hexact : a.bucket n = []
  case neg =>
    obtain ⟨i, rest, htop⟩ := List.exists_cons_of_ne_nil hexact
    exact SubAlloc.try_of_exact htop ▸ .fitting htop
  by_cases hroom : a.brk + n ≤ a.u
  case pos => exact SubAlloc.try_of_room hexact hroom ▸ .unused hroom
  have hfull : a.u < a.brk + n := Nat.not_le.1 hroom
  by_cases hsome : ∃ m, n ≤ m ∧ m ≤ 128 ∧ a.bucket m ≠ []
  · classical
    obtain ⟨hle, hle128, hne⟩ := Nat.find_spec hsome
    have hlt : n < Nat.find hsome := lt_of_le_of_ne hle fun h => hne (h ▸ hexact)
    obtain ⟨i, rest, htop⟩ := List.exists_cons_of_ne_nil hne
    have hempty : ∀ k, n ≤ k → k < Nat.find hsome → a.bucket k = [] := fun k hk hlt' =>
      not_not.1 fun h => Nat.find_min hsome hlt' ⟨hk, by omega, h⟩
    exact SubAlloc.try_of_larger hfull hlt hle128 hempty htop ▸ .larger hlt hle128 htop
  · have hstuck : a.Stuck n := ⟨hfull, fun m hm hm128 => not_not.1 fun h => hsome ⟨m, hm, hm128, h⟩⟩
    exact SubAlloc.try_of_stuck hn hstuck ▸ .nil hstuck

/-- A request is what the first attempt gives, else what the one after coalescing gives (R296). -/
theorem SubAlloc.alloc_of_try {a' : SubAlloc} (h : a.try n = some (i, a')) : a.alloc n = (some i, a') := by
  rw [SubAlloc.alloc, h]

theorem SubAlloc.alloc_of_coalesced {a' : SubAlloc} (hfirst : a.try n = none) (h : a.coalesce.try n = some (i, a')) :
    a.alloc n = (some i, a') := by
  rw [SubAlloc.alloc, hfirst]
  dsimp only
  rw [h]

theorem SubAlloc.alloc_of_fails (hfirst : a.try n = none) (h : a.coalesce.try n = none) : a.alloc n = (none, a.coalesce) := by
  rw [SubAlloc.alloc, hfirst]
  dsimp only
  rw [h]

theorem SubAlloc.bucket_carved (hn : 1 ≤ n) (hlt : n < big) (hbig : big ≤ 128) (hm : 1 ≤ m) : (a.carved n big i rest).bucket m =
    if m = big then rest else if m = big - n then (i + n) :: a.bucket m else a.bucket m := by
  rw [SubAlloc.carved, SubAlloc.bucket_free (by omega) (by omega) hm, SubAlloc.bucket_setBucket (by omega) hbig (by omega),
    SubAlloc.bucket_setBucket (by omega) hbig hm, if_neg (by omega : big - n ≠ big)]
  by_cases hbigm : m = big
  · rw [if_neg (by omega), if_pos hbigm, if_pos hbigm]
  · rw [if_neg hbigm]
    split
    next h => rw [h]
    · rfl

end

/-! ### The commands (R300, R302, R303) -/

/-- The condition of `SA.ALLOC` and of `SA.FREE` on the size of a block (R302, R303). -/
theorem blockSize_legal {s : State} {n : Word} (hm : s.ppm.alloc = false) (hn : 1 ≤ n.toNat) (hn128 : n.toNat ≤ 128) :
    (!s.ppm.alloc && n != 0 && decide (n.toNat ≤ Config.saMaxBlock)) = true := by
  have hne : n ≠ 0 := fun h0 => by simp [h0] at hn
  rw [hm, bne_iff_ne.2 hne]
  exact decide_eq_true hn128

section
variable {s : State} (hi : s.isIdle = true)
include hi

theorem exec_saInit_idle {u : Word} (hu : u.toNat ≤ 4294967294) : exec (.saInit u) s =
    .next ((s.accept.setSa (.bare u.toNat 0)).setPpm { s.ppm with alloc := false, arena := [] }) := by
  show execSaInit u s = _
  exact idleCommand_accept _ s _ hi (decide_eq_true hu)

variable (hm : s.ppm.alloc = false)
include hm

theorem exec_saAlloc_idle {n : Word} (hn : 1 ≤ n.toNat) (hn128 : n.toNat ≤ 128) : exec (.saAlloc n) s =
    .next ((s.accept.setSa (s.sa.alloc n.toNat).2).setResult
      (((s.sa.alloc n.toNat).1.map (BitVec.ofNat 32)).getD 0xFFFFFFFF#32)) := by
  have haccept : execSaAlloc n s = _ := idleCommand_accept _ s _ hi (blockSize_legal hm hn hn128)
  refine haccept.trans ?_
  dsimp only
  rw [State.accept_sa]
  cases (s.sa.alloc n.toNat).1 <;> rfl

theorem exec_saFree_idle {i n : Word} (hn : 1 ≤ n.toNat) (hn128 : n.toNat ≤ 128) (hin : i.toNat + n.toNat ≤ s.sa.brk) :
    exec (.saFree i n) s = .next (s.accept.setSa (s.sa.free i.toNat n.toNat)) := by
  show execSaFree i n s = _
  exact idleCommand_accept _ s _ hi (Bool.and_eq_true_iff.2 ⟨blockSize_legal hm hn hn128, decide_eq_true hin⟩)

/-- A request of which the first attempt succeeds, by what that attempt leaves (R292, R302). -/
theorem exec_saAlloc_of_try {n : Word} (hn : 1 ≤ n.toNat) (hn128 : n.toNat ≤ 128) {i : Nat} {a : SubAlloc}
    (h : s.sa.try n.toNat = some (i, a)) {stack : Nat → List Nat} (hstack : ∀ m, 1 ≤ m → m ≤ 128 → a.bucket m = stack m) :
    ∃ t, exec (.saAlloc n) s = .next t ∧ t.st.result = BitVec.ofNat 32 i ∧ t.sa.u = s.sa.u ∧ t.sa.brk = a.brk ∧
      ∀ m, 1 ≤ m → m ≤ 128 → t.sa.bucket m = stack m := by
  have hexec := exec_saAlloc_idle hi hm hn hn128
  rw [SubAlloc.alloc_of_try h] at hexec
  exact ⟨_, hexec, rfl, SubAlloc.try_u h, rfl, hstack⟩

end

/-- Settles O26: the commands with their conditions met, and the outcomes of an attempt one by one. -/
theorem allocatorCommands : Obligations.AllocatorCommands := by
  intro s hi
  refine ⟨fun u hu => ⟨_, exec_saInit_idle hi hu, rfl, rfl, SubAlloc.bare_freeBlocks _ _, rfl, rfl⟩,
    fun hm n hn hn128 => exec_saAlloc_idle hi hm hn hn128, fun hm n hn hn128 => ?_, fun hm i n hn hn128 hin => ?_⟩
  · refine ⟨fun i rest htop => ?fitting, fun hempty hroom => ?unused, fun big i rest hfull hlt hbig htop hempty => ?larger,
      fun hstuck hhelps => ?helps, fun hstuck hstill => ?fails⟩
    case fitting =>
      exact exec_saAlloc_of_try hi hm hn hn128 (SubAlloc.try_of_exact htop) fun m hm1 _ => SubAlloc.bucket_setBucket hn hn128 hm1
    case unused =>
      exact exec_saAlloc_of_try hi hm hn hn128 (SubAlloc.try_of_room hempty hroom) fun _ _ _ => rfl
    case larger =>
      exact exec_saAlloc_of_try hi hm hn hn128 (SubAlloc.try_of_larger hfull hlt hbig hempty htop) fun m hm1 _ =>
        SubAlloc.bucket_carved hn hlt hbig hm1
    case helps =>
      have hfirst : s.sa.try n.toNat = none := SubAlloc.try_of_stuck hn128 hstuck
      rw [exec_saAlloc_idle hi hm hn hn128, exec_saAlloc_idle (s := { s with sa := s.sa.coalesce }) hi hm hn hn128]
      cases hsecond : s.sa.coalesce.try n.toNat with
      | none =>
        have hattempt := s.sa.coalesce.try_attempt hn128
        rw [hsecond] at hattempt
        cases hattempt with
        | nil h => exact absurd h hhelps
      | some r => rw [SubAlloc.alloc_of_coalesced hfirst hsecond, SubAlloc.alloc_of_try hsecond]; rfl
    case fails =>
      rw [exec_saAlloc_idle hi hm hn hn128,
        SubAlloc.alloc_of_fails (SubAlloc.try_of_stuck hn128 hstuck) (SubAlloc.try_of_stuck hn128 hstill)]
      rfl
  · refine ⟨_, exec_saFree_idle hi hm hn hn128 hin, rfl, rfl, ?_, fun m hm1 _ hne => ?_, rfl⟩
    · exact (SubAlloc.bucket_free hn hn128 hn).trans (if_pos rfl)
    · exact (SubAlloc.bucket_free hn hn128 hm1).trans (if_neg hne)

end Sys2Proof.Machine
end

section
/-! PROOFS. The books of the sub-allocator (spec/46_suballocator.md R290): the blocks held and free tile the units below `BRK`, after a
reset (R291), after an attempt (R292) and after a block is given back (R293). -/

namespace Sys2Proof.Machine

/-! ### Blocks that tile the units below a mark -/

/-- The blocks of `l` cover each of the units `0 .. top - 1` exactly once. -/
structure Tiles (l : List (Nat × Nat)) (top : Nat) : Prop where
  positive : ∀ b ∈ l, 1 ≤ b.2
  below : ∀ b ∈ l, b.1 + b.2 ≤ top
  disjoint : l.Pairwise apart
  total : (l.map (·.2)).sum = top

theorem apart_symm {x y : Nat × Nat} (h : apart x y) : apart y x := Or.symm h

section
variable {l k : List (Nat × Nat)} {i m n top : Nat}

theorem Tiles.perm (h : Tiles l top) (hp : l.Perm k) : Tiles k top where
  positive b hb := h.positive b (hp.mem_iff.2 hb)
  below b hb := h.below b (hp.mem_iff.2 hb)
  disjoint := h.disjoint.perm hp apart_symm
  total := (hp.map _).sum_eq.symm.trans h.total

theorem apart_cut_iff {b : Nat × Nat} (hb : 1 ≤ b.2) : apart (i, n + m) b ↔ apart (i, n) b ∧ apart (i + n, m) b := by
  unfold apart
  omega

/-- A block may be cut in two, and two blocks that touch may be joined. -/
theorem tiles_cut_iff (hn : 1 ≤ n) (hm : 1 ≤ m) : Tiles ((i, n + m) :: l) top ↔ Tiles ((i, n) :: (i + n, m) :: l) top := by
  constructor
  · rintro ⟨hpos, hbelow, hdisj, htotal⟩
    rw [List.forall_mem_cons] at hpos hbelow
    obtain ⟨hhead, htail⟩ := List.pairwise_cons.1 hdisj
    have hparts b (hb : b ∈ l) := (apart_cut_iff (hpos.2 b hb)).1 (hhead b hb)
    refine ⟨?_, ?_, ?_, ?_⟩
    · exact List.forall_mem_cons.2 ⟨hn, List.forall_mem_cons.2 ⟨hm, hpos.2⟩⟩
    · exact List.forall_mem_cons.2 ⟨by omega, List.forall_mem_cons.2 ⟨by omega, hbelow.2⟩⟩
    · refine .cons (List.forall_mem_cons.2 ⟨.inl le_rfl, fun b hb => (hparts b hb).1⟩) (.cons (fun b hb => (hparts b hb).2) htail)
    · simpa [Nat.add_assoc] using htotal
  · rintro ⟨hpos, hbelow, hdisj, htotal⟩
    simp only [List.forall_mem_cons] at hpos hbelow
    obtain ⟨hfirst, hrest⟩ := List.pairwise_cons.1 hdisj
    obtain ⟨hsecond, htail⟩ := List.pairwise_cons.1 hrest
    rw [List.forall_mem_cons] at hfirst
    refine ⟨?_, ?_, ?_, ?_⟩
    · exact List.forall_mem_cons.2 ⟨by omega, hpos.2.2⟩
    · exact List.forall_mem_cons.2 ⟨by omega, hbelow.2.2⟩
    · exact .cons (fun b hb => (apart_cut_iff (hpos.2.2 b hb)).2 ⟨hfirst.2 b hb, hsecond b hb⟩) htail
    · simpa [Nat.add_assoc] using htotal

/-- A block that ends at the mark may be taken away, the mark falling to its start, and put on the mark again. -/
theorem tiles_top_iff (hn : 1 ≤ n) : Tiles ((i, n) :: l) (i + n) ↔ Tiles l i := by
  constructor
  · rintro ⟨hpos, hbelow, hdisj, htotal⟩
    rw [List.forall_mem_cons] at hpos hbelow
    obtain ⟨hhead, htail⟩ := List.pairwise_cons.1 hdisj
    refine ⟨hpos.2, fun b hb => ?_, htail, ?_⟩
    · have hb1 := hpos.2 b hb
      have hb2 := hbelow.2 b hb
      have hb3 := hhead b hb
      unfold apart at hb3
      omega
    · rw [List.map_cons, List.sum_cons] at htotal
      omega
  · intro h
    refine ⟨List.forall_mem_cons.2 ⟨hn, h.positive⟩, List.forall_mem_cons.2 ⟨le_rfl, fun b hb => ?_⟩,
      .cons (fun b hb => .inr (h.below b hb)) h.disjoint, ?_⟩
    · exact (h.below b hb).trans (Nat.le_add_right i n)
    · rw [List.map_cons, List.sum_cons, h.total, Nat.add_comm]

end

/-! ### The free blocks (R294) -/

/-- The order in which the free blocks are listed. -/
abbrev blockLe (b c : Nat × Nat) : Prop := b.1 < c.1 ∨ b.1 = c.1 ∧ b.2 ≤ c.2

theorem insertBlock_eq (b : Nat × Nat) (l : List (Nat × Nat)) : insertBlock b l = l.orderedInsert blockLe b := by
  induction l with
  | nil => rfl
  | cons c t ih => rw [insertBlock, ih, List.orderedInsert_cons]

/-- The free blocks of `n` units. -/
def SubAlloc.blocksOf (a : SubAlloc) (n : Nat) : List (Nat × Nat) := (a.bucket n).map fun i => (i, n)

/-- The free blocks stack by stack. -/
def SubAlloc.stacked (a : SubAlloc) : List (Nat × Nat) := (List.range' 1 Config.saMaxBlock).flatMap a.blocksOf

section
variable {a b : SubAlloc} {i m n : Nat}

theorem SubAlloc.freeBlocks_eq (a : SubAlloc) : a.freeBlocks = a.stacked.insertionSort blockLe := by
  have hinsert : insertBlock = List.orderedInsert blockLe := funext₂ insertBlock_eq
  rw [SubAlloc.freeBlocks, hinsert]
  rfl

theorem SubAlloc.freeBlocks_perm (a : SubAlloc) : a.freeBlocks.Perm a.stacked :=
  a.freeBlocks_eq ▸ List.perm_insertionSort _ _

theorem SubAlloc.freeBlocks_sorted (a : SubAlloc) : a.freeBlocks.Pairwise fun x y => x.1 ≤ y.1 := by
  have htotal : Std.Total blockLe := ⟨fun x y => by unfold blockLe; omega⟩
  have htrans : IsTrans (Nat × Nat) blockLe := ⟨fun x y z => by unfold blockLe; omega⟩
  rw [a.freeBlocks_eq]
  exact (List.pairwise_insertionSort blockLe _).imp fun h => h.elim Nat.le_of_lt fun h => h.1.le

theorem SubAlloc.size_of_mem_freeBlocks {x : Nat × Nat} (h : x ∈ a.freeBlocks) : 1 ≤ x.2 ∧ x.2 ≤ 128 := by
  obtain ⟨n, hn, hx⟩ := List.mem_flatMap.1 (a.freeBlocks_perm.mem_iff.1 h)
  obtain ⟨i, -, rfl⟩ := List.mem_map.1 hx
  obtain ⟨h1, h2⟩ := List.mem_range'_1.1 hn
  rw [Config.saMaxBlock] at h2
  exact ⟨h1, by omega⟩

/-- Where `b` has one block more than `a`, on top of the stack of its size, it has that free block more. -/
theorem SubAlloc.freeBlocks_push (hm : 1 ≤ m) (hm128 : m ≤ 128) (htop : b.bucket m = i :: a.bucket m)
    (hother : ∀ k, 1 ≤ k → k ≠ m → b.bucket k = a.bucket k) : b.freeBlocks.Perm ((i, m) :: a.freeBlocks) := by
  have hmem : m ∈ List.range' 1 Config.saMaxBlock := List.mem_range'_1.2 ⟨hm, by rw [Config.saMaxBlock]; omega⟩
  obtain ⟨low, high, hsplit⟩ := List.append_of_mem hmem
  have hnodup : (low ++ m :: high).Nodup := hsplit ▸ List.nodup_range'
  have hsame : ∀ k ∈ low ++ high, b.bucket k = a.bucket k := fun k hk => by
    have hrange : k ∈ List.range' 1 Config.saMaxBlock := hsplit ▸ List.perm_middle.mem_iff.2 (List.mem_cons_of_mem m hk)
    exact hother k (List.mem_range'_1.1 hrange).1 fun h => (List.nodup_middle.1 hnodup).notMem (h ▸ hk)
  have hlow : low.flatMap b.blocksOf = low.flatMap a.blocksOf :=
    List.flatMap_congr fun k hk => congrArg (List.map _) (hsame k (List.mem_append_left _ hk))
  have hhigh : high.flatMap b.blocksOf = high.flatMap a.blocksOf :=
    List.flatMap_congr fun k hk => congrArg (List.map _) (hsame k (List.mem_append_right _ hk))
  have hhere : b.blocksOf m = (i, m) :: a.blocksOf m := by
    rw [SubAlloc.blocksOf, htop]
    rfl
  refine b.freeBlocks_perm.trans (.trans ?_ (a.freeBlocks_perm.symm.cons _))
  rw [SubAlloc.stacked, SubAlloc.stacked, hsplit, List.flatMap_append, List.flatMap_append, List.flatMap_cons, List.flatMap_cons,
    hlow, hhigh, hhere]
  exact List.perm_middle

theorem SubAlloc.freeBlocks_free (hn : 1 ≤ n) (hn128 : n ≤ 128) : (a.free i n).freeBlocks.Perm ((i, n) :: a.freeBlocks) :=
  SubAlloc.freeBlocks_push hn hn128 ((SubAlloc.bucket_free hn hn128 hn).trans (if_pos rfl)) fun _ hk hne =>
    (SubAlloc.bucket_free hn hn128 hk).trans (if_neg hne)

/-- Popping is pushing read backwards. -/
theorem SubAlloc.freeBlocks_pop {rest : List Nat} (hn : 1 ≤ n) (hn128 : n ≤ 128) (htop : a.bucket n = i :: rest) :
    a.freeBlocks.Perm ((i, n) :: (a.setBucket n rest).freeBlocks) :=
  SubAlloc.freeBlocks_push hn hn128 (by rw [SubAlloc.bucket_setBucket hn hn128 hn, if_pos rfl, htop]) fun _ hk hne =>
    ((SubAlloc.bucket_setBucket hn hn128 hk).trans (if_neg hne)).symm

end

/-! ### The books (R290) -/

section
variable {a b : SubAlloc} {live : List (Nat × Nat)} {i n : Nat}

/-- The books are a tiling with blocks of at most 128 units, inside the budget; that the free blocks are as small lies in the
stacks there are. -/
theorem SubAlloc.accounts_iff : a.Accounts live ↔
    Tiles (live ++ a.freeBlocks) a.brk ∧ (∀ b ∈ live, b.2 ≤ 128) ∧ a.brk ≤ a.u := by
  constructor
  · intro h
    exact ⟨⟨fun b hb => (h.sizes b hb).1, h.below, h.disjoint, h.total⟩, fun b hb => (h.sizes b (List.mem_append_left _ hb)).2, h.budget⟩
  · rintro ⟨htiles, hsmall, hbudget⟩
    refine ⟨fun b hb => ⟨htiles.positive b hb, ?_⟩, htiles.below, htiles.disjoint, htiles.total, hbudget⟩
    exact (List.mem_append.1 hb).elim (hsmall b) fun h => (SubAlloc.size_of_mem_freeBlocks h).2

theorem SubAlloc.accounts_reset (u : Nat) : (SubAlloc.bare u 0).Accounts [] := by
  rw [SubAlloc.accounts_iff, SubAlloc.bare_freeBlocks]
  exact ⟨⟨by simp, by simp, .nil, rfl⟩, by simp, Nat.zero_le u⟩

/-- A block taken off a stack is apart from all others; what a split leaves of it goes back (R292). -/
theorem SubAlloc.Accounts.try (h : a.Accounts live) (hn : 1 ≤ n) (hn128 : n ≤ 128) (ht : a.try n = some (i, b)) :
    b.Accounts ((i, n) :: live) := by
  obtain ⟨htiles, hsmall, hbudget⟩ := SubAlloc.accounts_iff.1 h
  have hattempt := a.try_attempt hn128
  rw [ht] at hattempt
  refine SubAlloc.accounts_iff.2 ⟨?_, List.forall_mem_cons.2 ⟨hn128, hsmall⟩, ?_⟩
  · cases hattempt with
    | fitting top =>
      exact htiles.perm (((SubAlloc.freeBlocks_pop hn hn128 top).append_left live).trans List.perm_middle)
    | unused room => exact (tiles_top_iff hn).2 htiles
    | @larger big _ rest gt le top =>
      have hpop := htiles.perm (((SubAlloc.freeBlocks_pop (by omega) le top).append_left live).trans List.perm_middle)
      rw [← Nat.add_sub_of_le gt.le] at hpop
      have hcut := (tiles_cut_iff hn (Nat.sub_pos_of_lt gt)).1 hpop
      rw [Nat.add_sub_of_le gt.le] at hcut
      have hpush := SubAlloc.freeBlocks_free (a := a.setBucket big rest) (i := i + n) (Nat.sub_pos_of_lt gt) (by omega : big - n ≤ 128)
      exact hcut.perm (.cons _ (List.perm_middle.symm.trans (hpush.symm.append_left live)))
  · cases hattempt with
    | fitting => exact hbudget
    | unused room => exact room
    | larger => exact hbudget

/-- A block given back changes hands (R293). -/
theorem SubAlloc.Accounts.free {x : Nat × Nat} (h : a.Accounts live) (hx : x ∈ live) : (a.free x.1 x.2).Accounts (live.erase x) := by
  obtain ⟨htiles, hsmall, hbudget⟩ := SubAlloc.accounts_iff.1 h
  have hpush := SubAlloc.freeBlocks_free (a := a) (i := x.1) (htiles.positive x (List.mem_append_left _ hx)) (hsmall x hx)
  refine SubAlloc.accounts_iff.2 ⟨htiles.perm ?_, fun b hb => hsmall b (List.mem_of_mem_erase hb), hbudget⟩
  exact (((List.perm_cons_erase hx).append_right _).trans List.perm_middle.symm).trans (hpush.symm.append_left _)

end

end Sys2Proof.Machine
end

section
/-! PROOFS. Coalescing (spec/46_suballocator.md R294): the free blocks merge into runs, each rejoins the never-used space or goes
back on the stacks, and the books of R290 hold through it and through every request (R296). -/

namespace Sys2Proof.Machine

/-! ### The runs -/

/-- The runs the blocks of a list are merged into. -/
def mergedRuns : List (Nat × Nat) → List (Nat × Nat)
  | [] => []
  | b :: t => mergeRuns b t

theorem mergeRuns_of_touch {run b : Nat × Nat} {t : List (Nat × Nat)} (h : b.1 = run.1 + run.2) :
    mergeRuns run (b :: t) = mergeRuns (run.1, run.2 + b.2) t := if_pos h

theorem mergeRuns_of_gap {run b : Nat × Nat} {t : List (Nat × Nat)} (h : b.1 ≠ run.1 + run.2) :
    mergeRuns run (b :: t) = run :: mergeRuns b t := if_neg h

/-- Unit `i` lies in a block of `l`. -/
def Covered (l : List (Nat × Nat)) (i : Nat) : Prop := ∃ b ∈ l, b.1 ≤ i ∧ i < b.1 + b.2

theorem covered_cons_iff {b : Nat × Nat} {l : List (Nat × Nat)} {i : Nat} :
    Covered (b :: l) i ↔ (b.1 ≤ i ∧ i < b.1 + b.2) ∨ Covered l i := List.exists_mem_cons_iff _ _ _

section
variable {run : Nat × Nat} {l t : List (Nat × Nat)} {i top : Nat}

theorem covered_mergeRuns : Covered (mergeRuns run t) i ↔ Covered (run :: t) i := by
  induction t generalizing run with
  | nil => rfl
  | cons b t ih =>
    by_cases h : b.1 = run.1 + run.2
    · rw [mergeRuns_of_touch h, ih, covered_cons_iff, covered_cons_iff, covered_cons_iff, ← or_assoc]
      exact or_congr_left (by omega)
    · rw [mergeRuns_of_gap h, covered_cons_iff, ih, covered_cons_iff (l := b :: t)]

/-- A run starts where a block starts. -/
theorem exists_start_of_mem_mergeRuns {y : Nat × Nat} (hy : y ∈ mergeRuns run t) : ∃ x ∈ run :: t, x.1 = y.1 := by
  induction t generalizing run with
  | nil => exact ⟨y, hy, rfl⟩
  | cons b t ih =>
    by_cases h : b.1 = run.1 + run.2
    · rw [mergeRuns_of_touch h] at hy
      obtain ⟨x, hx, hxy⟩ := ih hy
      obtain rfl | hx := List.mem_cons.1 hx
      · exact ⟨run, List.mem_cons_self, hxy⟩
      · exact ⟨x, List.mem_cons_of_mem _ (List.mem_cons_of_mem _ hx), hxy⟩
    · rw [mergeRuns_of_gap h] at hy
      obtain rfl | hy := List.mem_cons.1 hy
      · exact ⟨y, List.mem_cons_self, rfl⟩
      · obtain ⟨x, hx, hxy⟩ := ih hy
        exact ⟨x, List.mem_cons_of_mem _ hx, hxy⟩

/-- Between two runs there is a unit of neither. -/
theorem mergeRuns_gaps (h : (run :: t).Pairwise fun x y => x.1 + x.2 ≤ y.1) :
    (mergeRuns run t).Pairwise fun x y => x.1 + x.2 < y.1 := by
  induction t generalizing run with
  | nil => exact List.pairwise_singleton _ _
  | cons b t ih =>
    obtain ⟨hrun, hbt⟩ := List.pairwise_cons.1 h
    obtain ⟨hb, ht⟩ := List.pairwise_cons.1 hbt
    by_cases htouch : b.1 = run.1 + run.2
    · rw [mergeRuns_of_touch htouch]
      refine ih (.cons (fun y hy => ?_) ht)
      have := hb y hy
      omega
    · rw [mergeRuns_of_gap htouch]
      refine .cons (fun y hy => ?_) (ih hbt)
      obtain ⟨x, hx, hxy⟩ := exists_start_of_mem_mergeRuns hy
      have hrunb := hrun b List.mem_cons_self
      have hbx : b.1 ≤ x.1 := (List.mem_cons.1 hx).elim (fun h => h ▸ le_rfl) fun hx => (Nat.le_add_right _ _).trans (hb x hx)
      omega

theorem Tiles.mergeRuns (h : Tiles (l ++ run :: t) top) : Tiles (l ++ mergeRuns run t) top := by
  induction t generalizing run l with
  | nil => exact h
  | cons b t ih =>
    by_cases htouch : b.1 = run.1 + run.2
    · rw [mergeRuns_of_touch htouch]
      have hrun := h.positive run (by simp)
      have hb := h.positive b (by simp)
      have hpair : Tiles (run :: b :: (l ++ t)) top :=
        h.perm (List.perm_middle.trans (.cons _ List.perm_middle))
      rw [← Prod.mk.eta (p := b), htouch] at hpair
      exact ih (((tiles_cut_iff hrun hb).2 hpair).perm List.perm_middle.symm)
    · rw [mergeRuns_of_gap htouch]
      exact (ih (l := l ++ [run]) (by simpa using h)).perm (by simp)

end

/-! ### A run put back -/

/-- A run cut into blocks of 128 units and a rest. -/
def runBlocks (r : Nat × Nat) : List (Nat × Nat) :=
  (List.range ((r.2 + 127) / 128)).map fun j => (r.1 + 128 * j, min 128 (r.2 - 128 * j))

/-- Blocks pushed one after the other. -/
def SubAlloc.freeAll (a : SubAlloc) (l : List (Nat × Nat)) : SubAlloc := l.foldl (fun a b => a.free b.1 b.2) a

section
variable {a : SubAlloc} {l : List (Nat × Nat)} {i m n top fuel : Nat}

theorem runBlocks_zero : runBlocks (i, 0) = [] := by
  simp [runBlocks]

theorem runBlocks_of_small (hn : 1 ≤ n) (hn128 : n ≤ 128) : runBlocks (i, n) = [(i, n)] := by
  have hone : (n + 127) / 128 = 1 := by omega
  rw [runBlocks, hone]
  simpa using hn128

theorem runBlocks_of_large (hn : 128 < n) : runBlocks (i, n) = (i, 128) :: runBlocks (i + 128, n - 128) := by
  have hcount : (n + 127) / 128 = (n - 128 + 127) / 128 + 1 := by omega
  rw [runBlocks, hcount, List.range_succ_eq_map, List.map_cons, List.map_map, runBlocks]
  refine congrArg₂ _ (Prod.ext rfl (by simp; omega)) (List.map_congr_left fun j _ => Prod.ext ?_ ?_)
  · simp only [Function.comp_apply]
    omega
  · simp only [Function.comp_apply]
    omega

theorem size_of_mem_runBlocks {r x : Nat × Nat} (hx : x ∈ runBlocks r) : 1 ≤ x.2 ∧ x.2 ≤ 128 := by
  obtain ⟨j, hj, rfl⟩ := List.mem_map.1 hx
  have hj := List.mem_range.1 hj
  dsimp only
  omega

theorem SubAlloc.pushRun_eq (hfuel : n < fuel) : a.pushRun fuel i n = a.freeAll (runBlocks (i, n)) := by
  induction fuel generalizing a i n with
  | zero => omega
  | succ fuel ih =>
    rw [SubAlloc.pushRun, Config.saMaxBlock]
    by_cases hlarge : 128 < n
    · rw [if_pos hlarge, runBlocks_of_large hlarge, ih (by omega)]
      rfl
    · rw [if_neg hlarge]
      by_cases hpos : 0 < n
      · rw [if_pos hpos, runBlocks_of_small hpos (Nat.not_lt.1 hlarge)]
        rfl
      · rw [if_neg hpos, Nat.eq_zero_of_not_pos hpos, runBlocks_zero]
        rfl

theorem SubAlloc.placeRun_of_top {r : Nat × Nat} (h : r.1 + r.2 = a.brk) : a.placeRun r = { a with brk := r.1 } := if_pos h

theorem SubAlloc.placeRun_of_below {r : Nat × Nat} (h : r.1 + r.2 ≠ a.brk) : a.placeRun r = a.freeAll (runBlocks r) :=
  (if_neg h).trans (SubAlloc.pushRun_eq (Nat.lt_succ_self _))

theorem SubAlloc.freeAll_append (l k : List (Nat × Nat)) : a.freeAll (l ++ k) = (a.freeAll l).freeAll k := List.foldl_append

theorem SubAlloc.freeAll_brk (l : List (Nat × Nat)) : (a.freeAll l).brk = a.brk :=
  List.foldlRecOn (motive := fun b : SubAlloc => b.brk = a.brk) l _ rfl fun _ hb _ _ => hb

theorem SubAlloc.bucket_freeAll (hl : ∀ x ∈ l, 1 ≤ x.2 ∧ x.2 ≤ 128) (hm : 1 ≤ m) : (a.freeAll l).bucket m =
    (l.filterMap fun p => if p.2 = m then some p.1 else none).reverse ++ a.bucket m := by
  induction l generalizing a with
  | nil => rfl
  | cons x l ih =>
    obtain ⟨hx, hl⟩ := List.forall_mem_cons.1 hl
    show ((a.free x.1 x.2).freeAll l).bucket m = _
    rw [ih hl, SubAlloc.bucket_free hx.1 hx.2 hm]
    by_cases hsize : x.2 = m
    · simp [hsize]
    · simp [hsize, Ne.symm hsize]

theorem SubAlloc.freeBlocks_freeAll (hl : ∀ x ∈ l, 1 ≤ x.2 ∧ x.2 ≤ 128) : (a.freeAll l).freeBlocks.Perm (l ++ a.freeBlocks) := by
  induction l generalizing a with
  | nil => exact .refl _
  | cons x l ih =>
    obtain ⟨hx, hl⟩ := List.forall_mem_cons.1 hl
    exact (ih (a := a.free x.1 x.2) hl).trans (((SubAlloc.freeBlocks_free hx.1 hx.2).append_left l).trans List.perm_middle)

theorem Tiles.cutRun (hn : 1 ≤ n) (h : Tiles ((i, n) :: l) top) : Tiles (runBlocks (i, n) ++ l) top := by
  induction n using Nat.strong_induction_on generalizing i l with
  | _ n ih =>
    by_cases hlarge : 128 < n
    · rw [← Nat.add_sub_of_le hlarge.le] at h
      have hcut := ((tiles_cut_iff (by decide) (Nat.sub_pos_of_lt hlarge)).1 h).perm (.swap _ _ _)
      rw [runBlocks_of_large hlarge]
      exact (ih (n - 128) (by omega) (Nat.sub_pos_of_lt hlarge) hcut).perm List.perm_middle
    · rw [runBlocks_of_small hn (Nat.not_lt.1 hlarge)]
      exact h

/-- A run put back keeps the tiling, whether it rejoins the never-used space or is cut into blocks. -/
theorem Tiles.placeRun {r : Nat × Nat} (h : Tiles (r :: (l ++ a.freeBlocks)) a.brk) :
    Tiles (l ++ (a.placeRun r).freeBlocks) (a.placeRun r).brk := by
  have hr : 1 ≤ r.2 := h.positive r List.mem_cons_self
  by_cases htop : r.1 + r.2 = a.brk
  · rw [SubAlloc.placeRun_of_top htop]
    rw [← htop] at h
    exact (tiles_top_iff hr).1 h
  · rw [SubAlloc.placeRun_of_below htop, SubAlloc.freeAll_brk]
    have hpush := SubAlloc.freeBlocks_freeAll (a := a) (l := runBlocks r) fun _ => size_of_mem_runBlocks
    exact (h.cutRun hr).perm (List.perm_append_comm_assoc _ _ _ |>.trans (hpush.symm.append_left l))

section
variable {runs : List (Nat × Nat)}

theorem Tiles.placeRuns (h : Tiles (l ++ runs ++ a.freeBlocks) a.brk) :
    Tiles (l ++ (runs.foldl SubAlloc.placeRun a).freeBlocks) (runs.foldl SubAlloc.placeRun a).brk := by
  induction runs generalizing a with
  | nil => simpa using h
  | cons r runs ih =>
    have hfirst : Tiles (r :: (l ++ runs ++ a.freeBlocks)) a.brk :=
      h.perm (by simp)
    exact ih hfirst.placeRun

theorem SubAlloc.placeRuns_brk_le : (runs.foldl SubAlloc.placeRun a).brk ≤ a.brk := by
  refine List.foldlRecOn (motive := fun b : SubAlloc => b.brk ≤ a.brk) runs _ le_rfl fun b hb r _ => ?_
  by_cases htop : r.1 + r.2 = b.brk
  · rw [SubAlloc.placeRun_of_top htop]
    exact (Nat.le_add_right _ _).trans (htop.trans_le hb)
  · rw [SubAlloc.placeRun_of_below htop, SubAlloc.freeAll_brk]
    exact hb

end
end

/-- The blocks that go back on the stacks: those of the runs that do not end at `top`. -/
def keptBlocks (top : Nat) (runs : List (Nat × Nat)) : List (Nat × Nat) :=
  (runs.filter fun r => r.1 + r.2 ≠ top).flatMap runBlocks

/-- Where the never-used space starts after the run that ends at `top` has rejoined it. -/
def topAfter (top : Nat) (runs : List (Nat × Nat)) : Nat := ((runs.find? fun r => r.1 + r.2 = top).map (·.1)).getD top

section
variable {a : SubAlloc} {r : Nat × Nat} {runs : List (Nat × Nat)} {top : Nat}

theorem size_of_mem_keptBlocks {x : Nat × Nat} (hx : x ∈ keptBlocks top runs) : 1 ≤ x.2 ∧ x.2 ≤ 128 := by
  obtain ⟨r, -, hxr⟩ := List.mem_flatMap.1 hx
  exact size_of_mem_runBlocks hxr

theorem keptBlocks_cons_of_top (h : r.1 + r.2 = top) : keptBlocks top (r :: runs) = keptBlocks top runs := by
  simp [keptBlocks, h]

theorem keptBlocks_cons_of_below (h : r.1 + r.2 ≠ top) : keptBlocks top (r :: runs) = runBlocks r ++ keptBlocks top runs := by
  simp [keptBlocks, h]

theorem topAfter_cons_of_top (h : r.1 + r.2 = top) : topAfter top (r :: runs) = r.1 := by simp [topAfter, h]

theorem topAfter_cons_of_below (h : r.1 + r.2 ≠ top) : topAfter top (r :: runs) = topAfter top runs := by simp [topAfter, h]

/-- Of runs that do not touch only the last can end at `BRK`. -/
theorem SubAlloc.placeRuns_eq (hgaps : runs.Pairwise fun x y => x.1 + x.2 < y.1) (hbelow : ∀ r ∈ runs, r.1 + r.2 ≤ a.brk) :
    runs.foldl SubAlloc.placeRun a = { a.freeAll (keptBlocks a.brk runs) with brk := topAfter a.brk runs } := by
  induction runs generalizing a with
  | nil => rfl
  | cons r runs ih =>
    obtain ⟨hgap, hgaps⟩ := List.pairwise_cons.1 hgaps
    obtain ⟨-, hbelow⟩ := List.forall_mem_cons.1 hbelow
    by_cases htop : r.1 + r.2 = a.brk
    · have hlast : runs = [] := List.eq_nil_iff_forall_not_mem.2 fun y hy => by
        have hgap := hgap y hy
        have hbelow := hbelow y hy
        omega
      rw [hlast, List.foldl_cons, SubAlloc.placeRun_of_top htop, keptBlocks_cons_of_top htop, topAfter_cons_of_top htop]
      rfl
    · have hbrk : (a.freeAll (runBlocks r)).brk = a.brk := SubAlloc.freeAll_brk _
      rw [List.foldl_cons, SubAlloc.placeRun_of_below htop, keptBlocks_cons_of_below htop, topAfter_cons_of_below htop,
        SubAlloc.freeAll_append, ih hgaps (hbrk.symm ▸ hbelow), hbrk]

end

/-! ### Coalescing, requests -/

section
variable {a : SubAlloc} {live : List (Nat × Nat)} {m top : Nat}

theorem SubAlloc.coalesce_eq (a : SubAlloc) :
    a.coalesce = (mergedRuns a.freeBlocks).foldl SubAlloc.placeRun (.bare a.u a.brk) := rfl

theorem Tiles.mergedRuns {l k : List (Nat × Nat)} (h : Tiles (k ++ l) top) : Tiles (k ++ mergedRuns l) top := by
  cases l with
  | nil => exact h
  | cons b t => exact h.mergeRuns

theorem covered_mergedRuns {l : List (Nat × Nat)} {i : Nat} : Covered (mergedRuns l) i ↔ Covered l i := by
  cases l with
  | nil => rfl
  | cons b t => exact covered_mergeRuns

theorem mergedRuns_gaps {l : List (Nat × Nat)} (h : l.Pairwise fun x y => x.1 + x.2 ≤ y.1) :
    (mergedRuns l).Pairwise fun x y => x.1 + x.2 < y.1 := by
  cases l with
  | nil => exact .nil
  | cons b t => exact mergeRuns_gaps h

/-- Sorted blocks that do not overlap follow one another. -/
theorem SubAlloc.freeBlocks_ordered (h : Tiles (live ++ a.freeBlocks) top) :
    a.freeBlocks.Pairwise fun x y => x.1 + x.2 ≤ y.1 := by
  have hapart := (List.pairwise_append.1 h.disjoint).2.1
  refine (a.freeBlocks_sorted.and hapart).imp_of_mem fun {x y} _ hy hxy => ?_
  obtain ⟨hsorted, hxy⟩ := hxy
  have hpos := (SubAlloc.size_of_mem_freeBlocks hy).1
  unfold apart at hxy
  omega

theorem SubAlloc.Accounts.coalesce (h : a.Accounts live) : a.coalesce.Accounts live := by
  obtain ⟨htiles, hsmall, hbudget⟩ := SubAlloc.accounts_iff.1 h
  rw [SubAlloc.accounts_iff, a.coalesce_u, a.coalesce_eq]
  refine ⟨Tiles.placeRuns ?_, hsmall, SubAlloc.placeRuns_brk_le.trans hbudget⟩
  rw [SubAlloc.bare_freeBlocks, List.append_nil]
  exact htiles.mergedRuns

/-- A request finds a block in the books as they are or as coalescing leaves them (R296). -/
theorem SubAlloc.Accounts.alloc {n : Nat} (h : a.Accounts live) (hn : 1 ≤ n) (hn128 : n ≤ 128) :
    (∀ i, (a.alloc n).1 = some i → (a.alloc n).2.Accounts ((i, n) :: live)) ∧
    ((a.alloc n).1 = none → (a.alloc n).2.Accounts live) := by
  cases hfirst : a.try n with
  | some r =>
    rw [SubAlloc.alloc_of_try hfirst]
    refine ⟨fun i hi => ?_, nofun⟩
    cases hi
    exact h.try hn hn128 hfirst
  | none =>
    cases hsecond : a.coalesce.try n with
    | some r =>
      rw [SubAlloc.alloc_of_coalesced hfirst hsecond]
      refine ⟨fun i hi => ?_, nofun⟩
      cases hi
      exact h.coalesce.try hn hn128 hsecond
    | none =>
      rw [SubAlloc.alloc_of_fails hfirst hsecond]
      exact ⟨nofun, fun _ => h.coalesce⟩

theorem SubAlloc.Accounts.head_apart {x : Nat × Nat} (h : a.Accounts (x :: live)) : ∀ b ∈ live, apart x b := fun b hb =>
  (List.pairwise_cons.1 h.disjoint).1 b (List.mem_append_left _ hb)

/-- The allocator after coalescing, from the runs. -/
theorem SubAlloc.Accounts.coalesce_eq (h : a.Accounts live) : a.coalesce =
    { SubAlloc.freeAll (.bare a.u a.brk) (keptBlocks a.brk (mergedRuns a.freeBlocks)) with
      brk := topAfter a.brk (mergedRuns a.freeBlocks) } := by
  obtain ⟨htiles, -, -⟩ := SubAlloc.accounts_iff.1 h
  rw [a.coalesce_eq]
  exact SubAlloc.placeRuns_eq (mergedRuns_gaps (SubAlloc.freeBlocks_ordered htiles)) fun r hr =>
    htiles.mergedRuns.below r (List.mem_append_right _ hr)

theorem SubAlloc.Accounts.bucket_coalesce (h : a.Accounts live) (hm : 1 ≤ m) : a.coalesce.bucket m =
    ((keptBlocks a.brk (mergedRuns a.freeBlocks)).filterMap fun p => if p.2 = m then some p.1 else none).reverse := by
  rw [h.coalesce_eq]
  refine (SubAlloc.bucket_freeAll (fun _ => size_of_mem_keptBlocks) hm).trans ?_
  rw [SubAlloc.bare_bucket, List.append_nil]

end

/-- Settles O27: the books are a tiling, which every operation keeps; the runs are the merged free blocks. -/
theorem allocatorBlocksStayDisjoint : Obligations.AllocatorBlocksStayDisjoint := by
  refine ⟨SubAlloc.accounts_reset, fun a live h => ⟨fun n hn hn128 => ?_, fun b hb => h.free hb, mergedRuns a.freeBlocks, ?_⟩⟩
  · obtain ⟨hserved, hfailed⟩ := h.alloc hn hn128
    exact ⟨fun i hi => ⟨hserved i hi, (hserved i hi).head_apart⟩, hfailed, a.alloc_u n⟩
  · obtain ⟨htiles, -, -⟩ := SubAlloc.accounts_iff.1 h
    exact ⟨mergedRuns_gaps (SubAlloc.freeBlocks_ordered htiles),
      fun r hr => htiles.mergedRuns.positive r (List.mem_append_right _ hr), fun _ => covered_mergedRuns, a.coalesce_u,
      congrArg SubAlloc.brk h.coalesce_eq, fun _ hm _ => h.bucket_coalesce hm⟩

end Sys2Proof.Machine
end

section
/-! PROOFS. The commands of the Filter VM that place, read and identify (spec/47_filtervm.md R314, R315, R340, R344, R346, R347), each
as one equation for an idle machine. -/

namespace Sys2Proof.Machine

/-- Noting `BAD_PROGRAM` sets bit 6 of `EVENTS` (R314, spec/10_state.md R44). -/
theorem State.noteIf_badProgram (s : State) (b : Bool) :
    s.noteIf b .badProgram = s.setSt { s.st with events := if b then s.st.events ||| 64 else s.st.events } := by
  cases b <;> rfl

/-! ### Filter memory (R49) -/

theorem FilterVm.read_put_self (v : FilterVm) (a : Nat) (b : Byte) :
    ({ v with fm := Sparse.put v.fm a b } : FilterVm).read a = b := by
  rw [FilterVm.read, Sparse.find_put_self, Option.getD_some]

theorem FilterVm.read_put_ne (v : FilterVm) {a c : Nat} (b : Byte) (hc : c ≠ a) :
    ({ v with fm := Sparse.put v.fm a b } : FilterVm).read c = v.read c := by
  rw [FilterVm.read, FilterVm.read, Sparse.find_put_ne _ _ _ _ hc]

theorem FilterVm.length_prefixBytes (v : FilterVm) (n : Nat) : (v.prefixBytes n).length = n := by simp [FilterVm.prefixBytes]

/-! ### Identification (R314, R315) -/

/-- A program that is empty, or whose first byte is not the XOR of the rest (R314). -/
def BadProgram (prog : List Byte) : Prop := prog = [] ∨ prog.headD 0 ≠ prog.tail.foldl (· ^^^ ·) 0

theorem identify_bad (cat : List CatalogueEntry) {prog : List Byte} (h : BadProgram prog) : identify cat prog = (.none, true) := by
  cases prog with
  | nil => rfl
  | cons x body => exact if_pos (h.resolve_left nofun)

/-- A program with a good first byte has the kind of the catalogue entry found, and notes nothing (R315). -/
theorem identify_good (cat : List CatalogueEntry) {prog : List Byte} (h : ¬BadProgram prog) :
    identify cat prog =
      (((cat.find? fun e => e.bodyLen == prog.tail.length && e.crc == crc32 prog.tail).map (·.kind)).getD .none, false) := by
  cases prog with
  | nil => exact absurd (.inl rfl) h
  | cons x body =>
    have hx : ¬x ≠ xorBytes body := fun hx => h (.inr hx)
    rw [identify, if_neg hx]
    simp only [List.tail_cons]
    cases cat.find? fun e => e.bodyLen == body.length && e.crc == crc32 body <;> rfl

/-! ### The commands -/

section
variable {s : State} (hi : s.isIdle = true)
include hi

theorem exec_fvLoad_idle {o : Word} (b : Byte) (ho : o.toNat < 262144) : exec (.fvLoad o (b.setWidth 32)) s =
    .next (s.accept.setVm { s.vm with fm := Sparse.put s.vm.fm o.toNat b }) := by
  have hbyte : (b.setWidth 32).toNat ≤ 255 := by
    rw [BitVec.toNat_setWidth_of_le (by decide)]
    exact Nat.le_of_lt_succ b.isLt
  have hback : (b.setWidth 32).setWidth 8 = b := by simp
  have haccept : execFvLoad o (b.setWidth 32) s =
      .next (s.accept.setVm { s.vm with fm := Sparse.put s.vm.fm o.toNat ((b.setWidth 32).setWidth 8) }) :=
    idleCommand_accept _ s _ hi (Bool.and_eq_true_iff.2 ⟨decide_eq_true ho, decide_eq_true hbyte⟩)
  rw [hback] at haccept
  exact haccept

theorem exec_fvSetreg_idle (r : Fin 8) (v : Word) : exec (.fvSetreg (BitVec.ofNat 32 r.val) v) s =
    .next (s.accept.setVm { s.vm with regs := s.vm.regs.set r.val v }) := by
  have hr : (BitVec.ofNat 32 r.val).toNat = r.val := Nat.mod_eq_of_lt (by omega)
  show execFvSetreg _ _ s = _
  rw [execFvSetreg, hr, ← Vector.setIfInBounds_eq_set]
  exact idleCommand_accept _ s _ hi (decide_eq_true (Nat.le_of_lt_succ r.isLt))

theorem exec_fvRead_idle {o : Word} (ho : o.toNat < 262144) : exec (.fvRead o) s =
    .next (s.accept.setResult ((s.vm.read o.toNat).setWidth 32)) := by
  show execFvRead o s = _
  exact idleCommand_accept _ s _ hi (decide_eq_true ho)

theorem exec_fvIdent_idle {n : Word} (hn : n.toNat ≤ 262144) : exec (.fvIdent n) s =
    .next { s with st := { s.st with
      cmdErr := false, result := BitVec.ofNat 32 (identify s.catalogue (s.vm.prefixBytes n.toNat)).1.tag,
      events := if (identify s.catalogue (s.vm.prefixBytes n.toNat)).2 then s.st.events ||| 64 else s.st.events } } := by
  have haccept : exec (.fvIdent n) s =
      .next ((s.accept.noteIf (identify s.catalogue (s.vm.prefixBytes n.toNat)).2 .badProgram).setResult
        (BitVec.ofNat 32 (identify s.catalogue (s.vm.prefixBytes n.toNat)).1.tag)) := by
    show execFvIdent n s = _
    exact idleCommand_accept _ s _ hi (decide_eq_true hn)
  rw [haccept, State.noteIf_badProgram]
  rfl

end

/-- Settles O30: each command is accepted; a program is identified as bad, or by the catalogue. -/
theorem filterVmCommands : Obligations.FilterVmCommands := by
  intro s hi
  refine ⟨fun o b ho _ => ⟨_, exec_fvLoad_idle hi b ho, s.vm.read_put_self _ _, fun a ha => s.vm.read_put_ne _ ha, rfl⟩,
    exec_fvSetreg_idle hi, fun o ho => exec_fvRead_idle hi ho,
    fun n hn => ⟨_, exec_fvIdent_idle hi hn, fun hbad => ?_, fun hgood => ?_, rfl⟩⟩
  · rw [identify_bad s.catalogue hbad]
    exact ⟨rfl, rfl⟩
  · rw [identify_good s.catalogue hgood]
    exact ⟨rfl, fun e he => by rw [he]; rfl, fun he => by rw [he]; rfl⟩

end Sys2Proof.Machine
end

section
/-! PROOFS. Filter tokens (spec/47_filtervm.md R312, R313, R316 to R318): the register values a token gives, the program it stores and
the descriptor it queues. -/

namespace Sys2Proof.Machine

/-! ### The registers of a token (R107, R317) -/

@[simp] theorem regAt_setIfInBounds_self (r : VmRegs) {i : Nat} (v : Word) (hi : i < 8) : regAt (r.setIfInBounds i v) i = v := by
  simp [regAt, hi]

@[simp] theorem regAt_setIfInBounds_ne (r : VmRegs) {i j : Nat} (v : Word) (h : i ≠ j) :
    regAt (r.setIfInBounds i v) j = regAt r j := by
  simp [regAt, Vector.getElem?_setIfInBounds_ne h]

/-- Values written to registers of their own leave every other register. -/
theorem regAt_foldl_of_notMem (l : List (Nat × Word)) (r : VmRegs) (j : Nat) (hj : ∀ p ∈ l, p.1 ≠ j) :
    regAt (l.foldl (fun r p => r.setIfInBounds p.1 p.2) r) j = regAt r j := by
  induction l generalizing r with
  | nil => rfl
  | cons p t ih =>
    obtain ⟨hp, ht⟩ := List.forall_mem_cons.1 hj
    rw [List.foldl_cons, ih _ ht, regAt_setIfInBounds_ne _ _ hp]

/-- So do the values zipped with registers among which it is not. -/
theorem regAt_foldl_zip_of_notMem {is : List Nat} (vs : List Word) (r : VmRegs) {j : Nat} (hj : j ∉ is) :
    regAt ((is.zip vs).foldl (fun r p => r.setIfInBounds p.1 p.2) r) j = regAt r j :=
  regAt_foldl_of_notMem _ r j fun _ hp h => hj (h ▸ (List.of_mem_zip hp).1)

/-- The registers listed, none twice, take the values in order; one for which no value is left keeps its own. -/
theorem regAt_foldl_zip (is : List Nat) (vs : List Word) (r : VmRegs) (hnodup : is.Nodup) (k : Nat) {j : Nat} (hj : j < 8)
    (hk : is[k]? = some j) :
    regAt ((is.zip vs).foldl (fun r p => r.setIfInBounds p.1 p.2) r) j = vs.getD k (regAt r j) := by
  induction is generalizing vs r k with
  | nil => simp at hk
  | cons i t ih =>
    obtain ⟨hi, ht⟩ := List.nodup_cons.1 hnodup
    cases vs with
    | nil => simp
    | cons v vs =>
      rw [List.zip_cons_cons, List.foldl_cons]
      cases k with
      | zero =>
        obtain rfl : i = j := by simpa using hk
        rw [regAt_foldl_zip_of_notMem _ _ hi, regAt_setIfInBounds_self _ _ hj, List.getD_cons_zero]
      | succ k =>
        have hk' : t[k]? = some j := by simpa using hk
        have hne : i ≠ j := fun h => hi (h ▸ List.mem_of_getElem? hk')
        rw [ih vs _ ht k hk', regAt_setIfInBounds_ne _ _ hne, List.getD_cons_succ]

theorem maskRegs_nodup (mask : Byte) : (maskRegs mask).Nodup := List.nodup_range.filter _

theorem mem_maskRegs {mask : Byte} {j : Nat} : j ∈ maskRegs mask ↔ j < 7 ∧ mask.getLsbD j = true := by simp [maskRegs]

/-- A register the mask names has as many before it as the mask has lower bits set. -/
theorem maskRegs_getElem? {mask : Byte} {j : Nat} (hj : j < 7) (hm : mask.getLsbD j = true) :
    (maskRegs mask)[(List.range j).countP fun m => mask.getLsbD m]? = some j := by
  have hsplit : List.range 7 = List.range j ++ j :: (List.range (6 - j)).map (j + 1 + ·) := by
    conv_lhs => rw [show 7 = j + 1 + (6 - j) by omega, List.range_add, List.range_succ]
    rw [List.append_assoc, List.singleton_append]
  rw [maskRegs, hsplit, List.filter_append, List.filter_cons_of_pos hm, List.countP_eq_length_filter,
    List.getElem?_append_right (Nat.le_refl _), Nat.sub_self, List.getElem?_cons_zero]

theorem regAt_zeros (j : Nat) : regAt (Vector.replicate 8 0) j = 0 := by
  by_cases h : j < 8 <;> simp [regAt, h]

theorem regAt_tokenRegs_of_notMem (t : FilterTok) {j : Nat} (hj : j ∉ maskRegs t.mask) : regAt (tokenRegs t) j = 0 :=
  (regAt_foldl_zip_of_notMem _ _ hj).trans (regAt_zeros j)

/-- What a token gives register `j` (R107). -/
theorem regAt_tokenRegs (t : FilterTok) {j : Nat} (hj : j < 7) : regAt (tokenRegs t) j =
    if t.mask.getLsbD j then t.regs.getD ((List.range j).countP fun m => t.mask.getLsbD m) 0 else 0 := by
  split
  next hm =>
    rw [tokenRegs, regAt_foldl_zip _ _ _ (maskRegs_nodup _) _ (by omega) (maskRegs_getElem? hj hm), regAt_zeros]
  next hm => exact regAt_tokenRegs_of_notMem t fun h => hm (mem_maskRegs.1 h).2

/-! ### The program and the descriptor (R312, R313, R316 to R318) -/

theorem tokenSlot_eq (t : FilterTok) : tokenSlot t = t.f0.toNat % 16 := by
  simp [tokenSlot, BitVec.extractLsb'_toNat]

theorem tokenNewProg_iff (t : FilterTok) : tokenNewProg t = true ↔ 128 ≤ t.f0.toNat := by
  rw [tokenNewProg, ← BitVec.msb_eq_getLsbD_last, BitVec.msb_eq_decide, decide_eq_true_eq]

/-- `STORE` after a token whose program is of kind `k` (R313). -/
def FilterVm.storeAfter (v : FilterVm) (t : FilterTok) (k : FilterKind) : Vector (Option FilterKind) Config.progSlots :=
  if 128 ≤ t.f0.toNat then v.store.setIfInBounds (t.f0.toNat % 16) (some k) else v.store

/-- The machine once a token's program is stored, and noted if it is bad (R313, R314). -/
def State.withProgram (s : State) (t : FilterTok) : State := { s with
  vm := { s.vm with store := s.vm.storeAfter t (identify s.catalogue t.prog).1 },
  st := { s.st with
    events := s.st.events ||| if 128 ≤ t.f0.toNat ∧ (identify s.catalogue t.prog).2 = true then 64 else 0 } }

theorem State.storeProgram_eq (s : State) (t : FilterTok) : s.storeProgram t = s.withProgram t := by
  unfold State.withProgram FilterVm.storeAfter
  by_cases hnew : 128 ≤ t.f0.toNat
  · rw [State.storeProgram, if_pos ((tokenNewProg_iff t).2 hnew), tokenSlot_eq]
    cases hbad : (identify s.catalogue t.prog).2 <;> simp [hnew, hbad, State.noteIf_badProgram, State.setSt, State.setVm]
  · rw [State.storeProgram, if_neg (mt (tokenNewProg_iff t).1 hnew)]
    simp [hnew]

/-- A token that queues nothing (R318). -/
def State.DropsToken (s : State) (t : FilterTok) : Prop := t.len = 0 ∨ 262144 < t.len.toNat ∨ 1024 ≤ s.vm.fq.length

theorem State.registerFilter_dropped {s : State} {t : FilterTok} (h : s.DropsToken t) :
    s.registerFilter t = (s.withProgram t).note .filterDropped := by
  rw [State.registerFilter, s.storeProgram_eq]
  exact if_pos h

theorem State.registerFilter_queued {s : State} {t : FilterTok} (h : ¬s.DropsToken t) :
    s.registerFilter t = (s.withProgram t).setVm { (s.withProgram t).vm with
      fq := s.vm.fq ++
        [⟨s.win.tw + t.start.toNat, t.len.toNat, (s.withProgram t).vm.kindAt (t.f0.toNat % 16), tokenRegs t, true⟩] } := by
  rw [State.registerFilter, s.storeProgram_eq, tokenSlot_eq]
  exact if_neg h

/-- The three tokens that are filter tokens register their descriptor. -/
theorem exec_filterToken {s : State} {t : FilterTok} {i : Instr}
    (h : i = .filter t ∧ s.ses.verL = 3 ∨ i = .ppmFilter t ∨ i = .filterTok t) : exec i s = .next (s.registerFilter t) := by
  obtain ⟨rfl, hg4⟩ | rfl | rfl := h
  · show execFilter t s = _
    rw [execFilter, hg4]
    rfl
  · rfl
  · rfl

/-- Settles O40: the program is stored; then the token is dropped, or its descriptor goes to the end of the queue. -/
theorem filterTokensRegisterADescriptor : Obligations.FilterTokensRegisterADescriptor := by
  intro s t i hi slot prog newProg store drop
  refine ⟨s.registerFilter t, tokenRegs t, exec_filterToken hi, ?_,
    regAt_tokenRegs_of_notMem t fun h => absurd (mem_maskRegs.1 h).1 (Nat.lt_irrefl 7), fun j hj => regAt_tokenRegs t hj⟩
  by_cases hdrop : drop
  · rw [State.registerFilter_dropped hdrop, if_pos hdrop, if_pos hdrop]
    rfl
  · have hnone (x : Word) : x ||| 0 = x := BitVec.or_zero
    rw [State.registerFilter_queued hdrop, if_neg hdrop, if_neg hdrop, hnone]
    rfl

end Sys2Proof.Machine
end

section
/-! PROOFS. Transforms whose source is channel-planar and whose output is interleaved (spec/47_filtervm.md R333, R335, R337): the run over
the channels, and what it leaves at each place, stated once for every such transform. -/

namespace Sys2Proof.Machine

theorem getD_set_self {d : List Byte} {i : Nat} (v : Byte) (hi : i < d.length) : (d.set i v).getD i 0 = v := by
  simp [List.getD_eq_getElem?_getD, hi]

theorem getD_set_ne (d : List Byte) {i j : Nat} (v : Byte) (h : i ≠ j) : (d.set i v).getD j 0 = d.getD j 0 := by
  simp [List.getD_eq_getElem?_getD, h]

/-- A transform that fills an output of `n` bytes channel by channel, `ch` channels: from `start` (source position, output so
far) one `step` for each place of a channel, which takes the next byte of the source and puts the byte `made` there; `prev` is
the byte the channel put last, 0 at its beginning. -/
structure PlaneCoder (σ : Type) where
  start : Nat → List Byte → σ
  step : σ → Nat → σ
  pos : σ → Nat
  out : σ → List Byte
  made : σ → Nat → Byte
  prev : σ → Byte
  pos_start : ∀ j d, pos (start j d) = j
  out_start : ∀ j d, out (start j d) = d
  prev_start : ∀ j d, prev (start j d) = 0
  pos_step : ∀ s i, pos (step s i) = pos s + 1
  out_step : ∀ s i, out (step s i) = (out s).set i (made s i)
  prev_step : ∀ s i, prev (step s i) = made s i

/-- How many bytes channel `c` of `ch` has in a block of `n`. -/
def planeLen (n ch c : Nat) : Nat := (n - c + ch - 1) / ch

theorem lt_planeLen {n ch c k : Nat} (hch : 1 ≤ ch) : k < planeLen n ch c ↔ c + ch * k < n := by
  rw [planeLen, Nat.lt_iff_add_one_le, Nat.le_div_iff_mul_le hch, Nat.add_mul, Nat.mul_comm k]
  omega

theorem planeStart_succ (n ch c : Nat) : planeStart n ch (c + 1) = planeStart n ch c + planeLen n ch c := by
  simp [planeStart, planeLen, List.range_succ]

/-- Place `c + ch * k` belongs to channel `c`. -/
theorem channel_of_place {ch c : Nat} (hc : c < ch) (k : Nat) : (c + ch * k) % ch = c := by
  rw [Nat.add_mul_mod_self_left, Nat.mod_eq_of_lt hc]

namespace PlaneCoder

variable {σ : Type} (P : PlaneCoder σ) (ch n : Nat)

/-- Channel `c` before its `k`-th byte, from source position `x.1` and output `x.2`. -/
def along (c k : Nat) (x : Nat × List Byte) : σ := ((List.range k).map fun i => c + ch * i).foldl P.step (P.start x.1 x.2)

/-- Source position and output after channel `c`. -/
def channel (x : Nat × List Byte) (c : Nat) : Nat × List Byte :=
  let r := (everyNth c ch n).foldl P.step (P.start x.1 x.2)
  (P.pos r, P.out r)

/-- Source position and output before channel `c`. -/
def before (c : Nat) : Nat × List Byte := (List.range c).foldl (P.channel ch n) (0, List.replicate n 0)

/-- The state before byte `k` of channel `c`. -/
def reach (c k : Nat) : σ := P.along ch c k (P.before ch n c)

/-- The whole output. -/
def final : List Byte := (P.before ch n ch).2

variable {P ch n}

theorem along_succ (c k : Nat) (x : Nat × List Byte) : P.along ch c (k + 1) x = P.step (P.along ch c k x) (c + ch * k) := by
  simp [along, List.range_succ]

theorem reach_zero (c : Nat) : P.reach ch n c 0 = P.start (P.before ch n c).1 (P.before ch n c).2 := rfl

theorem reach_succ (c k : Nat) : P.reach ch n c (k + 1) = P.step (P.reach ch n c k) (c + ch * k) := along_succ c k _

theorem before_succ (c : Nat) : P.before ch n (c + 1) =
    (P.pos (P.reach ch n c (planeLen n ch c)), P.out (P.reach ch n c (planeLen n ch c))) := by
  rw [before, List.range_succ, List.foldl_append]
  rfl

/-! ### The source position -/

theorem pos_reach_eq_add (c k : Nat) : P.pos (P.reach ch n c k) = (P.before ch n c).1 + k := by
  induction k with
  | zero => rw [reach_zero, P.pos_start, Nat.add_zero]
  | succ k ih => rw [reach_succ, P.pos_step, ih, Nat.add_assoc]

theorem before_pos (c : Nat) : (P.before ch n c).1 = planeStart n ch c := by
  induction c with
  | zero => rfl
  | succ c ih => rw [before_succ, pos_reach_eq_add, ih, planeStart_succ]

/-- Byte `k` of channel `c` is taken from place `k` of the channel's plane. -/
theorem pos_reach (c k : Nat) : P.pos (P.reach ch n c k) = planeStart n ch c + k := by
  rw [pos_reach_eq_add, before_pos]

/-! ### The output -/

theorem length_reach_eq (c k : Nat) : (P.out (P.reach ch n c k)).length = (P.before ch n c).2.length := by
  induction k with
  | zero => rw [reach_zero, P.out_start]
  | succ k ih => rw [reach_succ, P.out_step, List.length_set, ih]

theorem length_before (c : Nat) : (P.before ch n c).2.length = n := by
  induction c with
  | zero => exact List.length_replicate
  | succ c ih => rw [before_succ, length_reach_eq, ih]

theorem length_reach (c k : Nat) : (P.out (P.reach ch n c k)).length = n := (length_reach_eq c k).trans (length_before c)

theorem length_final : (P.final ch n).length = n := length_before ch

/-- A step leaves every place but its own. -/
theorem getD_reach_succ_ne {c k q : Nat} (hq : q ≠ c + ch * k) :
    (P.out (P.reach ch n c (k + 1))).getD q 0 = (P.out (P.reach ch n c k)).getD q 0 := by
  rw [reach_succ, P.out_step, getD_set_ne _ _ hq.symm]

/-- From byte `k` on, a channel leaves the places of its bytes before and of the other channels. -/
theorem getD_reach_le {c k m q : Nat} (hm : k ≤ m) (hc : c < ch) (hq : q % ch = c → q < c + ch * k) :
    (P.out (P.reach ch n c m)).getD q 0 = (P.out (P.reach ch n c k)).getD q 0 := by
  induction m, hm using Nat.le_induction with
  | base => rfl
  | succ m hm ih =>
    have hne : q ≠ c + ch * m := by
      rintro rfl
      exact absurd (hq (channel_of_place hc m)) (Nat.not_lt.2 (Nat.add_le_add_left (Nat.mul_le_mul_left ch hm) c))
    exact (getD_reach_succ_ne hne).trans ih

/-- A channel leaves the places of the others. -/
theorem getD_before_succ {c q : Nat} (hc : c < ch) (hq : q % ch ≠ c) :
    (P.before ch n (c + 1)).2.getD q 0 = (P.before ch n c).2.getD q 0 := by
  rw [before_succ, getD_reach_le (Nat.zero_le _) hc fun h => absurd h hq, reach_zero, P.out_start]

/-- From channel `c` on, the places of the channels before stay. -/
theorem getD_before_le {c m q : Nat} (hm : c ≤ m) (hch : m ≤ ch) (hq : q % ch < c) :
    (P.before ch n m).2.getD q 0 = (P.before ch n c).2.getD q 0 := by
  induction m, hm using Nat.le_induction with
  | base => rfl
  | succ m hm ih => exact (getD_before_succ hch (by omega)).trans (ih (Nat.le_of_lt hch))

/-- What a channel has put into its places stays: the output before byte `k` of channel `c` is the final one where a byte was put
already. -/
theorem getD_final_of_made {c k q : Nat} (hc : c < ch) (hk : k ≤ planeLen n ch c)
    (hq : q % ch < c ∨ q % ch = c ∧ q < c + ch * k) :
    (P.final ch n).getD q 0 = (P.out (P.reach ch n c k)).getD q 0 := by
  have hsame : q % ch = c → q < c + ch * k := fun h => hq.elim (fun hlt => absurd h (Nat.ne_of_lt hlt)) (·.2)
  rw [final, getD_before_le (c := c + 1) hc (Nat.le_refl ch) (by omega), before_succ, getD_reach_le hk hc hsame]

/-- A channel has still to come: its places hold 0. -/
theorem getD_before_of_le {c q : Nat} (hc : c ≤ q % ch) (hch : c ≤ ch) : (P.before ch n c).2.getD q 0 = 0 := by
  induction c with
  | zero => simp [before]
  | succ c ih => exact (getD_before_succ hch (by omega)).trans (ih (by omega) (by omega))

/-- Where no byte was put the output is still 0. -/
theorem getD_reach_of_not_made {c k q : Nat} (hc : c < ch) (hq : c < q % ch ∨ q % ch = c ∧ c + ch * k ≤ q) :
    (P.out (P.reach ch n c k)).getD q 0 = 0 := by
  induction k with
  | zero =>
    rw [reach_zero, P.out_start]
    exact getD_before_of_le (by omega) (Nat.le_of_lt hc)
  | succ k ih =>
    have hstep : c + ch * (k + 1) = c + ch * k + ch := by rw [Nat.mul_add, Nat.mul_one, Nat.add_assoc]
    have hne : q ≠ c + ch * k := by
      rintro rfl
      rw [channel_of_place hc k] at hq
      omega
    exact (getD_reach_succ_ne hne).trans (ih (hq.imp_right fun ⟨h, hle⟩ => ⟨h, by omega⟩))

/-- The byte put at a place is the final one. -/
theorem getD_final (hch : 1 ≤ ch) {c k : Nat} (hc : c < ch) (hk : c + ch * k < n) :
    (P.final ch n).getD (c + ch * k) 0 = P.made (P.reach ch n c k) (c + ch * k) := by
  have hput : c + ch * k < c + ch * (k + 1) := Nat.add_lt_add_left (Nat.mul_lt_mul_of_pos_left (Nat.lt_succ_self k) hch) c
  rw [getD_final_of_made hc ((lt_planeLen hch).2 hk) (.inr ⟨channel_of_place hc k, hput⟩), reach_succ, P.out_step,
    getD_set_self _ (by rwa [length_reach])]

/-- What the output holds before byte `k` of channel `c`. -/
theorem getD_reach (hch : 1 ≤ ch) {c k : Nat} (hc : c < ch) (hk : c + ch * k < n) (q : Nat) :
    (P.out (P.reach ch n c k)).getD q 0 = if q % ch < c ∨ q % ch = c ∧ q < c + ch * k then (P.final ch n).getD q 0 else 0 := by
  split
  next h => exact (getD_final_of_made hc (Nat.le_of_lt ((lt_planeLen hch).2 hk)) h).symm
  next h => exact getD_reach_of_not_made hc (by omega)

/-- The byte before in the channel. -/
theorem prev_reach (hch : 1 ≤ ch) {c k : Nat} (hc : c < ch) (hk : c + ch * k < n) :
    P.prev (P.reach ch n c k) = if k = 0 then 0 else (P.final ch n).getD (c + ch * (k - 1)) 0 := by
  cases k with
  | zero => rw [reach_zero, P.prev_start, if_pos rfl]
  | succ k =>
    have hlt : c + ch * k < n := Nat.lt_of_le_of_lt (Nat.add_le_add_left (Nat.mul_le_mul_left ch (Nat.le_succ k)) c) hk
    rw [if_neg (Nat.succ_ne_zero k), Nat.add_sub_cancel, getD_final hch hc hlt, reach_succ, P.prev_step]

end PlaneCoder

/-! ### Delta (R333) -/

/-- The channels of `DELTA`. -/
def deltaCoder (src : List Byte) : PlaneCoder (Byte × Nat × List Byte) where
  start j d := (0, j, d)
  step := deltaStep src
  pos st := st.2.1
  out st := st.2.2
  made st _ := st.1 - byteOf src st.2.1
  prev st := st.1
  pos_start _ _ := rfl
  out_start _ _ := rfl
  prev_start _ _ := rfl
  pos_step _ _ := rfl
  out_step _ _ := rfl
  prev_step _ _ := rfl

theorem deltaChannels_eq (ch : Nat) (src : List Byte) (cs : List Nat) (j : Nat) (d : List Byte) :
    deltaChannels ch src cs j d = (cs.foldl ((deltaCoder src).channel ch src.length) (j, d)).2 := by
  induction cs generalizing j d with
  | nil => rfl
  | cons c cs ih => exact ih _ _

/-- Where `DELTA` passes its block through (R338). -/
def DeltaPasses (ch : Nat) (src : List Byte) : Prop := ch = 0 ∨ 1024 < ch ∨ 131072 < src.length

theorem delta_passes {ch : Nat} {src : List Byte} (h : DeltaPasses ch src) : delta ch src = src := if_pos h

theorem delta_codes {ch : Nat} {src : List Byte} (h : ¬DeltaPasses ch src) : delta ch src = (deltaCoder src).final ch src.length :=
  (if_neg h).trans (deltaChannels_eq _ _ _ _ _)

/-! ### RGB (R335) -/

/-- The components of `RGB`. -/
def rgbCoder (stride : Nat) (src : List Byte) : PlaneCoder (Byte × Nat × List Byte) where
  start j d := (0, j, d)
  step := rgbStep stride src
  pos st := st.2.1
  out st := st.2.2
  made st i := (rgbStep stride src st i).1
  prev st := st.1
  pos_start _ _ := rfl
  out_start _ _ := rfl
  prev_start _ _ := rfl
  pos_step _ _ := rfl
  out_step _ _ := rfl
  prev_step _ _ := rfl

theorem rgbPlanes_eq (stride : Nat) (src : List Byte) (cs : List Nat) (j : Nat) (d : List Byte) :
    rgbPlanes stride src cs j d = (cs.foldl ((rgbCoder stride src).channel 3 src.length) (j, d)).2 := by
  induction cs generalizing j d with
  | nil => rfl
  | cons c cs ih => exact ih _ _

/-- Where `RGB` passes its block through (R338). -/
def RgbPasses (r0 r1 : Word) (src : List Byte) : Prop :=
  src.length < 3 ∨ 131072 < src.length ∨ src.length < (r0 - 3).toNat ∨ 2 < r1.toNat

theorem rgb_passes {r0 r1 : Word} {src : List Byte} (h : RgbPasses r0 r1 src) : rgb r0 r1 src = src := if_pos h

/-- The middle component added back to its neighbours, for the first `t` pixels from place `first` on. -/
def greenAdded (first n t : Nat) (d : List Byte) : List Byte :=
  ((List.range t).map fun k => first + 3 * k).foldl (greenAdd n) d

theorem rgb_codes {r0 r1 : Word} {src : List Byte} (h : ¬RgbPasses r0 r1 src) : rgb r0 r1 src =
    greenAdded r1.toNat src.length (planeLen src.length 3 r1.toNat) ((rgbCoder (r0 - 3).toNat src).final 3 src.length) := by
  rw [rgb, rgbPlanes_eq]
  exact if_neg h

theorem greenAdded_succ (first n t : Nat) (d : List Byte) :
    greenAdded first n (t + 1) d = greenAdd n (greenAdded first n t d) (first + 3 * t) := by
  simp [greenAdded, List.range_succ]

theorem length_greenAdd (n : Nat) (d : List Byte) (i : Nat) : (greenAdd n d i).length = d.length := by
  unfold greenAdd
  split <;> simp

theorem length_greenAdded (first n t : Nat) (d : List Byte) : (greenAdded first n t d).length = d.length := by
  induction t with
  | zero => rfl
  | succ t ih => rw [greenAdded_succ, length_greenAdd, ih]

/-! ### Audio (R337) -/

/-- The channels of `AUDIO`. -/
def audioCoder (src : List Byte) : PlaneCoder AudioVars where
  start j d := ⟨0, 0, 0, 0, 0, 0, 0, 0, List.replicate 7 0, 0, j, d⟩
  step := audioStep src
  pos := AudioVars.j
  out := AudioVars.out
  made v i := BitVec.ofInt 8 (audioStep src v i).prev
  prev v := BitVec.ofInt 8 v.prev
  pos_start _ _ := rfl
  out_start _ _ := rfl
  prev_start _ _ := rfl
  pos_step _ _ := rfl
  out_step _ _ := rfl
  prev_step _ _ := rfl

theorem audioChannels_eq (ch : Nat) (src : List Byte) (cs : List Nat) (j : Nat) (d : List Byte) :
    audioChannels ch src cs j d = (cs.foldl ((audioCoder src).channel ch src.length) (j, d)).2 := by
  induction cs generalizing j d with
  | nil => rfl
  | cons c cs ih => exact ih _ _

/-- Where `AUDIO` passes its block through (R338). -/
def AudioPasses (ch : Nat) (src : List Byte) : Prop := ch = 0 ∨ 128 < ch ∨ 131072 < src.length

theorem audio_passes {ch : Nat} {src : List Byte} (h : AudioPasses ch src) : audio ch src = src := if_pos h

theorem audio_codes {ch : Nat} {src : List Byte} (h : ¬AudioPasses ch src) : audio ch src = (audioCoder src).final ch src.length :=
  (if_neg h).trans (audioChannels_eq _ _ _ _ _)

/-! ### Lengths (R320) -/

theorem length_delta (ch : Nat) (src : List Byte) : (delta ch src).length = src.length := by
  by_cases h : DeltaPasses ch src
  · rw [delta_passes h]
  · rw [delta_codes h, PlaneCoder.length_final]

theorem length_rgb (r0 r1 : Word) (src : List Byte) : (rgb r0 r1 src).length = src.length := by
  by_cases h : RgbPasses r0 r1 src
  · rw [rgb_passes h]
  · rw [rgb_codes h, length_greenAdded, PlaneCoder.length_final]

theorem length_audio (ch : Nat) (src : List Byte) : (audio ch src).length = src.length := by
  by_cases h : AudioPasses ch src
  · rw [audio_passes h]
  · rw [audio_codes h, PlaneCoder.length_final]

end Sys2Proof.Machine
end

section
/-! PROOFS. Every transform gives as many bytes as it takes (spec/47_filtervm.md R320, R324, R338), and the commands that transform filter
memory (R109, R323, R345). -/

namespace Sys2Proof

theorem FilterKind.tag_le (k : FilterKind) : k.tag ≤ 6 := by cases k <;> decide

theorem FilterKind.toNat_tag (k : FilterKind) : (BitVec.ofNat 32 k.tag).toNat = k.tag :=
  Nat.mod_eq_of_lt (Nat.lt_of_le_of_lt k.tag_le (by decide))

end Sys2Proof

namespace Sys2Proof.Machine

/-! ### Lengths (R320) -/

@[simp] theorem length_storeLe32 (d : List Byte) (a : Nat) (v : Word) : (storeLe32 d a v).length = d.length := by simp [storeLe32]

/-- The address field at `q`, rewritten where the relocation rewrites it (R326). -/
def relocField (fo : Word) (q : Nat) (d : List Byte) : List Byte :=
  match relocated (le32 d q) (BitVec.ofNat 32 q + fo) with
  | some v => storeLe32 d q v
  | none => d

theorem length_relocField (fo : Word) (q : Nat) (d : List Byte) : (relocField fo q d).length = d.length := by
  unfold relocField
  split
  · exact length_storeLe32 _ _ _
  · rfl

section
variable {ops : List Byte} {fo : Word} {n fuel p : Nat} {d : List Byte}

/-- At an opcode the scan rewrites the field after it and goes on behind the field. -/
theorem relocScan_opcode (hp : p + 4 < n) (hop : byteOf d p ∈ ops) :
    relocScan ops fo n (fuel + 1) p d = relocScan ops fo n fuel (p + 5) (relocField fo (p + 1) d) := by
  rw [relocScan, if_pos hp, if_pos (List.contains_iff_mem.2 hop)]
  rfl

theorem relocScan_other (hp : p + 4 < n) (hop : byteOf d p ∉ ops) :
    relocScan ops fo n (fuel + 1) p d = relocScan ops fo n fuel (p + 1) d := by
  rw [relocScan, if_pos hp, if_neg (mt List.contains_iff_mem.1 hop)]

theorem relocScan_end (hp : n ≤ p + 4) : relocScan ops fo n fuel p d = d := by
  cases fuel with
  | zero => rfl
  | succ fuel => rw [relocScan, if_neg (Nat.not_lt.2 hp)]

end

theorem length_relocScan (ops : List Byte) (fo : Word) (n fuel p : Nat) (d : List Byte) :
    (relocScan ops fo n fuel p d).length = d.length := by
  induction fuel generalizing p d with
  | zero => rfl
  | succ fuel ih =>
    by_cases hp : p + 4 < n
    · by_cases hop : byteOf d p ∈ ops
      · rw [relocScan_opcode hp hop, ih, length_relocField]
      · rw [relocScan_other hp hop, ih]
    · rw [relocScan_end (Nat.not_lt.1 hp)]

@[simp] theorem length_bitSet (d : List Byte) (q bit cnt v : Nat) : (bitSet d q bit cnt v).length = d.length :=
  length_storeLe32 _ _ _

theorem length_itaniumSlot (q : Nat) (fo : Word) (mask : Nat) (d : List Byte) (i : Nat) :
    (itaniumSlot q fo mask d i).length = d.length := by
  simp only [itaniumSlot]
  split
  · exact length_bitSet _ _ _ _ _
  · rfl

/-- One bundle of `ITANIUM`, at `q` (R331). -/
def itaniumBundle (q : Nat) (fo : Word) (d : List Byte) : List Byte :=
  if 16 ≤ (byteOf d q).toNat % 32 then
    [0, 1, 2].foldl (itaniumSlot q fo (Config.tmask.getD ((byteOf d q).toNat % 32 - 16) 0)) d
  else d

theorem length_itaniumBundle (q : Nat) (fo : Word) (d : List Byte) : (itaniumBundle q fo d).length = d.length := by
  unfold itaniumBundle
  split
  · simp [length_itaniumSlot]
  · rfl

theorem itaniumScan_bundle {n q : Nat} (fuel : Nat) (fo : Word) (d : List Byte) (hq : q + 21 < n) :
    itaniumScan n (fuel + 1) q fo d = itaniumScan n fuel (q + 16) (fo + 1) (itaniumBundle q fo d) := if_pos hq

theorem itaniumScan_end {n q : Nat} (fuel : Nat) (fo : Word) (d : List Byte) (hq : n ≤ q + 21) :
    itaniumScan n fuel q fo d = d := by
  cases fuel with
  | zero => rfl
  | succ fuel => exact if_neg (Nat.not_lt.2 hq)

theorem length_itaniumScan (n fuel q : Nat) (fo : Word) (d : List Byte) : (itaniumScan n fuel q fo d).length = d.length := by
  induction fuel generalizing q fo d with
  | zero => rfl
  | succ fuel ih =>
    by_cases hq : q + 21 < n
    · rw [itaniumScan_bundle fuel fo d hq, ih, length_itaniumBundle]
    · rw [itaniumScan_end _ fo d (Nat.not_lt.1 hq)]

theorem length_transform (k : FilterKind) (r : VmRegs) (src : List Byte) : (transform k r src).length = src.length := by
  cases k with
  | none => rfl
  | e8 | e8e9 => exact length_relocScan _ _ _ _ _ _
  | itanium => exact length_itaniumScan _ _ _ _ _
  | delta => exact length_delta _ _
  | rgb => exact length_rgb _ _ _
  | audio => exact length_audio _ _

/-- Settles O32: each transform keeps the length, and passes its block through where its limits say so. -/
theorem transformsKeepTheLength : Obligations.TransformsKeepTheLength := by
  intro k r src
  have hzero (h : regAt r 0 = 0) : (regAt r 0).toNat = 0 := by rw [h]; rfl
  refine ⟨length_transform k r src, rfl, fun hlong hk => ?_,
    fun h => ⟨delta_passes (.inl (hzero h)), audio_passes (.inl (hzero h))⟩,
    fun h => delta_passes (.inr (.inl h)), fun h => audio_passes (.inr (.inl h)), fun h => ?_⟩
  · simp only [List.mem_cons, List.not_mem_nil, or_false] at hk
    obtain rfl | rfl | rfl := hk
    · exact delta_passes (.inr (.inr hlong))
    · exact rgb_passes (.inr (.inl hlong))
    · exact audio_passes (.inr (.inr hlong))
  · obtain h | h | h := h
    · exact rgb_passes (.inl h)
    · exact rgb_passes (.inr (.inr (.inl h)))
    · exact rgb_passes (.inr (.inr (.inr h)))

/-! ### Filter memory after a transform (R345) -/

theorem Sparse.find_putBytes_before (m : List Host.Cell) {a j : Nat} (l : List Byte) (hj : j < a) :
    Sparse.find (Sparse.putBytes m a l) j = Sparse.find m j := by
  induction l generalizing m a with
  | nil => rfl
  | cons b t ih => rw [Sparse.putBytes, ih _ (Nat.lt_succ_of_lt hj), Sparse.find_put_ne _ _ _ _ (Nat.ne_of_lt hj)]

theorem Sparse.find_putBytes (m : List Host.Cell) (a : Nat) (l : List Byte) {i : Nat} (hi : i < l.length) :
    Sparse.find (Sparse.putBytes m a l) (a + i) = some (l.getD i 0) := by
  induction l generalizing m a i with
  | nil => exact absurd hi (Nat.not_lt_zero i)
  | cons b t ih =>
    rw [Sparse.putBytes]
    cases i with
    | zero => exact (Sparse.find_putBytes_before _ t (Nat.lt_succ_self a)).trans (Sparse.find_put_self _ _ _)
    | succ i =>
      rw [Nat.add_comm i 1, ← Nat.add_assoc, Nat.add_comm 1 i, List.getD_cons_succ]
      exact ih _ _ (Nat.lt_of_succ_lt_succ hi)

/-- What a transform puts into filter memory reads back. -/
theorem FilterVm.read_replaceFm (v : FilterVm) {l : List Byte} {i : Nat} (hi : i < l.length) :
    (v.replaceFm l).read i = l.getD i 0 := by
  have hfind := Sparse.find_putBytes [] 0 l hi
  rw [Nat.zero_add] at hfind
  rw [FilterVm.read, FilterVm.replaceFm, hfind, Option.getD_some]

theorem FilterVm.read_apply_transform (v : FilterVm) (k : FilterKind) {n a : Nat} (ha : a < n) :
    (v.apply (transform k) n).read a = (transform k v.regs (v.prefixBytes n)).getD a 0 := by
  rw [FilterVm.apply, if_neg (Nat.ne_of_gt (Nat.zero_lt_of_lt ha))]
  exact v.read_replaceFm (by rwa [length_transform, v.length_prefixBytes])

theorem FilterVm.apply_regs (v : FilterVm) (f : VmRegs → List Byte → List Byte) (n : Nat) : (v.apply f n).regs = v.regs := by
  unfold FilterVm.apply
  split <;> rfl

theorem FilterVm.apply_store (v : FilterVm) (f : VmRegs → List Byte → List Byte) (n : Nat) : (v.apply f n).store = v.store := by
  unfold FilterVm.apply
  split <;> rfl

/-! ### `FV.EXEC` and the filter kinds (R345, R109) -/

theorem kindOfTag_tag (k : FilterKind) : kindOfTag k.tag = k := by cases k <;> rfl

/-- `FV.EXEC` forces `R4` and `R7` (R345). -/
def FilterVm.forceRegs (v : FilterVm) (n : Word) : FilterVm := { v with regs := (v.regs.set 4 n).set 7 262144#32 }

/-- `FV.EXEC` of a kind: nothing for no byte, else the transform under the registers with `R4` and `R7` forced. -/
theorem exec_fvExec_idle {s : State} (hi : s.isIdle = true) (k : FilterKind) {n : Word} (hn : n.toNat ≤ 262144) :
    exec (.fvExec (BitVec.ofNat 32 k.tag) n) s =
      .next (if n = 0 then s.accept else s.accept.setVm ((s.vm.forceRegs n).apply (transform k) n.toNat)) := by
  have hregs : (s.vm.regs.setIfInBounds 4 n).setIfInBounds 7 262144#32 = (s.vm.forceRegs n).regs := by
    rw [Vector.setIfInBounds_eq_set _ (by decide), Vector.setIfInBounds_eq_set _ (by decide)]
    rfl
  have haccept : execFvExec (BitVec.ofNat 32 k.tag) n s = .next (if n = 0 then s.accept else s.accept.setVm (FilterVm.apply
      { s.vm with regs := (s.vm.regs.setIfInBounds 4 n).setIfInBounds 7 262144#32 }
      (transform (kindOfTag (BitVec.ofNat 32 k.tag).toNat)) n.toNat)) := by
    rw [execFvExec, k.toNat_tag]
    exact idleCommand_accept _ s _ hi (Bool.and_eq_true_iff.2 ⟨decide_eq_true k.tag_le, decide_eq_true hn⟩)
  rw [k.toNat_tag, kindOfTag_tag, hregs] at haccept
  exact haccept

/-- A filter kind's own instruction transforms the block that `R4` gives. -/
theorem exec_filterKind (k : FilterKind) (s : State) : exec k.instr s = .next (s.transformBlock (transform k)) := by
  cases k <;> rfl

/-- Settles O31: the transform of the block is written to filter memory and nothing else is. -/
theorem filterKindsTransformFilterMemory : Obligations.FilterKindsTransformFilterMemory := by
  intro s k
  refine ⟨fun n hi hn hmax => ?_, fun hi => exec_fvExec_idle hi k (Nat.zero_le _), fun n hr4 hn hmax => ?_⟩
  · have hexec := exec_fvExec_idle hi k hmax
    rw [if_neg fun h => by simp [h] at hn] at hexec
    have hregs := (s.vm.forceRegs n).apply_regs (transform k) n.toNat
    refine ⟨_, hexec, hregs, fun a ha => ?_, FilterVm.apply_fq _ _ _, FilterVm.apply_store _ _ _, rfl⟩
    rw [State.setVm_vm, hregs]
    exact FilterVm.read_apply_transform _ k ha
  · have hblock : s.transformBlock (transform k) = s.setVm (s.vm.apply (transform k) n.toNat) := by
      rw [State.transformBlock, hr4, Config.filterMem, Nat.min_eq_left hmax]
    rw [exec_filterKind k s, hblock]
    exact ⟨_, rfl, fun a ha => s.vm.read_apply_transform k ha, s.vm.apply_regs _ _, s.vm.apply_fq _ _,
      s.vm.apply_store _ _, rfl⟩

end Sys2Proof.Machine
end

section
/-! PROOFS. The three planar transforms byte by byte (spec/47_filtervm.md R333, R335, R337): what the coder of each puts at a place, the
middle component of `RGB` added back, and the predictor of `AUDIO` from sample to sample. -/

namespace Sys2Proof.Machine

/-! ### Delta (R333) -/

theorem getD_delta {ch c k : Nat} {src : List Byte} (hch : 1 ≤ ch) (hcodes : ¬DeltaPasses ch src) (hc : c < ch)
    (hk : c + ch * k < src.length) : (delta ch src).getD (c + ch * k) 0 =
      (if k = 0 then 0 else (delta ch src).getD (c + ch * (k - 1)) 0) - src.getD (planeStart src.length ch c + k) 0 := by
  rw [delta_codes hcodes, PlaneCoder.getD_final hch hc hk, ← PlaneCoder.prev_reach hch hc hk,
    ← PlaneCoder.pos_reach (P := deltaCoder src)]
  rfl

/-! ### RGB (R335) -/

/-- What the second loop of `RGB` adds at place `i` of the block `d`: the middle component of the pixel, at its two others. -/
def greenShare (first n : Nat) (d : List Byte) (i : Nat) : Byte :=
  if first ≤ i ∧ (i - first) % 3 = 0 ∧ i + 2 < n then d.getD (i + 1) 0
  else if first ≤ i ∧ (i - first) % 3 = 2 then d.getD (i - 1) 0 else 0

theorem getD_greenAdd {n : Nat} {d : List Byte} (hd : d.length = n) (p i : Nat) : (greenAdd n d p).getD i 0 =
    if p + 2 < n ∧ (i = p ∨ i = p + 2) then d.getD i 0 + d.getD (p + 1) 0 else d.getD i 0 := by
  by_cases hp : p + 2 < n
  · have hset : greenAdd n d p = (d.set p (d.getD p 0 + d.getD (p + 1) 0)).set (p + 2) (d.getD (p + 2) 0 + d.getD (p + 1) 0) := by
      rw [greenAdd, if_pos hp]
      simp only [byteOf, getD_set_ne d _ (show p ≠ p + 2 by omega)]
    rw [hset]
    obtain rfl | h2 := eq_or_ne i (p + 2)
    · rw [if_pos ⟨hp, .inr rfl⟩, getD_set_self _ (by rwa [List.length_set, hd])]
    · rw [getD_set_ne _ _ h2.symm]
      obtain rfl | h0 := eq_or_ne i p
      · rw [if_pos ⟨hp, .inl rfl⟩, getD_set_self _ (by omega)]
      · rw [if_neg (by tauto), getD_set_ne _ _ h0.symm]
  · rw [greenAdd, if_neg hp, if_neg fun h => hp h.1]

/-- After `t` pixels, their bytes have their share and the others are as they were. -/
theorem getD_greenAdded {first n : Nat} {d : List Byte} (hd : d.length = n) (t : Nat) {i : Nat} (hi : i < n) :
    (greenAdded first n t d).getD i 0 = d.getD i 0 + if i < first + 3 * t then greenShare first n d i else 0 := by
  induction t generalizing i with
  | zero =>
    have hshare (h : i < first) : greenShare first n d i = 0 := by
      rw [greenShare, if_neg (by omega), if_neg (by omega)]
    by_cases h : i < first
    · simp [greenAdded, h, hshare h]
    · simp [greenAdded, h]
  | succ t ih =>
    rw [greenAdded_succ, getD_greenAdd ((length_greenAdded _ _ _ _).trans hd)]
    obtain h | h := em (first + 3 * t + 2 < n ∧ (i = first + 3 * t ∨ i = first + 3 * t + 2))
    · obtain ⟨hp, hplace⟩ := h
      have hshare : greenShare first n d i = d.getD (first + 3 * t + 1) 0 := by
        obtain rfl | rfl := hplace
        · exact if_pos ⟨by omega, by omega, hp⟩
        · rw [greenShare, if_neg (by omega), if_pos (by omega)]
          rfl
      have hnone (x : Byte) : x + 0 = x := BitVec.add_zero x
      rw [if_pos ⟨hp, hplace⟩, ih hi, ih (by omega), if_neg (by omega), if_neg (by omega), if_pos (by omega), hshare,
        hnone, hnone]
    · rw [if_neg h, ih hi]
      by_cases hdone : i < first + 3 * t
      · rw [if_pos hdone, if_pos (by omega)]
      · have hshare (hlt : i < first + 3 * (t + 1)) : greenShare first n d i = 0 := by
          rw [greenShare, if_neg (by omega), if_neg (by omega)]
        rw [if_neg hdone]
        split
        next hlt => rw [hshare hlt]
        next => rfl

theorem getD_rgb {r0 r1 : Word} {src : List Byte} (hcodes : ¬RgbPasses r0 r1 src) {i : Nat} (hi : i < src.length) :
    (rgb r0 r1 src).getD i 0 = ((rgbCoder (r0 - 3).toNat src).final 3 src.length).getD i 0 +
      greenShare r1.toNat src.length ((rgbCoder (r0 - 3).toNat src).final 3 src.length) i := by
  have hlast : i < r1.toNat + 3 * planeLen src.length 3 r1.toNat := by
    have := mt (lt_planeLen (n := src.length) (ch := 3) (c := r1.toNat) (by decide)).2 (Nat.lt_irrefl _)
    omega
  rw [rgb_codes hcodes, getD_greenAdded PlaneCoder.length_final _ hi, if_pos hlast]

/-- A byte of a component: the predictor over the bytes left, above and above left, less the byte of the plane. -/
theorem getD_rgbCoder {stride c k : Nat} {src : List Byte} (hc : c < 3) (hk : c + 3 * k < src.length) :
    let d := (rgbCoder stride src).final 3 src.length
    let made (q : Nat) : Byte := if q % 3 < c ∨ q % 3 = c ∧ q < c + 3 * k then d.getD q 0 else 0
    let left : Byte := if k = 0 then 0 else d.getD (c + 3 * k - 3) 0
    d.getD (c + 3 * k) 0 =
      (if stride + 3 ≤ c + 3 * k then median left (made (c + 3 * k - stride)) (made (c + 3 * k - stride - 3)) else left) -
        src.getD (planeStart src.length 3 c + k) 0 := by
  intro d made left
  have h3 : 1 ≤ 3 := by decide
  have hmade (q : Nat) : byteOf ((rgbCoder stride src).out ((rgbCoder stride src).reach 3 src.length c k)) q = made q :=
    PlaneCoder.getD_reach h3 hc hk q
  have hleft : (rgbCoder stride src).prev ((rgbCoder stride src).reach 3 src.length c k) = left := by
    rw [PlaneCoder.prev_reach h3 hc hk]
    cases k with
    | zero => rfl
    | succ k => rfl
  have hput : d.getD (c + 3 * k) 0 = _ := PlaneCoder.getD_final h3 hc hk
  rw [hput, ← hleft, ← hmade, ← hmade, ← PlaneCoder.pos_reach (P := rgbCoder stride src)]
  rfl

/-! ### Audio (R337) -/

/-- The three differences a prediction is made of. -/
def AudioVars.terms (v : AudioVars) : List Int := [v.pd, v.pd - v.d1, v.d2]

/-- The three coefficients. -/
def AudioVars.coefs (v : AudioVars) : List Int := [v.k1, v.k2, v.k3]

/-- The seven errors for the byte `x` of the plane. -/
def AudioVars.errors (v : AudioVars) (x : Byte) : List Int :=
  let d : Int := 8 * x.toInt
  [d, d - v.pd, d + v.pd, d - (v.pd - v.d1), d + (v.pd - v.d1), d - v.d2, d + v.d2]

/-- The seven error sums with the byte `x`. -/
def AudioVars.totals (v : AudioVars) (x : Byte) : List Nat := List.zipWith (fun a (e : Int) => a + e.natAbs) v.dif (v.errors x)

theorem sext8_toNat (x : Byte) : sext8 (x.toNat : Int) = x.toInt := by
  rw [sext8, BitVec.toInt_eq_toNat_cond]
  have := x.isLt
  split <;> split <;> omega

/-- A coefficient after the error sum with the least value is known: down if that is sum `a`, up if it is sum `b`. -/
def tuneBy (m a b : Nat) (k : Int) : Int := if m = a then coefDown k else if m = b then coefUp k else k

theorem tuneBy_eq {m a b : Nat} {k : Int} (hab : a ≠ b) :
    tuneBy m a b k = if m = a ∧ -16 ≤ k then k - 1 else if m = b ∧ k < 16 then k + 1 else k := by
  unfold tuneBy coefDown coefUp
  by_cases ha : m = a
  · simp [ha, hab]
  · by_cases hb : m = b <;> simp [ha, hb, hab.symm]

/-- A coefficient after a sample: at every 32nd it goes down or up where the least error sum is its own. -/
def tuned (v : AudioVars) (x : Byte) (j : Nat) : Int :=
  let coef := v.coefs.getD j 0
  if argMin (v.totals x) = 2 * j + 1 ∧ -16 ≤ coef then coef - 1
  else if argMin (v.totals x) = 2 * j + 2 ∧ coef < 16 then coef + 1 else coef

section
variable (src : List Byte) (v : AudioVars) (i : Nat)

theorem audioStep_prev : (audioStep src v i).prev =
    ((8 * v.prev + v.coefs.getD 0 0 * v.terms.getD 0 0 + v.coefs.getD 1 0 * v.terms.getD 1 0 +
      v.coefs.getD 2 0 * v.terms.getD 2 0) / 8 % 256 - (byteOf src v.j).toNat) % 256 := rfl

theorem audioStep_dif : (audioStep src v i).dif = if v.cnt % 32 = 0 then List.replicate 7 0 else v.totals (byteOf src v.j) := by
  rw [AudioVars.totals, AudioVars.errors, ← sext8_toNat, Int.mul_comm]
  rfl

theorem audioStep_coefs_of_ne (h : v.cnt % 32 ≠ 0) : (audioStep src v i).coefs = v.coefs := by
  simp [audioStep, AudioVars.coefs, h]

theorem audioStep_coefs_of_eq (h : v.cnt % 32 = 0) {j : Nat} (hj : j < 3) :
    (audioStep src v i).coefs.getD j 0 = tuned v (byteOf src v.j) j := by
  have hcoefs : (audioStep src v i).coefs =
      [tuneBy (argMin (v.totals (byteOf src v.j))) 1 2 v.k1, tuneBy (argMin (v.totals (byteOf src v.j))) 3 4 v.k2,
        tuneBy (argMin (v.totals (byteOf src v.j))) 5 6 v.k3] := by
    rw [AudioVars.totals, AudioVars.errors, ← sext8_toNat, Int.mul_comm]
    simp only [audioStep, AudioVars.coefs, tuneBy, h, true_and]
  rw [hcoefs, tuned, ← tuneBy_eq (by omega)]
  obtain rfl | rfl | rfl : j = 0 ∨ j = 1 ∨ j = 2 := by omega
  all_goals rfl

end

theorem ofInt_toNat_emod (a : Int) (x : Byte) : BitVec.ofInt 8 ((a % 256 - x.toNat) % 256) = BitVec.ofInt 8 a - x := by
  apply BitVec.eq_of_toNat_eq
  have := x.isLt
  rw [BitVec.toNat_ofInt, BitVec.toNat_sub, BitVec.toNat_ofInt]
  omega

theorem argMin_eq {l : List Nat} {m : Nat} (hm : m < l.length) (hleast : ∀ j < l.length, l.getD m 0 ≤ l.getD j 0)
    (hfirst : ∀ j < m, l.getD m 0 < l.getD j 0) : argMin l = m := by
  rw [argMin, List.findIdx_eq hm]
  rw [List.getD_eq_getElem l 0 hm] at hleast hfirst
  refine ⟨List.all_eq_true.2 fun y hy => ?_, fun j hj => ?_⟩
  · obtain ⟨j, hj, rfl⟩ := List.getElem_of_mem hy
    simpa [hj] using hleast j hj
  · have hlt : l[m] < l[j] := by simpa [Nat.lt_trans hj hm] using hfirst j hj
    exact List.all_eq_false.2 ⟨l[m], List.getElem_mem hm, by simpa using hlt⟩

/-- What holds of the variables before every sample. -/
structure AudioVars.Ready (v : AudioVars) (k : Nat) : Prop where
  low : 0 ≤ v.prev
  high : v.prev < 256
  sums : v.dif.length = 7
  count : v.cnt = k

theorem AudioVars.Ready.step (src : List Byte) {v : AudioVars} {k : Nat} (h : v.Ready k) (i : Nat) :
    (audioStep src v i).Ready (k + 1) := by
  refine ⟨Int.emod_nonneg _ (by decide), Int.emod_lt_of_pos _ (by decide), ?_, congrArg (· + 1) h.count⟩
  rw [audioStep_dif]
  split
  · exact List.length_replicate
  · rw [AudioVars.totals, List.length_zipWith, h.sums]
    rfl

theorem AudioVars.Ready.reach (src : List Byte) (ch n c k : Nat) : ((audioCoder src).reach ch n c k).Ready k := by
  induction k with
  | zero => exact ⟨Int.le_refl 0, (by decide : (0 : Int) < 256), rfl, rfl⟩
  | succ k ih =>
    rw [PlaneCoder.reach_succ]
    exact ih.step src _

/-- The byte before, as the variable `prev` holds it. -/
theorem AudioVars.Ready.prev_toNat {v : AudioVars} {k : Nat} (h : v.Ready k) : ((BitVec.ofInt 8 v.prev).toNat : Int) = v.prev := by
  have := h.low
  have := h.high
  rw [BitVec.toNat_ofInt]
  omega

/-- The error sums with the next byte. -/
theorem AudioVars.Ready.getD_totals {v : AudioVars} {k m : Nat} (h : v.Ready k) (x : Byte) (hm : m < 7) :
    (v.totals x).getD m 0 = v.dif.getD m 0 + ((v.errors x).getD m 0).natAbs := by
  have hd : m < v.dif.length := by rwa [h.sums]
  have he : m < (v.errors x).length := hm
  have ht : m < (v.totals x).length := by
    rw [AudioVars.totals, List.length_zipWith]
    exact lt_min hd he
  rw [List.getD_eq_getElem _ _ ht, List.getD_eq_getElem _ _ hd, List.getD_eq_getElem _ _ he]
  exact List.getElem_zipWith

theorem AudioVars.Ready.length_totals {v : AudioVars} {k : Nat} (h : v.Ready k) (x : Byte) : (v.totals x).length = 7 := by
  rw [AudioVars.totals, List.length_zipWith, h.sums]
  rfl

/-- The difference of a byte and the one before. -/
theorem sext8_sub (y p : Byte) : sext8 (((y.toNat : Int) - p.toNat) % 256) = (y - p).toInt := by
  have hy := y.isLt
  have hp := p.isLt
  rw [← sext8_toNat, BitVec.toNat_sub]
  congr 1
  omega

theorem audioStep_pd (src : List Byte) {v : AudioVars} {k : Nat} (h : v.Ready k) (i : Nat) :
    (audioStep src v i).pd = (BitVec.ofInt 8 (audioStep src v i).prev - BitVec.ofInt 8 v.prev).toInt := by
  rw [← sext8_sub, (h.step src i).prev_toNat, h.prev_toNat]
  rfl

/-- A sample of `AUDIO`: the predicted byte less the byte of the plane. -/
theorem audioCoder_made (src : List Byte) {v : AudioVars} {k : Nat} (h : v.Ready k) (i : Nat) :
    (audioCoder src).made v i = BitVec.ofInt 8 ((8 * ((audioCoder src).prev v).toNat + v.coefs.getD 0 0 * v.terms.getD 0 0 +
      v.coefs.getD 1 0 * v.terms.getD 1 0 + v.coefs.getD 2 0 * v.terms.getD 2 0) / 8) - byteOf src v.j := by
  have hprev : (((audioCoder src).prev v).toNat : Int) = v.prev := h.prev_toNat
  rw [hprev, ← ofInt_toNat_emod, ← audioStep_prev]
  rfl

/-! ### A channel of audio -/

/-- The variables before sample `k` of channel `c` of a block that `AUDIO` transforms. -/
def audioAt (ch : Nat) (src : List Byte) (c k : Nat) : AudioVars := (audioCoder src).reach ch src.length c k

section
variable {ch c : Nat} {src : List Byte}

theorem audioAt_succ (k : Nat) : audioAt ch src c (k + 1) = audioStep src (audioAt ch src c k) (c + ch * k) :=
  PlaneCoder.reach_succ c k

theorem audioAt_ready (k : Nat) : (audioAt ch src c k).Ready k := .reach src ch src.length c k

/-- Sample `k` is made from byte `k` of the channel's plane. -/
theorem audioAt_byte (k : Nat) : byteOf src (audioAt ch src c k).j = src.getD (planeStart src.length ch c + k) 0 :=
  congrArg (byteOf src) (PlaneCoder.pos_reach (P := audioCoder src) c k)

variable (hch : 1 ≤ ch) (hcodes : ¬AudioPasses ch src) (hc : c < ch) {k : Nat} (hk : c + ch * k < src.length)
include hch hcodes hc hk

theorem getD_audio_eq_made : (audio ch src).getD (c + ch * k) 0 = (audioCoder src).made (audioAt ch src c k) (c + ch * k) := by
  rw [audio_codes hcodes]
  exact PlaneCoder.getD_final hch hc hk

theorem audioAt_prev : (audioCoder src).prev (audioAt ch src c k) =
    if k = 0 then 0 else (audio ch src).getD (c + ch * (k - 1)) 0 := by
  rw [audio_codes hcodes]
  exact PlaneCoder.prev_reach hch hc hk

/-- Sample `k` is the predicted byte less the byte of the plane. -/
theorem getD_audio : (audio ch src).getD (c + ch * k) 0 =
    BitVec.ofInt 8 ((8 * (if k = 0 then 0 else (audio ch src).getD (c + ch * (k - 1)) 0 : Byte).toNat +
      (audioAt ch src c k).coefs.getD 0 0 * (audioAt ch src c k).terms.getD 0 0 +
      (audioAt ch src c k).coefs.getD 1 0 * (audioAt ch src c k).terms.getD 1 0 +
      (audioAt ch src c k).coefs.getD 2 0 * (audioAt ch src c k).terms.getD 2 0) / 8) -
      src.getD (planeStart src.length ch c + k) 0 := by
  rw [← audioAt_byte, ← audioAt_prev hch hcodes hc hk, ← audioCoder_made src (audioAt_ready k)]
  exact getD_audio_eq_made hch hcodes hc hk

/-- The difference that the next prediction begins with. -/
theorem audioAt_succ_pd : (audioAt ch src c (k + 1)).pd =
    ((audio ch src).getD (c + ch * k) 0 - if k = 0 then 0 else (audio ch src).getD (c + ch * (k - 1)) 0).toInt := by
  rw [audioAt_succ, audioStep_pd src (audioAt_ready k), getD_audio_eq_made hch hcodes hc hk, ← audioAt_prev hch hcodes hc hk]
  rfl

end

section
variable {ch c k : Nat} {src : List Byte}

/-- Between the tuned samples the coefficients stay and the error sums grow. -/
theorem audioAt_succ_of_ne (h : k % 32 ≠ 0) : (audioAt ch src c (k + 1)).coefs = (audioAt ch src c k).coefs ∧
    (audioAt ch src c (k + 1)).dif = (audioAt ch src c k).totals (src.getD (planeStart src.length ch c + k) 0) := by
  have hcount : (audioAt ch src c k).cnt % 32 ≠ 0 := by rwa [(audioAt_ready k).count]
  rw [audioAt_succ, ← audioAt_byte]
  exact ⟨audioStep_coefs_of_ne src _ _ hcount, (audioStep_dif src _ _).trans (if_neg hcount)⟩

/-- At a tuned sample the coefficients move and the error sums restart. -/
theorem audioAt_succ_of_eq (h : k % 32 = 0) : (audioAt ch src c (k + 1)).dif = List.replicate 7 0 ∧
    ∀ j < 3, (audioAt ch src c (k + 1)).coefs.getD j 0 =
      tuned (audioAt ch src c k) (src.getD (planeStart src.length ch c + k) 0) j := by
  have hcount : (audioAt ch src c k).cnt % 32 = 0 := by rwa [(audioAt_ready k).count]
  rw [audioAt_succ, ← audioAt_byte]
  exact ⟨(audioStep_dif src _ _).trans (if_pos hcount), fun j hj => audioStep_coefs_of_eq src _ _ hcount hj⟩

end

/-- Which of the seven error sums is the first least. -/
theorem AudioVars.Ready.argMin_totals {v : AudioVars} {k m : Nat} {x : Byte} (h : v.Ready k) (hm : m < 7)
    (hleast : ∀ j < 7, (v.totals x).getD m 0 ≤ (v.totals x).getD j 0)
    (hfirst : ∀ j < m, (v.totals x).getD m 0 < (v.totals x).getD j 0) : argMin (v.totals x) = m := by
  have hlen := h.length_totals x
  exact argMin_eq (by rwa [hlen]) (by rwa [hlen]) hfirst

/-! ### The three transforms -/

/-- Settles O33: each transform is its coder's run, whose byte at a place is read off the step that put it there. -/
theorem deltaSubtractsAlongEachChannel : Obligations.DeltaSubtractsAlongEachChannel := by
  refine ⟨fun ch c k src hch hmax hn hc hk => ?_, fun r src hn3 hn hstride hfirst => ?_, fun ch c src hch hmax hn hc => ?_⟩
  · exact getD_delta hch (by unfold DeltaPasses; omega) hc hk
  · have hcodes : ¬RgbPasses (regAt r 0) (regAt r 1) src := by
      unfold RgbPasses
      omega
    intro n stride first
    refine ⟨_, PlaneCoder.length_final, fun c k hc hk => ?_, fun i hi => getD_rgb hcodes hi⟩
    intro i made left up upleft p away predicted
    refine (getD_rgbCoder hc hk).trans (congrArg (· - _) ?_)
    by_cases hi : i < stride + 3
    · exact (if_neg (Nat.not_le.2 hi)).trans (if_pos hi).symm
    · exact (if_pos (Nat.not_lt.1 hi)).trans (if_neg hi).symm
  · have hcodes : ¬AudioPasses ch src := by
      unfold AudioPasses
      omega
    let v := audioAt ch src c
    refine ⟨fun k => (v k).pd, fun k => (v k).d1, fun k => (v k).d2, fun k j => (v k).coefs.getD j 0,
      fun k m => (v k).dif.getD m 0, rfl, rfl, rfl, fun j => List.getElem?_getD_replicate_default_eq (0 : Int) 3 j,
      fun m => List.getElem?_getD_replicate_default_eq 0 7 m, fun k hk => ?_⟩
    intro prev now d errors total
    have htotal {m : Nat} (hm : m < 7) := (audioAt_ready (ch := ch) (src := src) (c := c) k).getD_totals
      (src.getD (planeStart src.length ch c + k) 0) hm
    refine ⟨getD_audio hch hcodes hc hk, audioAt_succ_pd hch hcodes hc hk, ?_, ?_, fun hk32 => ?_, fun hk32 => ?_⟩
    · exact congrArg AudioVars.d1 (audioAt_succ k)
    · exact congrArg AudioVars.d2 (audioAt_succ k)
    · obtain ⟨hcoefs, hdif⟩ := audioAt_succ_of_ne (ch := ch) (src := src) (c := c) hk32
      exact ⟨fun j => congrArg (List.getD · j 0) hcoefs, fun m hm => (congrArg (List.getD · m 0) hdif).trans (htotal hm)⟩
    · obtain ⟨hdif, hcoefs⟩ := audioAt_succ_of_eq (ch := ch) (src := src) (c := c) hk32
      refine ⟨fun m _ => (congrArg (List.getD · m 0) hdif).trans (List.getElem?_getD_replicate_default_eq 0 7 m),
        fun m hm hleast hfirst j hj => (hcoefs j hj).trans ?_⟩
      have hmin := (audioAt_ready (ch := ch) (src := src) (c := c) k).argMin_totals hm
        (fun j hj => by rw [htotal hm, htotal hj]; exact hleast j hj)
        (fun j hj => by rw [htotal hm, htotal (hj.trans hm)]; exact hfirst j hj)
      rw [tuned, hmin]

end Sys2Proof.Machine
end

section
/-! PROOFS. Address relocation (spec/47_filtervm.md R326 to R328): what the relocation makes of one field, the scan over bytes that are
no opcode, and the scan of what stands behind other bytes. -/

namespace Sys2Proof.Machine

/-! ### One field (R326, R328) -/

theorem relocated_low {addr : Word} (off : Word) (h : addr.toNat < 2 ^ 24) : relocated addr off = some (addr - off) := by
  rw [relocated, if_neg (by omega)]
  exact if_pos h

theorem relocated_high {addr off : Word} (h : 2 ^ 31 ≤ addr.toNat) (hoff : (addr + off).toNat < 2 ^ 31) :
    relocated addr off = some (addr + Config.relocSpan) := by
  rw [relocated, if_pos h, if_pos hoff]

/-- The four bytes of a word, least first (spec/20_memory.md R58). -/
def wordBytes (v : Word) : List Byte := [v.extractLsb' 0 8, v.extractLsb' 8 8, v.extractLsb' 16 8, v.extractLsb' 24 8]

/-- The field that the relocation leaves for the address field `old` of value `addr` at file offset `off`. -/
def relocatedBytes (addr off : Word) (old : List Byte) : List Byte := ((relocated addr off).map wordBytes).getD old

theorem length_relocatedBytes (addr off : Word) {old : List Byte} (h : old.length = 4) :
    (relocatedBytes addr off old).length = 4 := by
  unfold relocatedBytes
  cases relocated addr off with
  | none => exact h
  | some v => rfl

theorem relocatedBytes_eq (addr off : Word) (old : List Byte) : relocatedBytes addr off old =
    if 2 ^ 31 ≤ addr.toNat then if (addr + off).toNat < 2 ^ 31 then wordBytes (addr + 0x1000000#32) else old
    else if addr.toNat < 2 ^ 24 then wordBytes (addr - off) else old := by
  unfold relocatedBytes relocated
  split
  · split <;> rfl
  · change Option.getD (Option.map _ (if addr.toNat < 2 ^ 24 then _ else _)) _ = _
    split <;> rfl

/-- A field at the beginning of a block. -/
theorem relocField_head (fo : Word) (b0 b1 b2 b3 : Byte) (after : List Byte) :
    relocField fo 0 (b0 :: b1 :: b2 :: b3 :: after) = relocatedBytes (b3 ++ b2 ++ b1 ++ b0) fo [b0, b1, b2, b3] ++ after := by
  have hoff : BitVec.ofNat 32 0 + fo = fo := BitVec.zero_add fo
  have hle : le32 (b0 :: b1 :: b2 :: b3 :: after) 0 = b3 ++ b2 ++ b1 ++ b0 := rfl
  rw [relocField, hoff, hle, relocatedBytes]
  cases relocated (b3 ++ b2 ++ b1 ++ b0) fo <;> rfl

/-! ### Behind other bytes -/

section
variable (pre d : List Byte)

theorem byteOf_append (i : Nat) : byteOf (pre ++ d) (pre.length + i) = byteOf d i := by
  rw [byteOf, List.getD_append_right _ _ _ _ (Nat.le_add_right _ _), Nat.add_sub_cancel_left]
  rfl

theorem le32_append (q : Nat) : le32 (pre ++ d) (pre.length + q) = le32 d q := by
  simp only [le32, Nat.add_assoc, byteOf_append]

theorem storeLe32_append (q : Nat) (v : Word) : storeLe32 (pre ++ d) (pre.length + q) v = pre ++ storeLe32 d q v := by
  simp only [storeLe32, Nat.add_assoc, List.set_append_right _ _ (Nat.le_add_right pre.length _), Nat.add_sub_cancel_left]

variable (ops : List Byte) (fo : Word)

/-- A block behind other bytes is relocated as a block of its own whose file offset is that much higher. -/
theorem relocField_append (q : Nat) : relocField fo (pre.length + q) (pre ++ d) =
    pre ++ relocField (BitVec.ofNat 32 pre.length + fo) q d := by
  have hoff : BitVec.ofNat 32 (pre.length + q) + fo = BitVec.ofNat 32 q + (BitVec.ofNat 32 pre.length + fo) := by
    rw [Nat.add_comm, BitVec.ofNat_add, BitVec.add_assoc]
  rw [relocField, relocField, le32_append, hoff]
  cases relocated (le32 d q) (BitVec.ofNat 32 q + (BitVec.ofNat 32 pre.length + fo)) with
  | none => rfl
  | some v => exact storeLe32_append pre d q v

theorem relocScan_append (n fuel p : Nat) : relocScan ops fo (pre.length + n) fuel (pre.length + p) (pre ++ d) =
    pre ++ relocScan ops (BitVec.ofNat 32 pre.length + fo) n fuel p d := by
  induction fuel generalizing p d with
  | zero => rfl
  | succ fuel ih =>
    by_cases hp : p + 4 < n
    · have hpre : pre.length + p + 4 < pre.length + n := by omega
      by_cases hop : byteOf d p ∈ ops
      · rw [relocScan_opcode hp hop, relocScan_opcode hpre (by rwa [byteOf_append]), Nat.add_assoc, Nat.add_assoc,
          relocField_append, ih]
      · rw [relocScan_other hp hop, relocScan_other hpre (by rwa [byteOf_append]), Nat.add_assoc, ih]
    · rw [relocScan_end (Nat.not_lt.1 hp), relocScan_end (by omega)]

end

/-! ### Bytes that are no opcode, and the fuel -/

section
variable {ops : List Byte} {fo : Word} {n : Nat} {d : List Byte}

theorem relocScan_skip {p : Nat} (m fuel : Nat) (hm : p + m + 4 ≤ n) (hops : ∀ i < m, byteOf d (p + i) ∉ ops) :
    relocScan ops fo n (fuel + m) p d = relocScan ops fo n fuel (p + m) d := by
  induction m generalizing p with
  | zero => rfl
  | succ m ih =>
    have hrest : ∀ i < m, byteOf d (p + 1 + i) ∉ ops := fun i hi => by
      have := hops (i + 1) (Nat.succ_lt_succ hi)
      rwa [Nat.add_comm i, ← Nat.add_assoc] at this
    have hfirst : byteOf d p ∉ ops := hops 0 (Nat.succ_pos m)
    rw [← Nat.add_assoc, relocScan_other (by omega) hfirst, ih (by omega) hrest, Nat.add_right_comm, Nat.add_assoc]

/-- Fuel for the positions left is fuel enough. -/
theorem relocScan_fuel {p f g : Nat} (hf : n ≤ p + f) (hg : n ≤ p + g) :
    relocScan ops fo n f p d = relocScan ops fo n g p d := by
  induction f generalizing p g d with
  | zero => rw [relocScan_end (by omega), relocScan_end (by omega)]
  | succ f ih =>
    by_cases hp : p + 4 < n
    · obtain ⟨g, rfl⟩ : ∃ e, g = e + 1 := ⟨g - 1, by omega⟩
      by_cases hop : byteOf d p ∈ ops
      · rw [relocScan_opcode hp hop, relocScan_opcode hp hop]
        exact ih (by omega) (by omega)
      · rw [relocScan_other hp hop, relocScan_other hp hop]
        exact ih (by omega) (by omega)
    · rw [relocScan_end (by omega), relocScan_end (by omega)]

end

/-- A block without an opcode before its last four bytes is left as it is. -/
theorem relocate_of_no_opcode {ops src : List Byte} (fo : Word)
    (h : (∀ b ∈ src.take (src.length - 4), b ∉ ops) ∨ src.length < 5) :
    relocate ops fo src = src := by
  by_cases hlen : src.length ≤ 4
  · exact relocScan_end (by omega)
  · have hops (i : Nat) (hi : i < src.length - 4) : byteOf src (0 + i) ∉ ops := by
      have hbyte : byteOf src (0 + i) = src[i] := by
        rw [Nat.zero_add]
        exact List.getD_eq_getElem _ _ _
      rw [hbyte]
      exact (h.resolve_right (by omega)) _ (List.mem_take_iff_getElem.2 ⟨i, by omega, rfl⟩)
    have hskip := relocScan_skip (fo := fo) (n := src.length) (src.length - 4) 4 (by omega) hops
    rw [show 4 + (src.length - 4) = src.length by omega] at hskip
    exact hskip.trans (relocScan_end (by omega))

/-- The first opcode of a block: the field after it is relocated, and what follows is relocated as a block of its own. -/
theorem relocate_first_opcode {ops before : List Byte} (fo : Word) (after : List Byte) {op : Byte} (b0 b1 b2 b3 : Byte)
    (hbefore : ∀ b ∈ before, b ∉ ops) (hop : op ∈ ops) :
    relocate ops fo (before ++ op :: b0 :: b1 :: b2 :: b3 :: after) =
      before ++ op :: relocatedBytes (b3 ++ b2 ++ b1 ++ b0) (BitVec.ofNat 32 (before.length + 1) + fo) [b0, b1, b2, b3] ++
        relocate ops (BitVec.ofNat 32 (before.length + 5) + fo) after := by
  let src := before ++ op :: b0 :: b1 :: b2 :: b3 :: after
  let field := relocatedBytes (b3 ++ b2 ++ b1 ++ b0) (BitVec.ofNat 32 (before.length + 1) + fo) [b0, b1, b2, b3]
  have hlen : src.length = before.length + 5 + after.length := by simp [src]; omega
  have hat : byteOf src before.length = op := byteOf_append before _ 0
  have hbeforeByte : ∀ i < before.length, byteOf src (0 + i) ∉ ops := fun i hi => by
    have hbyte : byteOf src (0 + i) = before[i] := by
      rw [Nat.zero_add, byteOf, List.getD_append _ _ _ _ hi, List.getD_eq_getElem _ _ hi]
    rw [hbyte]
    exact hbefore _ (List.getElem_mem hi)
  have hfield : relocField fo (before.length + 1) src = (before ++ op :: field) ++ after := by
    have happend := relocField_append (before ++ [op]) (b0 :: b1 :: b2 :: b3 :: after) fo 0
    rw [relocField_head] at happend
    simpa [src, field] using happend
  have hdone : (before ++ op :: field).length = before.length + 5 := by
    simp [field, length_relocatedBytes]
  calc relocate ops fo src
      = relocScan ops fo src.length (after.length + 5 + before.length) 0 src := relocScan_fuel (by omega) (by omega)
    _ = relocScan ops fo src.length (after.length + 5) before.length src := by
        rw [relocScan_skip _ _ (by omega) hbeforeByte, Nat.zero_add]
    _ = relocScan ops fo src.length (after.length + 4) (before.length + 5) ((before ++ op :: field) ++ after) := by
        rw [relocScan_opcode (by omega) (by rwa [hat]), hfield]
    _ = (before ++ op :: field) ++
          relocScan ops (BitVec.ofNat 32 (before.length + 5) + fo) after.length (after.length + 4) 0 after := by
        rw [hlen, ← hdone, ← relocScan_append]
        rfl
    _ = (before ++ op :: field) ++ relocate ops (BitVec.ofNat 32 (before.length + 5) + fo) after := by
        rw [relocate, relocScan_fuel (g := after.length) (by omega) (by omega)]

end Sys2Proof.Machine
end

section
/-! PROOFS. Itanium branch relocation bit by bit (spec/47_filtervm.md R330, R331): a bundle as a number of 128 bits, what a slot does to
its bits, what a bundle does, and the scan over the bundles. -/

namespace Sys2Proof.Machine

/-! ### The bits of a byte sequence (R330) -/

/-- Bit `k` of a byte sequence: bit `k mod 8` of byte `k div 8`. -/
def bitAt (d : List Byte) (k : Nat) : Bool := (byteOf d (k / 8)).getLsbD (k % 8)

theorem bitAt_eq {d : List Byte} (a : Nat) {i : Nat} (hi : i < 8) : bitAt d (8 * a + i) = (byteOf d a).getLsbD i := by
  rw [bitAt, show (8 * a + i) / 8 = a by omega, show (8 * a + i) % 8 = i by omega]

theorem le32_getLsbD (d : List Byte) (a : Nat) {i : Nat} (hi : i < 32) : (le32 d a).getLsbD i = bitAt d (8 * a + i) := by
  simp only [le32, BitVec.getLsbD_append]
  by_cases h0 : i < 8
  · simp [h0, bitAt_eq a h0]
  · by_cases h1 : i < 16
    · rw [show 8 * a + i = 8 * (a + 1) + (i - 8) by omega, bitAt_eq _ (by omega)]
      simp [h0, show i - 8 < 8 by omega]
    · by_cases h2 : i < 24
      · rw [show 8 * a + i = 8 * (a + 2) + (i - 16) by omega, bitAt_eq _ (by omega)]
        simp [h0, show ¬i - 8 < 8 by omega, show i - 8 - 8 = i - 16 by omega, show i - 16 < 8 by omega]
      · rw [show 8 * a + i = 8 * (a + 3) + (i - 24) by omega, bitAt_eq _ (by omega)]
        simp [h0, show ¬i - 8 < 8 by omega, show ¬i - 8 - 8 < 8 by omega, show i - 8 - 8 - 8 = i - 24 by omega]

/-- A stored word changes its four bytes only. -/
theorem byteOf_storeLe32_ne (d : List Byte) {a b : Nat} (v : Word) (hb : b < a ∨ a + 4 ≤ b) :
    byteOf (storeLe32 d a v) b = byteOf d b := by
  unfold byteOf storeLe32
  rw [getD_set_ne _ _ (by omega), getD_set_ne _ _ (by omega), getD_set_ne _ _ (by omega), getD_set_ne _ _ (by omega)]

theorem byteOf_storeLe32 {d : List Byte} {a : Nat} (v : Word) (ha : a + 3 < d.length) {j : Nat} (hj : j < 4) :
    byteOf (storeLe32 d a v) (a + j) = v.extractLsb' (8 * j) 8 := by
  unfold byteOf storeLe32
  obtain rfl | rfl | rfl | rfl : j = 3 ∨ j = 2 ∨ j = 1 ∨ j = 0 := by omega
  · rw [getD_set_self _ (by simpa using ha)]
  · rw [getD_set_ne _ _ (by omega), getD_set_self _ (by simp; omega)]
  · rw [getD_set_ne _ _ (by omega), getD_set_ne _ _ (by omega), getD_set_self _ (by simp; omega)]
  · rw [getD_set_ne _ _ (by omega), getD_set_ne _ _ (by omega), getD_set_ne _ _ (by omega)]
    exact getD_set_self _ (by omega)

theorem bitAt_storeLe32 {d : List Byte} {a : Nat} (v : Word) (ha : a + 3 < d.length) (k : Nat) :
    bitAt (storeLe32 d a v) k = if 8 * a ≤ k ∧ k < 8 * a + 32 then v.getLsbD (k - 8 * a) else bitAt d k := by
  split
  next h =>
    obtain ⟨j, hj⟩ : ∃ j, k / 8 = a + j := Nat.exists_eq_add_of_le (by omega)
    rw [bitAt, hj, byteOf_storeLe32 v ha (by omega), BitVec.getLsbD_extractLsb', decide_eq_true (by omega), Bool.true_and]
    congr 1
    omega
  next h => rw [bitAt, byteOf_storeLe32_ne d v (by omega), bitAt]

/-- A bit of the field that `get` gives. -/
theorem testBit_bitGet (d : List Byte) {q bit cnt : Nat} (hcnt : bit % 8 + cnt ≤ 32) (t : Nat) :
    (bitGet d q bit cnt).testBit t = (decide (t < cnt) && bitAt d (8 * q + bit + t)) := by
  rw [bitGet, Nat.testBit_mod_two_pow, Nat.testBit_div_two_pow, BitVec.testBit_toNat]
  by_cases ht : t < cnt
  · rw [le32_getLsbD _ _ (by omega)]
    congr 2
    omega
  · simp [ht]

/-- `set` writes the bits of its field and no others. -/
theorem bitAt_bitSet {d : List Byte} {q bit cnt v : Nat} (hcnt : bit % 8 + cnt ≤ 32) (hq : q + bit / 8 + 3 < d.length)
    (hv : v < 2 ^ cnt) (k : Nat) :
    bitAt (bitSet d q bit cnt v) k =
      if 8 * q + bit ≤ k ∧ k < 8 * q + bit + cnt then v.testBit (k - (8 * q + bit)) else bitAt d k := by
  rw [bitSet, bitAt_storeLe32 _ hq]
  by_cases hw : 8 * (q + bit / 8) ≤ k ∧ k < 8 * (q + bit / 8) + 32
  · rw [if_pos hw]
    obtain ⟨i, rfl⟩ := Nat.exists_eq_add_of_le hw.1
    have hi : i < 32 := by omega
    rw [Nat.add_sub_cancel_left, BitVec.getLsbD_or, BitVec.getLsbD_and, BitVec.getLsbD_not, BitVec.getLsbD_shiftLeft,
      BitVec.getLsbD_shiftLeft, le32_getLsbD _ _ hi, BitVec.getLsbD_ofNat, BitVec.getLsbD_ofNat, Nat.testBit_two_pow_sub_one]
    by_cases hlow : i < bit % 8
    · rw [if_neg (by omega)]
      simp [hi, hlow]
    · by_cases hhigh : i < bit % 8 + cnt
      · rw [if_pos (by omega)]
        simp [hi, hlow, show i - bit % 8 < cnt by omega, show i - bit % 8 < 32 by omega]
        congr 1
        omega
      · rw [if_neg (by omega)]
        have hzero : v.testBit (i - bit % 8) = false :=
          Nat.testBit_lt_two_pow (Nat.lt_of_lt_of_le hv (Nat.pow_le_pow_right (by decide) (by omega)))
        simp [hi, hlow, hzero, show ¬i - bit % 8 < cnt by omega]
  · rw [if_neg hw, if_neg (by omega)]

/-! ### A bundle as a number -/

/-- Bundle `m` of a byte sequence, least byte first. -/
def bundleNum (d : List Byte) (m : Nat) : Nat := ((List.range 16).map fun j => (d.getD (16 * m + j) 0).toNat * 256 ^ j).sum

/-- A field of `n` bits from bit `lo` on. -/
def bitField (v lo n : Nat) : Nat := v / 2 ^ lo % 2 ^ n

theorem testBit_bitField (v lo n t : Nat) : (bitField v lo n).testBit t = (decide (t < n) && v.testBit (lo + t)) := by
  rw [bitField, Nat.testBit_mod_two_pow, Nat.testBit_div_two_pow, Nat.add_comm]

/-- Bytes as the digits of a number: how large it is, and its bits. -/
theorem testBit_sum_bytes (f : Nat → Byte) (n : Nat) :
    ((List.range n).map fun j => (f j).toNat * 256 ^ j).sum < 2 ^ (8 * n) ∧
    ∀ k < 8 * n, (((List.range n).map fun j => (f j).toNat * 256 ^ j).sum).testBit k = (f (k / 8)).getLsbD (k % 8) := by
  induction n with
  | zero => exact ⟨Nat.one_pos, fun k hk => absurd hk (Nat.not_lt_zero k)⟩
  | succ n ih =>
    obtain ⟨hlt, hbits⟩ := ih
    have hsum : ((List.range (n + 1)).map fun j => (f j).toNat * 256 ^ j).sum =
        2 ^ (8 * n) * (f n).toNat + ((List.range n).map fun j => (f j).toNat * 256 ^ j).sum := by
      rw [List.range_succ, List.map_append, List.sum_append, Nat.pow_mul, Nat.add_comm, Nat.mul_comm ((2 ^ 8) ^ n)]
      simp
    rw [hsum]
    constructor
    · have hbyte : 2 ^ (8 * n) * ((f n).toNat + 1) ≤ 2 ^ (8 * n) * 2 ^ 8 := Nat.mul_le_mul_left _ (f n).isLt
      rw [← Nat.pow_add, Nat.mul_add, Nat.mul_one] at hbyte
      exact Nat.lt_of_lt_of_le (Nat.add_lt_add_left hlt _) hbyte
    · intro k hk
      rw [Nat.testBit_two_pow_mul_add _ hlt]
      split
      next h => exact hbits k h
      next h =>
        rw [BitVec.testBit_toNat, show k / 8 = n by omega, show k % 8 = k - 8 * n by omega]

theorem testBit_bundleNum (d : List Byte) (m : Nat) {j : Nat} (hj : j < 128) :
    (bundleNum d m).testBit j = bitAt d (128 * m + j) := by
  rw [bundleNum, (testBit_sum_bytes (fun j => d.getD (16 * m + j) 0) 16).2 j hj, bitAt,
    show (128 * m + j) / 8 = 16 * m + j / 8 by omega, show (128 * m + j) % 8 = j % 8 by omega]
  rfl

/-- A bundle depends on its own bytes. -/
theorem bundleNum_congr {d e : List Byte} {m : Nat} (h : ∀ a, a / 16 = m → byteOf d a = byteOf e a) :
    bundleNum d m = bundleNum e m := by
  refine congrArg List.sum (List.map_congr_left fun j hj => ?_)
  have hbyte : d.getD (16 * m + j) 0 = e.getD (16 * m + j) 0 := h _ (by have := List.mem_range.1 hj; omega)
  rw [hbyte]

theorem bitGet_bundle (d : List Byte) (m : Nat) {bit cnt : Nat} (hcnt : bit % 8 + cnt ≤ 32) (hend : bit + cnt ≤ 128) :
    bitGet d (16 * m) bit cnt = bitField (bundleNum d m) bit cnt := by
  refine Nat.eq_of_testBit_eq fun t => ?_
  rw [testBit_bitGet d hcnt, testBit_bitField]
  by_cases ht : t < cnt
  · rw [testBit_bundleNum d m (by omega)]
    congr 2
    omega
  · simp [ht]

theorem bitField_congr {v w lo n : Nat} (h : ∀ t < n, v.testBit (lo + t) = w.testBit (lo + t)) :
    bitField v lo n = bitField w lo n := by
  refine Nat.eq_of_testBit_eq fun t => ?_
  rw [testBit_bitField, testBit_bitField]
  by_cases ht : t < n
  · rw [h t ht]
  · simp [ht]

theorem bitField_eq {w lo n x : Nat} (hx : x < 2 ^ n) (h : ∀ t < n, w.testBit (lo + t) = x.testBit t) : bitField w lo n = x := by
  refine Nat.eq_of_testBit_eq fun t => ?_
  rw [testBit_bitField]
  by_cases ht : t < n
  · simp [ht, h t ht]
  · have hzero : x.testBit t = false :=
      Nat.testBit_lt_two_pow (Nat.lt_of_lt_of_le hx (Nat.pow_le_pow_right (by decide) (Nat.not_lt.1 ht)))
    simp [ht, hzero]

/-- The template of a bundle is in its first byte. -/
theorem template_eq (d : List Byte) (m : Nat) : (byteOf d (16 * m)).toNat % 32 = bitField (bundleNum d m) 0 5 := by
  refine Nat.eq_of_testBit_eq fun t => ?_
  rw [testBit_bitField, Nat.zero_add, show 32 = 2 ^ 5 from rfl, Nat.testBit_mod_two_pow, BitVec.testBit_toNat]
  by_cases ht : t < 5
  · rw [testBit_bundleNum d m (by omega), ← bitAt_eq _ (by omega)]
    congr 2
    omega
  · simp [ht]

/-! ### One slot (R331) -/

/-- The field of slot `i` of bundle `v`, lowered by the bundle's number `b`. -/
def loweredField (v b i : Nat) : Nat := (bitField v (41 * i + 18) 20 + 2 ^ 20 - b % 2 ^ 20) % 2 ^ 20

theorem loweredField_lt (v b i : Nat) : loweredField v b i < 2 ^ 20 := Nat.mod_lt _ (by decide)

/-- Slot `i` of bundle `v` is a branch that `mask` names. -/
def BranchOf (mask v i : Nat) : Prop := mask.testBit i = true ∧ bitField v (41 * i + 42) 4 = 5

section
variable {d : List Byte} {m mask i : Nat} {fo : Word}

theorem itaniumSlot_eq : itaniumSlot (16 * m) fo mask d i =
    if mask.testBit i = true ∧ bitGet d (16 * m) (41 * i + 42) 4 = 5 then
      bitSet d (16 * m) (41 * i + 18) 20 ((bitGet d (16 * m) (41 * i + 18) 20 + 2 ^ 20 - fo.toNat % 2 ^ 20) % 2 ^ 20)
    else d := rfl

theorem itaniumSlot_other (hi : i < 3) (h : ¬BranchOf mask (bundleNum d m) i) : itaniumSlot (16 * m) fo mask d i = d := by
  rw [itaniumSlot_eq, bitGet_bundle d m (by omega) (by omega)]
  exact if_neg h

theorem itaniumSlot_branch (hi : i < 3) (h : BranchOf mask (bundleNum d m) i) :
    itaniumSlot (16 * m) fo mask d i = bitSet d (16 * m) (41 * i + 18) 20 (loweredField (bundleNum d m) fo.toNat i) := by
  rw [itaniumSlot_eq, bitGet_bundle d m (by omega) (by omega), bitGet_bundle d m (by omega) (by omega)]
  exact if_pos h

/-- A slot leaves the other bundles. -/
theorem byteOf_itaniumSlot_ne (hi : i < 3) {a : Nat} (ha : a / 16 ≠ m) :
    byteOf (itaniumSlot (16 * m) fo mask d i) a = byteOf d a := by
  by_cases h : BranchOf mask (bundleNum d m) i
  · rw [itaniumSlot_branch hi h]
    exact byteOf_storeLe32_ne d _ (by omega)
  · rw [itaniumSlot_other hi h]

theorem testBit_itaniumSlot (hi : i < 3) (hm : 16 * m + 16 ≤ d.length) (h : BranchOf mask (bundleNum d m) i)
    {k : Nat} (hk : k < 128) :
    (bundleNum (itaniumSlot (16 * m) fo mask d i) m).testBit k =
      if 41 * i + 18 ≤ k ∧ k < 41 * i + 38 then (loweredField (bundleNum d m) fo.toNat i).testBit (k - (41 * i + 18))
      else (bundleNum d m).testBit k := by
  rw [testBit_bundleNum _ _ hk, itaniumSlot_branch hi h, bitAt_bitSet (by omega) (by omega) (loweredField_lt _ _ _),
    testBit_bundleNum _ _ hk]
  by_cases hfield : 41 * i + 18 ≤ k ∧ k < 41 * i + 38
  · rw [if_pos (by omega), if_pos hfield]
    congr 1
    omega
  · rw [if_neg (by omega), if_neg hfield]

theorem bitField_itaniumSlot (hi : i < 3) (hm : 16 * m + 16 ≤ d.length) (h : BranchOf mask (bundleNum d m) i) :
    bitField (bundleNum (itaniumSlot (16 * m) fo mask d i) m) (41 * i + 18) 20 = loweredField (bundleNum d m) fo.toNat i :=
  bitField_eq (loweredField_lt _ _ _) fun t ht => by
    rw [testBit_itaniumSlot hi hm h (by omega), if_pos (by omega), Nat.add_sub_cancel_left]

/-- A slot leaves the bits outside its field. -/
theorem testBit_itaniumSlot_ne (hi : i < 3) (hm : 16 * m + 16 ≤ d.length) {k : Nat} (hk : k < 128)
    (hout : k < 41 * i + 18 ∨ 41 * i + 38 ≤ k) :
    (bundleNum (itaniumSlot (16 * m) fo mask d i) m).testBit k = (bundleNum d m).testBit k := by
  by_cases h : BranchOf mask (bundleNum d m) i
  · rw [testBit_itaniumSlot hi hm h hk, if_neg (by omega)]
  · rw [itaniumSlot_other hi h]

end

/-! ### One bundle -/

theorem length_itaniumSlots (q : Nat) (fo : Word) (mask : Nat) (is : List Nat) (d : List Byte) :
    (is.foldl (itaniumSlot q fo mask) d).length = d.length := by
  induction is generalizing d with
  | nil => rfl
  | cons i is ih => rw [List.foldl_cons, ih, length_itaniumSlot]

/-- Bundle `w` is bundle `v` after its first `n` slots, `branch` being those that are branches: their fields lowered by `b`, every other
bit as it was. -/
structure SlotsDone (branch : Nat → Prop) (n b v w : Nat) : Prop where
  fields : ∀ i < n, branch i → bitField w (41 * i + 18) 20 = loweredField v b i
  rest : ∀ k < 128, (∀ i < n, branch i → k < 41 * i + 18 ∨ 41 * i + 38 ≤ k) → w.testBit k = v.testBit k

theorem SlotsDone.slots {d : List Byte} {m : Nat} (fo : Word) (mask : Nat) (hm : 16 * m + 16 ≤ d.length)
    {n : Nat} (hn : n ≤ 3) :
    SlotsDone (BranchOf mask (bundleNum d m)) n fo.toNat (bundleNum d m)
      (bundleNum ((List.range n).foldl (itaniumSlot (16 * m) fo mask) d) m) := by
  induction n with
  | zero => exact ⟨fun i hi => absurd hi (Nat.not_lt_zero i), fun _ _ _ => rfl⟩
  | succ n ih =>
    obtain ⟨hfields, hrest⟩ := ih (by omega)
    rw [List.range_succ, List.foldl_append, List.foldl_cons, List.foldl_nil]
    have hlen := (length_itaniumSlots (16 * m) fo mask (List.range n) d).symm ▸ hm
    generalize (List.range n).foldl (itaniumSlot (16 * m) fo mask) d = e at hfields hrest hlen ⊢
    have hown (k : Nat) (hk : 41 * n + 5 ≤ k) (hk128 : k < 128) : (bundleNum e m).testBit k = (bundleNum d m).testBit k :=
      hrest k hk128 fun i hi _ => .inr (by omega)
    have hbranch : BranchOf mask (bundleNum e m) n ↔ BranchOf mask (bundleNum d m) n := by
      rw [BranchOf, BranchOf, bitField_congr fun t ht => hown _ (by omega) (by omega)]
    have hlow : loweredField (bundleNum e m) fo.toNat n = loweredField (bundleNum d m) fo.toNat n := by
      rw [loweredField, loweredField, bitField_congr fun t ht => hown _ (by omega) (by omega)]
    refine ⟨fun i hi hb => ?_, fun k hk hout => ?_⟩
    · obtain hlt | rfl := Nat.lt_succ_iff_lt_or_eq.1 hi
      · rw [← hfields i hlt hb]
        exact bitField_congr fun t ht => testBit_itaniumSlot_ne (by omega) hlen (by omega) (by omega)
      · rw [← hlow, bitField_itaniumSlot (by omega) hlen (hbranch.2 hb)]
    · have hbefore := hrest k hk fun i hi hb => hout i (Nat.lt_succ_of_lt hi) hb
      by_cases h : BranchOf mask (bundleNum d m) n
      · rw [testBit_itaniumSlot_ne (by omega) hlen hk (hout n (Nat.lt_succ_self n) h), hbefore]
      · rw [itaniumSlot_other (by omega) (mt hbranch.1 h), hbefore]

/-- Slot `i` of bundle `v` is a branch (R331): the template is one of the upper sixteen and names the slot, and the slot's
opcode is 5. -/
def BranchSlot (v i : Nat) : Prop :=
  16 ≤ bitField v 0 5 ∧ (Config.tmask.getD (bitField v 0 5 - 16) 0).testBit i = true ∧ bitField v (41 * i + 42) 4 = 5

theorem SlotsDone.bundle {d : List Byte} {m : Nat} (fo : Word) (hm : 16 * m + 16 ≤ d.length) :
    SlotsDone (BranchSlot (bundleNum d m)) 3 fo.toNat (bundleNum d m) (bundleNum (itaniumBundle (16 * m) fo d) m) := by
  rw [itaniumBundle, template_eq]
  split
  next h =>
    obtain ⟨hfields, hrest⟩ := SlotsDone.slots fo (Config.tmask.getD (bitField (bundleNum d m) 0 5 - 16) 0) hm (Nat.le_refl 3)
    exact ⟨fun i hi hb => hfields i hi hb.2, fun k hk hout => hrest k hk fun i hi hb => hout i hi ⟨h, hb⟩⟩
  next h => exact ⟨fun i _ hb => absurd hb.1 h, fun _ _ _ => rfl⟩

/-- A bundle leaves the others. -/
theorem byteOf_itaniumBundle_ne {d : List Byte} {m a : Nat} (fo : Word) (ha : a / 16 ≠ m) :
    byteOf (itaniumBundle (16 * m) fo d) a = byteOf d a := by
  unfold itaniumBundle
  split
  · simp only [List.foldl_cons, List.foldl_nil]
    rw [byteOf_itaniumSlot_ne (by decide) ha, byteOf_itaniumSlot_ne (by decide) ha, byteOf_itaniumSlot_ne (by decide) ha]
  · rfl

/-! ### The scan -/

/-- Only the number of the bundle modulo `2^20` counts. -/
theorem SlotsDone.congr {branch : Nat → Prop} {n b c v w : Nat} (h : SlotsDone branch n b v w) (hb : b % 2 ^ 20 = c % 2 ^ 20) :
    SlotsDone branch n c v w :=
  ⟨fun i hi hbr => by rw [h.fields i hi hbr, loweredField, loweredField, hb], h.rest⟩

/-- What the scan from bundle `m` on leaves and what it makes of a bundle. -/
theorem itaniumScan_spec {d : List Byte} {m fuel : Nat} (fo : Word) (hfuel : d.length ≤ 16 * m + fuel) :
    (∀ a, a / 16 < m ∨ d.length ≤ 16 * (a / 16) + 21 → byteOf (itaniumScan d.length fuel (16 * m) fo d) a = byteOf d a) ∧
    ∀ k, m ≤ k → 16 * k + 21 < d.length → SlotsDone (BranchSlot (bundleNum d k)) 3 (fo.toNat + (k - m)) (bundleNum d k)
      (bundleNum (itaniumScan d.length fuel (16 * m) fo d) k) := by
  induction fuel generalizing d m fo with
  | zero => exact ⟨fun _ _ => rfl, fun k hk hlt => by omega⟩
  | succ fuel ih =>
    by_cases hm : 16 * m + 21 < d.length
    · have hlen := length_itaniumBundle (16 * m) fo d
      have hbundle := SlotsDone.bundle (d := d) (m := m) fo (by omega)
      have hframe {a : Nat} (ha : a / 16 ≠ m) := byteOf_itaniumBundle_ne (d := d) fo ha
      rw [itaniumScan_bundle fuel fo d hm]
      generalize itaniumBundle (16 * m) fo d = e at hlen hbundle hframe ⊢
      obtain ⟨hkeep, hdone⟩ := ih (d := e) (m := m + 1) (fo + 1) (by omega)
      rw [hlen] at hkeep hdone
      refine ⟨fun a ha => ?_, fun k hk hlt => ?_⟩
      · exact (hkeep a (by omega)).trans (hframe (by omega))
      · obtain rfl | hlt' := Nat.eq_or_lt_of_le hk
        · have hsame := bundleNum_congr fun a (ha : a / 16 = m) => hkeep a (.inl (by omega))
          rw [Nat.sub_self, ← Nat.mul_succ, hsame]
          exact hbundle
        · have hsame : bundleNum e k = bundleNum d k := bundleNum_congr fun a ha => hframe (by omega)
          have hnext := hdone k hlt' hlt
          rw [hsame] at hnext
          refine hnext.congr ?_
          rw [BitVec.toNat_add]
          simp
          omega
    · rw [itaniumScan_end _ fo d (Nat.not_lt.1 hm)]
      exact ⟨fun _ _ => rfl, fun k hk hlt => by omega⟩

/-- Settles O34: one field both ways, the scan up to an opcode and from behind its field on, and the bundles. -/
theorem relocationUndoesTheEncoder : Obligations.RelocationUndoesTheEncoder := by
  refine ⟨fun r off h => ?_, fun r off h hoff => ?_, fun fo ops src h => relocate_of_no_opcode fo h, fun fo src => ⟨rfl, rfl⟩,
    fun fo ops before after op b0 b1 b2 b3 hbefore hop => ?_, fun r src => ?_⟩
  · rw [relocated_low off h, BitVec.add_sub_cancel]
  · rw [relocated_high h hoff, BitVec.sub_add_cancel]
  · intro off addr bytes field
    rw [relocate_first_opcode fo after b0 b1 b2 b3 hbefore hop, relocatedBytes_eq]
    rfl
  · obtain ⟨hkeep, hdone⟩ := itaniumScan_spec (d := src) (m := 0) (fuel := src.length) (regAt r 6 >>> 4) (by omega)
    refine ⟨fun a ha => hkeep a (.inr ha), fun m hm => ?_⟩
    have hb : (regAt r 6 >>> 4).toNat + (m - 0) = (regAt r 6).toNat / 16 + m := by
      rw [BitVec.toNat_ushiftRight, Nat.shiftRight_eq_div_pow, Nat.sub_zero]
    have hbundle := hdone m (Nat.zero_le m) hm
    rw [hb] at hbundle
    exact ⟨hbundle.fields, hbundle.rest⟩

end Sys2Proof.Machine
end

section
/-! PROOFS. A sound machine always goes on (spec/60_exceptions.md R390, R402, spec/70_reset_and_hazards.md R431): no field read in a
sound state names a symbol outside its alphabet, no grammar of the stream rejects symbols of the alphabets, and every instruction
gives a next state. -/

namespace Sys2Proof

/-! ### Grammars reject no symbol of the alphabets -/

/-- The symbols of the alphabet a field is decoded from; of fields without an alphabet, any value. -/
def Field.Symbol : Field → Nat → Prop
  | .ld, v => v < Config.nc
  | .dd, v => v < Config.dc
  | .rd, v => v < Config.rc
  | .md, v => v < Config.mc
  | _, _ => True

/-- Whatever symbols the fields hold, the grammar makes something. -/
def Parse.Total {α : Type} : Parse α → Prop
  | .ret _ => True
  | .fail _ => False
  | .field f k => ∀ v, f.Symbol v → Parse.Total (k v)

section
variable {α : Type}

theorem Parse.total_le (f : Field) (n : Nat) {k : Nat → Parse α} (h : ∀ v, (k v).Total) : (Parse.le f n k).Total := by
  induction n generalizing k with
  | zero => exact h 0
  | succ n ih => exact fun b _ => ih fun v => h _

theorem Parse.total_bytes (f : Field) (n : Nat) {k : List Byte → Parse α} (h : ∀ l, (k l).Total) :
    (Parse.bytes f n k).Total := by
  induction n generalizing k with
  | zero => exact h []
  | succ n ih => exact fun b _ => ih fun l => h _

theorem Parse.total_words (f : Field) (n : Nat) {k : List Word → Parse α} (h : ∀ l, (k l).Total) :
    (Parse.words f n k).Total := by
  induction n generalizing k with
  | zero => exact h []
  | succ n ih => exact Parse.total_le f 4 fun w => ih fun l => h _

theorem Parse.total_filter (f : Field) {k : FilterTok → Parse α} (h : ∀ t, (k t).Total) : (parseFilter f k).Total := by
  have hrest (c : Prop) [Decidable c] (prog : List Byte → FilterTok) (noProg : FilterTok) :
      (if c then Parse.le f 2 fun plen => Parse.bytes f plen fun l => k (prog l) else k noProg).Total := by
    split
    · exact Parse.total_le f 2 fun plen => Parse.total_bytes f plen fun l => h _
    · exact h _
  refine fun f0 _ => Parse.total_le f 4 fun start => Parse.total_le f 3 fun len => ?_
  dsimp only
  split
  · exact fun mask _ => Parse.total_words f _ fun regs => hrest _ _ _
  · exact hrest _ _ _

end

theorem cacheSlot_isSome {k : Nat} (hk : k < 4) (s e : Nat) : (Instr.cacheSlot k s e).isSome = true := by
  interval_cases k <;> rfl

theorem matchSlot_isSome {s : Nat} (hs : s < Config.rc) (e1 d e2 : Nat) : (Instr.matchSlot s e1 d e2).isSome = true := by
  have hlt : s < 28 := hs
  interval_cases s <;> rfl

/-- A grammar that ends with an instruction there is. -/
theorem Parse.total_of_isSome {o : Option Instr} (r : Reject) (h : o.isSome = true) :
    Parse.Total (match o with | some i => .ret i | none => .fail r) := by
  cases o with
  | some i => trivial
  | none => cases h

theorem parseCache_total {k : Nat} (hk : k < 4) : (parseCache k).Total := by
  intro s hs
  have hrc : s < Config.rc := hs
  dsimp only
  rw [if_pos hrc]
  exact fun e _ => Parse.total_of_isSome _ (cacheSlot_isSome hk s e)

theorem parseMatch_total {s : Nat} (hs : s < Config.rc) : (parseMatch s).Total := by
  intro e1 _ d hd
  have hdc : d < Config.dc := hd
  dsimp only
  rw [if_pos hdc]
  exact fun e2 _ => Parse.total_of_isSome _ (matchSlot_isSome hs e1 d e2)

theorem parseLz_total (g : BitVec 3) : (parseLz g).Total := by
  intro sym hsym
  have hnc : sym < 291 := hsym
  unfold parseLzRest
  split
  · trivial
  split
  · exact fun _ _ => trivial
  split
  · split
    · exact Parse.total_filter _ fun _ => trivial
    · trivial
  split
  · trivial
  split
  next hcache =>
    have hslot : sym - 259 < 4 := by simp only [Config.thresh] at hcache; omega
    generalize sym - 259 = k at hslot ⊢
    split
    · exact parseCache_total hslot
    · exact Parse.total_of_isSome _ (cacheSlot_isSome hslot 0 0)
  · rw [if_pos (show sym < Config.nc from hsym)]
    exact parseMatch_total (show sym - 263 < 28 by omega)

theorem parseAud_total : parseAud.Total := by
  intro sym hsym
  have hmc : sym < 257 := hsym
  dsimp only
  split
  · trivial
  · rw [if_pos (by omega)]
    exact fun _ _ => trivial

theorem parsePpm_total (esc : Byte) : (parsePpm esc).Total := by
  intro s _
  dsimp only
  split
  · trivial
  intro c _
  dsimp only
  split
  · trivial
  split
  · trivial
  split
  · exact Parse.total_filter _ fun _ => trivial
  split
  · exact fun _ _ _ _ _ _ _ _ => trivial
  · trivial

theorem parsePpmOnly_total : parsePpmOnly.Total := fun _ _ => trivial

theorem parseHdr_total : parseHdr.Total := by
  intro flags _ chk _
  dsimp only
  split
  · trivial
  · exact Parse.total_bytes _ _ fun _ => trivial

theorem parseLen_total : parseLen.Total := by
  intro v _
  dsimp only
  split
  · trivial
  intro z _
  dsimp only
  split <;> trivial

theorem parsePpmHdr_total : parsePpmHdr.Total := by
  have hrest (c : Prop) [Decidable c] (esc : Nat → Instr) (noEsc : Instr) :
      (if c then Parse.field .byte fun e => .ret (esc e) else .ret noEsc).Total := by
    split
    · exact fun _ _ => trivial
    · trivial
  intro p _
  dsimp only
  split
  · exact fun mem _ => hrest _ _ _
  · exact hrest _ _ _

end Sys2Proof

namespace Sys2Proof.Machine

/-! ### A field of a sound state holds a symbol of its alphabet (R99, R144, R228) -/

/-- A rank of an alphabet stands for a symbol of it. -/
theorem Adaptive.Sound.adapt_fst_lt {a : Adaptive} {n : Nat} (h : a.Sound n) (hn : 0 < n) (r : Nat) : (a.adapt r).1 < n :=
  getD_lt (fun _ hx => List.mem_range.1 ((h.order.mem_iff).1 hx)) hn r

theorem decodeLd_symbol {s u : State} {v : Nat} (hs : s.Sound) (h : decodeLd s = .ok v u) : v < Config.nc := by
  obtain ⟨_, _, hget, h⟩ := bind_ok h
  cases hget
  split at h
  · obtain ⟨r, _, -, h⟩ := bind_ok h
    obtain ⟨_, _, -, h⟩ := bind_ok h
    cases h
    exact hs.tok.ld.adapt_fst_lt (by decide) r
  · exact (decodeTable_ok hs.tabs.ld (by decide) h).2

theorem decodeDd_symbol {s u : State} {v : Nat} (hs : s.Sound) (h : decodeDd s = .ok v u) : v < Config.dc := by
  obtain ⟨_, _, hget, h⟩ := bind_ok h
  cases hget
  split at h
  · obtain ⟨r, _, -, h⟩ := bind_ok h
    obtain ⟨_, _, -, h⟩ := bind_ok h
    cases h
    exact hs.tok.dd.adapt_fst_lt (by decide) r
  · exact (decodeTable_ok hs.tabs.dd (by decide) h).2

theorem decodeRd_symbol {s u : State} {v : Nat} (hs : s.Sound) (h : decodeRd s = .ok v u) : v < Config.rc := by
  obtain ⟨_, _, hget, h⟩ := bind_ok h
  cases hget
  split at h
  · obtain ⟨r, _, -, h⟩ := bind_ok h
    obtain ⟨_, _, -, h⟩ := bind_ok h
    cases h
    exact hs.tok.rd.adapt_fst_lt (by decide) r
  · exact (decodeTable_ok hs.tabs.rd (by decide) h).2

theorem decodeMd_symbol {s u : State} {v : Nat} (hs : s.Sound) (h : decodeMd s = .ok v u) : v < Config.mc := by
  obtain ⟨_, _, hget, h⟩ := bind_ok h
  cases hget
  exact (decodeTable_ok (hs.tabs.md _ (by simp)) (by decide) h).2

theorem readField_symbol {f : Field} {s u : State} {v : Nat} (hs : s.Sound) (h : readField f s = .ok v u) : f.Symbol v := by
  cases f with
  | ld => exact decodeLd_symbol hs (reading_ok h)
  | dd => exact decodeDd_symbol hs (reading_ok h)
  | rd => exact decodeRd_symbol hs (reading_ok h)
  | md => exact decodeMd_symbol hs (reading_ok h)
  | raw _ | ppm => trivial

/-! ### No fetch names a symbol outside its alphabet -/

/-- A reason to abandon a token that is not the one fault (log entry 22). -/
def Abort.Modelled (e : Abort) : Prop := ∀ sym, e ≠ .reject sym

/-- Operations that are abandoned for reasons `err` only. -/
def abandonContract {σ ε : Type} (err : ε → Prop) : Contract σ ε where
  pre _ := True
  rel _ _ := True
  err := err
  refl _ := trivial
  trans _ _ := trivial
  keeps _ _ := trivial

/-- An operation is abandoned for modelled reasons only. -/
abbrev modelledContract : Contract State Abort := abandonContract Abort.Modelled

theorem reading_modelled {α : Type} (x : M α) (s : State) : modelledContract.Holds (reading x) s where
  ok _ _ := ⟨trivial, trivial⟩
  error _ h := by
    unfold reading at h
    split at h <;> cases h
    exact ⟨trivial, fun _ hsym => nomatch hsym⟩

theorem truncatedInput_modelled {α : Type} (s : State) : modelledContract.Holds (truncatedInput : FetchM α) s :=
  .throw fun _ hsym => nomatch hsym

theorem decodePpmByte_modelled (s : State) : modelledContract.Holds decodePpmByte s := by
  refine .bind (reading_modelled _ s) fun r t _ => ?_
  cases r with
  | byte b => exact .pure trivial
  | endSegment | corrupt | nomem => exact .throw fun _ hsym => nomatch hsym

theorem readField_modelled (f : Field) (s : State) : modelledContract.Holds (readField f) s := by
  cases f with
  | ppm => exact decodePpmByte_modelled s
  | raw _ | ld | dd | rd | md => exact reading_modelled _ s

theorem blockBoundary_modelled (s : State) : modelledContract.Holds blockBoundary s := by
  refine .get ?_
  split
  · exact .bind (reading_modelled _ s) fun _ _ _ => .pure trivial
  · refine .bind (reading_modelled _ s) fun ended t _ => ?_
    split
    · exact truncatedInput_modelled t
    · refine .get ?_
      split
      · exact .bind (reading_modelled _ t) fun _ _ _ => .pure trivial
      · exact .pure trivial

theorem ppmBoundary_modelled (s : State) : modelledContract.Holds ppmBoundary s := by
  refine .get ?_
  split
  · exact .bind (reading_modelled _ s) fun _ _ _ => .pure trivial
  · refine .bind (reading_modelled _ s) fun past t _ => ?_
    split
    · exact truncatedInput_modelled t
    · exact .pure trivial

/-- If the operation is abandoned, it is for a modelled reason. -/
abbrev Answers {α : Type} (x : FetchM α) (s : State) : Prop := Ends x s (fun _ _ => True) fun e _ => e.Modelled

section
variable {α β : Type} {x : FetchM β} {f : β → FetchM α} {s : State}

theorem Ends.of_modelled (h : modelledContract.Holds x s) : Answers x s := ⟨fun _ => trivial, fun hx => (h.error trivial hx).2⟩

theorem Ends.afterModelled {good : β → State → Prop} {bad : Abort → State → Prop} (hm : modelledContract.Holds x s)
    (hx : Ends x s good bad) (hf : ∀ b t, good b t → Answers (f b) t) : Answers (x >>= f) s :=
  .bind ⟨hx.ok, fun h => (hm.error trivial h).2⟩ hf

/-- After an operation that keeps a sound state sound. -/
theorem Ends.afterSound (hm : modelledContract.Holds x s) (hk : (soundContract Abort.Legal).Holds x s) (hs : s.Sound)
    (hf : ∀ b t, t.Sound → Answers (f b) t) : Answers (x >>= f) s :=
  .bind (mid := fun _ t => t.Sound) ⟨fun h => (hk.ok hs h).1.1 hs, fun h => (hm.error trivial h).2⟩ hf

end

/-- A total grammar, run in a sound state, is abandoned for modelled reasons only. -/
theorem fetchParse_answers {α : Type} {fix : List Nat → State → State} {p : Parse α} (hp : p.Total) (vals : List Nat)
    {s : State} (hs : s.Sound) : Answers (fetchParse fix p vals) s := by
  induction p generalizing vals s with
  | ret a => exact .pure trivial
  | fail r => exact hp.elim
  | field f k ih =>
    cases hr : readField f s with
    | ok v t =>
      have hrun : fetchParse fix (.field f k) vals s = fetchParse fix (k v) (vals ++ [v]) t := by simp only [fetchParse, hr]
      have hrest := ih v (hp v (readField_symbol hs hr)) (vals ++ [v]) (((readField_keeps f s).ok hs hr).1.1 hs)
      exact ⟨fun _ => trivial, fun h => hrest.error (hrun ▸ h)⟩
    | error e t =>
      have hrun : fetchParse fix (.field f k) vals s = .error e (fix vals t) := by simp only [fetchParse, hr]
      exact .of_error hrun ((readField_modelled f s).error trivial hr).2

theorem fetchInstr_answers {fix : List Nat → State → State} {p : Parse Instr} (hp : p.Total) {s : State} (hs : s.Sound) :
    Answers (some <$> fetchParse fix p []) s := by
  have h := fetchParse_answers (fix := fix) hp [] hs
  cases hr : fetchParse fix p [] s with
  | ok i t => exact .of_ok (map_of_ok hr) trivial
  | error e t => exact .of_error (map_of_error hr) (h.error hr)

section
variable {s : State} (hs : s.Sound)
include hs

omit hs in
theorem fetchToken_answers {boundary : FetchM Bool} {fix : State → List Nat → State → State} {g : State → Parse Instr}
    (hm : modelledContract.Holds boundary s) (hb : Ends boundary s Proceeds StopsSound) (hg : ∀ u, (g u).Total) :
    Answers (fetchToken boundary fix g) s := by
  refine .afterModelled hm hb fun go t ⟨ht, _⟩ => ?_
  cases go with
  | false => exact .pure trivial
  | true =>
    exact .afterSound (reading_modelled _ t) (reading_keeps (maybeFlush_keeps t)) ht fun _ u hu =>
      .get (fetchInstr_answers (hg u) hu)

theorem fetchHdr_answers : Answers fetchHdr s := by
  refine .get ?_
  split
  · exact .of_modelled (.bind (reading_modelled _ s) fun _ _ _ => .pure trivial)
  · refine .afterSound (reading_modelled _ s) (reading_keeps (onCur_keeps (align_keeps _))) hs fun _ t ht => ?_
    refine .afterSound (reading_modelled _ t) (reading_keeps (onCur_keeps (exhausted_keeps _))) ht fun ended u hu => ?_
    split
    · exact .of_modelled (truncatedInput_modelled u)
    · exact fetchInstr_answers parseHdr_total hu

theorem fetchTables_answers : Answers fetchTables s := by
  refine .get ?_
  split
  · split
    · exact .of_modelled (.bind (reading_modelled _ s) fun _ _ _ => .bind (.update trivial) fun _ _ _ => .pure trivial)
    · exact .of_modelled (.bind (.set trivial) fun _ _ _ => .pure trivial)
  split
  · exact fetchInstr_answers parseLen_total hs
  · split <;> exact .pure trivial

theorem fetchPpmOnly_answers : Answers fetchPpmOnly s := by
  refine .get ?_
  split
  · exact .of_modelled (.bind (.update trivial) fun _ _ _ => .pure trivial)
  · refine .afterSound (reading_modelled _ s) (reading_keeps (onCur_keeps (overrun_keeps _))) hs fun past t ht => ?_
    split
    · exact .of_modelled (truncatedInput_modelled t)
    · exact fetchInstr_answers parsePpmOnly_total ht

omit hs in
theorem fetchPolled_answers {x : FetchM (Option Instr)} (hpoll : s.ses.fsm ∈ [Fsm.hdr, .lz, .aud, .ppm, .ppmonly])
    (hfetch : s.par.cancel = false → fetchCore s = x) (hx : Answers x s) : Answers (fetchCore s) s := by
  cases hc : s.par.cancel with
  | true => exact .of_ok (fetchCore_cancelled hc hpoll) trivial
  | false =>
    rw [hfetch hc]
    exact hx

theorem fetchCore_answers : Answers (fetchCore s) s := by
  have hin {f : Fsm} (hf : s.ses.fsm = f) (h : f.OfSession) : s.InSession := by
    rw [State.InSession, hf]
    exact h
  have hpoll {f : Fsm} (hf : s.ses.fsm = f) (h : f ∈ [Fsm.hdr, .lz, .aud, .ppm, .ppmonly]) :
      s.ses.fsm ∈ [Fsm.hdr, .lz, .aud, .ppm, .ppmonly] := hf.symm ▸ h
  cases hf : s.ses.fsm with
  | idle | done =>
    have hnone : fetchCore s = pure none := by simp only [fetchCore, hf]
    rw [hnone]
    exact .pure trivial
  | hdr => exact fetchPolled_answers (hpoll hf (by decide)) (fetchCore_hdr hf) (fetchHdr_answers hs)
  | tables =>
    rw [fetchCore_tables hf]
    exact fetchTables_answers hs
  | lz =>
    refine fetchPolled_answers (hpoll hf (by decide)) (fetchCore_lz hf) ?_
    rw [fetchLz_eq]
    exact fetchToken_answers (blockBoundary_modelled s) (blockBoundary_ends hs (hin hf (by decide))) fun _ => parseLz_total _
  | aud =>
    refine fetchPolled_answers (hpoll hf (by decide)) (fetchCore_aud hf) ?_
    rw [fetchAud_eq]
    exact fetchToken_answers (blockBoundary_modelled s) (blockBoundary_ends hs (hin hf (by decide))) fun _ => parseAud_total
  | ppmhdr =>
    rw [fetchCore_ppmhdr hf]
    exact fetchInstr_answers parsePpmHdr_total hs
  | ppm =>
    refine fetchPolled_answers (hpoll hf (by decide)) (fetchCore_ppm hf) ?_
    rw [fetchPpm_eq]
    exact fetchToken_answers (ppmBoundary_modelled s) (ppmBoundary_ends hs (hin hf (by decide))) fun _ => parsePpm_total _
  | ppmonly => exact fetchPolled_answers (hpoll hf (by decide)) (fetchCore_ppmonly hf) (fetchPpmOnly_answers hs)

/-- An iteration of a sound machine ends without a fault. -/
theorem coreFetch_ne_fault (f : Fault) : coreFetch s ≠ .fault f := by
  intro h
  unfold coreFetch at h
  split at h
  · cases h
  · cases h
  next e t he =>
    have hmodelled := (fetchCore_answers hs).error he
    cases e with
    | reject sym => exact hmodelled sym rfl
    | halt | endSegment | corrupt | nomem => cases h

end

/-! ### Every instruction gives a next state -/

/-- The outcome is a next state. -/
def GoesOn (o : Out) : Prop := ∃ t, o = .next t

theorem GoesOn.next (t : State) : GoesOn (.next t) := ⟨t, rfl⟩

theorem GoesOn.runOp (x : M Unit) (s : State) : GoesOn (runOp x s) := ⟨_, runOp_eq_settle x s⟩

theorem GoesOn.portCommand (c : Bool) (x : M (Option Word)) (s : State) : GoesOn (portCommand c x s) := by
  obtain ⟨-, h⟩ | ⟨-, -, ⟨_, _, -, h⟩ | ⟨_, -, h⟩ | ⟨_, _, -, h⟩ | ⟨_, -, h⟩⟩ := portCommand_cases c x s <;> exact ⟨_, h⟩

theorem GoesOn.ite {c : Prop} [Decidable c] {o p : Out} (ho : GoesOn o) (hp : GoesOn p) : GoesOn (if c then o else p) := by
  split
  · exact ho
  · exact hp

theorem execWinFlush_goesOn (s : State) : GoesOn (execWinFlush s) := by
  unfold execWinFlush
  refine .ite ?_ (.next _)
  split <;> exact .next _

/-- Every instruction has a meaning in every state. -/
theorem exec_goesOn (i : Instr) (s : State) : GoesOn (exec i s) := by
  cases i with
  | nop | reset | cancel => exact .next _
  | start => exact .ite (.ite (.next _) (.runOp _ _)) (.next _)
  | bcPeek | bcRefill | bcExhausted | hufDecode | ppmDecode | rcInit => exact .portCommand _ _ _
  | bcAttach | bcConsume | bcAlign | hufSetlen | hufBuild | winPut | winCopy | winRead | winStat | winInit | ppmInit | saAlloc
  | saFree | saInit | fvLoad | fvSetreg | fvExec | fvRead | fvIdent => exact .ite (.next _) (.next _)
  | winFlush => exact execWinFlush_goesOn s
  | end00 | end01 | end10 | end11 | audEnd00 | audEnd01 | audEnd10 | audEnd11 | ppmNewfile | ppmReserved | ppmonlyByte =>
    exact .runOp _ _
  | ppmHdr => exact .ite (.next _) (.runOp _ _)
  | lit | filter | repeatLast | cache0 | cache1 | cache2 | cache3 => exact .next _
  | match0 | match1 | match2 | match3 | match4 | match5 | match6 | match7 | match8 | match9 | match10 | match11 | match12
  | match13 | match14 | match15 | match16 | match17 | match18 | match19 | match20 | match21 | match22 | match23 | match24
  | match25 | match26 | match27 => exact .next _
  | audDelta | ppmLit | ppmLitesc | ppmFilter | ppmMatch => exact .next _
  | hdr | lenV | len15 | lenZrun | audioTables | lzTables | filterTok => exact .next _
  | fkNone | fkE8 | fkE8E9 | fkItanium | fkDelta | fkRgb | fkAudio => exact .next _

/-! ### A step -/

/-- What is fetched without a fault is a step. -/
theorem step_goesOn {s : State} (h : ∀ f, fetchNext s ≠ .fault f) : GoesOn (step s) := by
  unfold step
  split
  · exact exec_goesOn _ _
  · exact .next _
  next f hf => exact absurd hf (h f)

/-- Settles O52: the host's action is no fault, and the CORE's own fetch reads symbols of the alphabets only. -/
theorem soundStatesAlwaysStep : Obligations.SoundStatesAlwaysStep := by
  intro s hs
  refine step_goesOn fun f hf => ?_
  cases hq : s.quiet with
  | true => exact coreFetch_ne_fault hs.tick f (fetchNext_quiet hq ▸ hf)
  | false =>
    obtain ⟨a, rest, hfetch⟩ := fetchNext_due hq
    rw [hfetch] at hf
    obtain ⟨u, hdone, -⟩ | ⟨i, hinstr, -⟩ := hostFetch_cases a (s.setHost rest)
    · rw [hdone] at hf
      cases hf
    · rw [hinstr] at hf
      cases hf

end Sys2Proof.Machine
end

section
/-! PROOFS. `START` (spec/48_session.md R350 to R354, R364): when it is accepted, the state a session begins in, and the state after
reset (spec/70_reset_and_hazards.md R432). -/

namespace Sys2Proof.Machine

/-- Settles O50: the reset state is the one a `RESET` gives, but for the count of Filter VM memories. -/
theorem resetIsSound : Obligations.ResetIsSound := { State.reset.hardReset_sound with }

section
variable {s : State}

/-! ### When `START` is accepted -/

/-- The session that is to begin continues the one before it (R353). -/
def State.Chains (s : State) : Prop :=
  s.par.solid = true ∧ s.ses.verL = s.par.version ∧ s.st.kind = .success

theorem State.effectiveSolid_iff : s.effectiveSolid = true ↔ s.Chains := by
  simp [State.effectiveSolid, State.Chains, and_assoc]

theorem State.effectiveSolid_eq_false_iff : s.effectiveSolid = false ↔ ¬ s.Chains := by
  rw [← State.effectiveSolid_iff, Bool.not_eq_true]

theorem State.mustLatch_iff : s.mustLatch = true ↔ s.par.version.toNat ≤ 3 ∧ (¬ s.Chains ∨ s.win.w = 0) := by
  simp [State.mustLatch, State.effectiveSolid_eq_false_iff]

/-- `START` on an idle machine with a mode that there is and, if the window is to be latched, a legal size. -/
theorem State.startAccepted_of (hi : s.isIdle = true) (hv : s.par.version.toNat ≤ 4)
    (hsize : s.mustLatch = true → (latchSize s.par.winsize).isSome = true) : s.startAccepted = true := by
  simp only [State.startAccepted, hi, hv, decide_true, Bool.true_and, Bool.or_eq_true, Bool.not_eq_true']
  cases hm : s.mustLatch with
  | false => exact .inl rfl
  | true => exact .inr (hsize hm)

theorem exec_start_refused (h : s.startAccepted = false) : exec .start s = .next s.refuse := by
  show execStart s = _
  rw [execStart, h]
  rfl

/-- The state in which `START` latches: of a session that does not continue another one, after the reset. -/
def State.starting (s : State) : State := if s.effectiveSolid then s.accept else s.accept.decoderReset

theorem State.starting_solid (h : s.Chains) : s.starting = s.accept := if_pos (State.effectiveSolid_iff.2 h)

theorem State.starting_fresh (h : ¬ s.Chains) : s.starting = s.accept.decoderReset :=
  if_neg fun hsolid => h (State.effectiveSolid_iff.1 hsolid)

theorem exec_start_accepted (h : s.startAccepted = true) (hv : s.par.version.toNat ≤ 3) :
    exec .start s = .next s.starting.latch := by
  show execStart s = _
  rw [execStart, if_pos h, if_pos hv]
  rfl

theorem exec_start_ppmOnly (h : s.startAccepted = true) (hv : ¬ s.par.version.toNat ≤ 3) :
    exec .start s = runOp (ppmOnlyBegin s.effectiveSolid) s.starting.latch := by
  show execStart s = _
  rw [execStart, if_pos h, if_neg hv]
  rfl

/-! ### `START` refused (R351, R352) -/

/-- Settles O7. -/
theorem reservedVersionRefusesStart : Obligations.ReservedVersionRefusesStart := by
  intro s hv
  refine exec_start_refused ?_
  have hnot : ¬ s.par.version.toNat ≤ 4 := by omega
  simp [State.startAccepted, hnot]

/-- A size that is no power of two up to `W_MAX` cannot be latched. -/
theorem latchSize_eq_none {x : Word} (h : ∀ k ≤ 30, x.toNat ≠ 2 ^ k) : latchSize x = none := by
  refine if_pos ?_
  by_contra hlegal
  simp only [not_or, ne_eq, not_not, Nat.not_lt] at hlegal
  obtain ⟨hzero, hand, hmax⟩ := hlegal
  obtain ⟨k, hk⟩ := (Nat.and_sub_one_eq_zero_iff_isPowerOfTwo hzero).1 hand
  exact h k ((Nat.pow_le_pow_iff_right (by decide)).1 (hk ▸ hmax)) hk

/-- Settles O8: both commands ask for a size that can be latched. -/
theorem illegalWindowSizeIsRefused : Obligations.IllegalWindowSizeIsRefused := by
  intro s hsize
  have hnone := latchSize_eq_none hsize
  refine ⟨?_, fun hv hnew => exec_start_refused ?_⟩
  · have hrefuse : (latchSize s.par.winsize).isSome = false := by rw [hnone]; rfl
    show execWinInit s = _
    exact idleCommand_refuse _ s _ (.inr hrefuse)
  · have hmust : s.mustLatch = true := by
      refine State.mustLatch_iff.2 ⟨hv, ?_⟩
      by_contra hno
      rw [not_or, not_not] at hno
      obtain ⟨⟨hsolid, hver, hkind⟩, hw⟩ := hno
      exact hnew ⟨hsolid, hver, hkind, hw⟩
    simp [State.startAccepted, hmust, hnone]

/-! ### The state a session begins in (R350, R354) -/

/-- `START` has latched the parameters of a session over the window `x`. -/
def State.begun (s : State) (x : Window) (f : Fsm) : State :=
  { s with
    cur := s.cur.attach, win := x, par := { s.par with cancel := false },
    st := ⟨.none, .none, .none, 0, 0, 0, s.st.cmdErr, s.st.result⟩,
    ses := ⟨f, 0, false, false, false, s.par.version, s.par.target, x.tw⟩ }

theorem State.latch_kept (hv : s.par.version.toNat ≤ 3) (hw : s.win.w ≠ 0) : s.latch = s.begun s.win .hdr := by
  unfold State.latch
  simp only [hv, hw, and_false, if_false, if_true]
  rfl

theorem State.latch_new (hv : s.par.version.toNat ≤ 3) (hw : s.win.w = 0) :
    s.latch = s.begun (Window.fresh (max s.par.winsize.toNat Config.wMin)) .hdr := by
  unfold State.latch
  simp only [hv, hw, and_self, if_true]
  rfl

theorem State.latch_ppmOnly (hv : ¬ s.par.version.toNat ≤ 3) : s.latch = s.begun s.win .ppmonly := by
  unfold State.latch
  simp only [hv, false_and, if_false]
  rfl

/-- A `START` of G1 to G4 with a legal window size. -/
theorem State.startAccepted_two_pow {k : Nat} (hi : s.isIdle = true) (hv : s.par.version.toNat ≤ 3) (hk : k ≤ 30)
    (hx : s.par.winsize.toNat = 2 ^ k) : s.startAccepted = true :=
  s.startAccepted_of hi (hv.trans (by decide)) fun _ => by rw [latchSize_two_pow hk hx]; rfl

/-- Settles O4: the session is a latched window's, and `START` has nothing to latch but parameters. -/
theorem solidStartKeepsAdaptiveState : Obligations.SolidStartKeepsAdaptiveState := by
  intro s hi hv hsolid hver hkind hw
  have hchain : s.Chains := ⟨hsolid, hver, hkind⟩
  have hacc : s.startAccepted = true := s.startAccepted_of hi (hv.trans (by decide)) fun hm => by
    obtain ⟨-, hno | hzero⟩ := State.mustLatch_iff.1 hm
    · exact absurd hchain hno
    · exact absurd hzero hw
  refine ⟨s.accept.begun s.win .hdr, ?_, rfl, rfl, rfl, rfl, rfl, rfl, rfl⟩
  rw [exec_start_accepted hacc hv, State.starting_solid hchain, State.latch_kept (s := s.accept) hv hw]
  rfl

/-- The seven tables after a reset. -/
theorem Tables.byId_reset {id : Nat} (h : id < 7) :
    (State.reset.tabs.byId id).valid = false ∧ (State.reset.tabs.byId id).fake = none := by
  interval_cases id <;> exact ⟨rfl, rfl⟩

/-- Settles O5: after the reset a window is latched in every case, in a session that continues only if there is none. -/
theorem freshStartClearsTheDecoder : Obligations.FreshStartClearsTheDecoder := by
  intro s k hi hv hx hk
  have hacc := State.startAccepted_two_pow hi hv hk hx
  have hstart := exec_start_accepted hacc hv
  have hsize : max s.par.winsize.toNat Config.wMin = max (2 ^ k) 262144 := by rw [hx]; rfl
  refine ⟨fun hfresh => ?_, fun hsolid hver hkind hw => ?_⟩
  · rw [State.starting_fresh (s := s) hfresh, State.latch_new (s := s.accept.decoderReset) hv rfl] at hstart
    exact ⟨_, hstart, congrArg Window.fresh hsize, rfl, rfl, rfl, rfl, rfl, rfl, rfl, rfl, fun id hid => (Tables.byId_reset hid).1,
      rfl, rfl, rfl, rfl, rfl, rfl, rfl, rfl, rfl, SubAlloc.bare_freeBlocks 0 0, rfl, rfl, rfl⟩
  · rw [State.starting_solid ⟨hsolid, hver, hkind⟩, State.latch_new (s := s.accept) hv hw] at hstart
    exact ⟨_, hstart, congrArg Window.fresh hsize, rfl, rfl, rfl, rfl, rfl, rfl, rfl⟩

end

end Sys2Proof.Machine
end

section
/-! PROOFS. How a PPM block and a PPM_ONLY session begin (spec/48_session.md R361, R364): the model kept or created
(spec/45_ppm_model.md R260 to R262), the range coder loaded. -/

namespace Sys2Proof.Machine

section
variable {s m u : State}

/-! ### `rc_init()` and `ppm_create` on the machine -/

/-- The range coder after `rc_init()` at the position `c` (R241). -/
def loadedCoder (c : Cursor) : RangeCoder := ⟨0, BitVec.ofNat 32 (c.streamNat 0 32), 0xFFFFFFFF#32⟩

theorem onPpm_rcInit (h : s.cur.ready = true) :
    ∃ d, d.bitpos = s.cur.bitpos + 32 ∧ onPpm rcInit s = .ok () ((s.setCur d).setRc (loadedCoder s.cur)) := by
  obtain ⟨d, hahead, hinit⟩ := rcInit_loads s.world h
  refine ⟨d, hahead.bitpos, ?_⟩
  unfold onPpm
  rw [hinit]
  rfl

/-- The model `p` in the arena `a` that the machine `s` goes on with: its own if that is `kept`, else a fresh one in `units` units. -/
structure State.HasModel (s : State) (kept : Prop) (order units : Nat) (p : PpmModel) (a : SubAlloc) : Prop where
  alloc : p.alloc = true
  esc : p.esc = s.ppm.esc
  disabled : p.disabled = s.ppm.disabled
  old : kept → p = s.ppm ∧ a = s.sa
  new : ¬ kept → p.Fresh order ∧ a.u = units ∧ a.brk = 129 ∧ a.freeBlocks = []

theorem State.hasModel_kept {kept : Prop} {order units : Nat} (hk : kept) (h : s.ppm.alloc = true) :
    s.HasModel kept order units s.ppm s.sa := ⟨h, rfl, rfl, fun _ => ⟨rfl, rfl⟩, fun hno => absurd hk hno⟩

theorem State.createModel_hasModel {kept : Prop} (s : State) (order : Nat) {units : Nat} (hk : ¬ kept) (h : 129 ≤ units) :
    s.HasModel kept order units (s.createModel order units).ppm (s.createModel order units).sa := by
  have hfresh := ppmCreate_fresh s.ppm s.sa order h
  have hcreate := ppmCreate_of_fits s.ppm s.sa order h
  have harena : (s.createModel order units).sa = .bare units 129 := congrArg (·.2) hcreate
  refine ⟨hfresh.alloc, congrArg (·.1.esc) hcreate, congrArg (·.1.disabled) hcreate, fun hkept => absurd hkept hk,
    fun _ => ⟨hfresh, ?_⟩⟩
  rw [harena]
  exact ⟨rfl, rfl, SubAlloc.bare_freeBlocks units 129⟩

theorem State.createModel_frame (s : State) (order units : Nat) :
    s.createModel order units = { s with ppm := (s.createModel order units).ppm, sa := (s.createModel order units).sa } := rfl

/-! ### `ppm_only_begin()` (R364) -/

/-- A PPM_ONLY session creates its model from `PPM_ORDER` and `PPM_MEM`. -/
def State.onlyModel (s : State) : State :=
  s.createModel (clampOrder s.par.ppmOrder.toNat) (s.par.ppmMem.toNat / Config.unitSize)

theorem ppmOnlyBegin_kept (h : s.ppm.alloc = true) : ppmOnlyBegin true s = onPpm rcInit s := by
  refine (bind_of_ok rfl).trans ?_
  rw [if_neg (by simp [h])]

theorem ppmOnlyBegin_created {solid : Bool} (hnone : (solid && s.ppm.alloc) = false) (h : s.onlyModel.ppm.alloc = true) :
    ppmOnlyBegin solid s = onPpm rcInit s.onlyModel := by
  have hmodel : (!s.onlyModel.ppm.alloc) = false := by rw [h]; rfl
  refine (bind_of_ok rfl).trans ?_
  rw [if_pos (by simp [hnone])]
  refine (bind_of_ok rfl).trans ((bind_of_ok rfl).trans ?_)
  exact congrFun (if_neg (Bool.eq_false_iff.1 hmodel)) s.onlyModel

theorem ppmOnlyBegin_short {solid : Bool} (hnone : (solid && s.ppm.alloc) = false) (h : s.onlyModel.ppm.alloc = false) :
    ppmOnlyBegin solid s = .error (.fatal ⟨.corrupt, .nomem⟩) s.onlyModel := by
  have hmodel : (!s.onlyModel.ppm.alloc) = true := by rw [h]; rfl
  refine (bind_of_ok rfl).trans ?_
  rw [if_pos (by simp [hnone])]
  refine (bind_of_ok rfl).trans ((bind_of_ok rfl).trans ?_)
  exact congrFun (if_pos hmodel) s.onlyModel

/-- With memory enough or a model to keep the session has a model, and reads the range coder. -/
theorem ppmOnlyBegin_reads_coder (solid : Bool) (h : (solid && s.ppm.alloc) = true ∨ 129 ≤ s.par.ppmMem.toNat / 12) :
    ∃ p a, s.HasModel ((solid && s.ppm.alloc) = true) (clampOrder s.par.ppmOrder.toNat) (s.par.ppmMem.toNat / 12) p a ∧
      ppmOnlyBegin solid s = onPpm rcInit { s with ppm := p, sa := a } := by
  cases hkept : solid && s.ppm.alloc with
  | true =>
    obtain ⟨rfl, halloc⟩ := Bool.and_eq_true_iff.1 hkept
    exact ⟨_, _, s.hasModel_kept rfl halloc, ppmOnlyBegin_kept halloc⟩
  | false =>
    have hmodel := s.createModel_hasModel (clampOrder s.par.ppmOrder.toNat) Bool.false_ne_true
      (h.resolve_left (Bool.eq_false_iff.1 hkept))
    exact ⟨_, _, hmodel, ppmOnlyBegin_created hkept hmodel.alloc⟩

/-! ### `START` of a PPM_ONLY session -/

/-- The state in which `START` begins a PPM_ONLY session. -/
theorem State.starting_ppmOnly (hv : s.par.version = 4) : s.starting.latch = s.starting.begun s.starting.win .ppmonly := by
  refine State.latch_ppmOnly ?_
  have hpar : s.starting.par.version = s.par.version := by unfold State.starting; split <;> rfl
  rw [hpar, hv]
  decide

/-- What `START` sets whether or not the session continues another one. -/
theorem State.starting_begun (s : State) (x : Window) (f : Fsm) :
    (s.starting.begun x f).par = { s.par with cancel := false } ∧
    (s.starting.begun x f).st = ⟨.none, .none, .none, 0, 0, 0, false, s.st.result⟩ ∧
    (s.starting.begun x f).cur = s.cur.attach ∧
    (s.starting.begun x f).ses = ⟨f, 0, false, false, false, s.par.version, s.par.target, x.tw⟩ := by
  unfold State.starting
  split <;> exact ⟨rfl, rfl, rfl, rfl⟩

theorem State.starting_alloc (s : State) :
    (s.effectiveSolid && s.starting.ppm.alloc) = true ↔ s.Chains ∧ s.ppm.alloc = true := by
  rw [Bool.and_eq_true, State.effectiveSolid_iff]
  exact and_congr_right fun hchain => by rw [State.starting_solid hchain]; rfl

/-- Settles O6: `ppm_only_begin()` in the state that `START` latched, with the model kept, created, or too little memory. -/
theorem ppmOnlyStartCreatesOrKeepsTheModel : Obligations.PpmOnlyStartCreatesOrKeepsTheModel := by
  intro s hi hv
  dsimp only
  have hchain : (s.par.solid = true ∧ s.ses.verL = 4 ∧ s.st.kind = .success) ↔ s.Chains := by rw [State.Chains, hv]
  rw [hchain]
  have hver : ¬ s.par.version.toNat ≤ 3 := by rw [hv]; decide
  have hacc : s.startAccepted = true := s.startAccepted_of hi (by rw [hv]; decide) fun hm =>
    absurd (State.mustLatch_iff.1 hm).1 hver
  have hstart := exec_start_ppmOnly hacc hver
  rw [State.starting_ppmOnly hv] at hstart
  obtain ⟨hpar, hst, hcur, hses⟩ := s.starting_begun s.starting.win .ppmonly
  have hkept : (s.effectiveSolid && (s.starting.begun s.starting.win .ppmonly).ppm.alloc) = true ↔
      s.Chains ∧ s.ppm.alloc = true := s.starting_alloc
  have hsolid : s.Chains → s.starting.begun s.starting.win .ppmonly = s.accept.begun s.win .ppmonly := fun h => by
    rw [State.starting_solid h]; rfl
  have hfresh : ¬ s.Chains → s.starting.begun s.starting.win .ppmonly =
      s.accept.decoderReset.begun s.accept.decoderReset.win .ppmonly := fun h => by rw [State.starting_fresh h]
  generalize s.starting.begun s.starting.win .ppmonly = x at hstart hpar hst hcur hses hkept hsolid hfresh
  have hmem : x.par.ppmMem = s.par.ppmMem := by rw [hpar]
  have horder : x.par.ppmOrder = s.par.ppmOrder := by rw [hpar]
  refine ⟨fun hready hmodel => ?_, fun hno hshort => ?_⟩
  · obtain ⟨p, a, hm, hbegin⟩ := ppmOnlyBegin_reads_coder (s := x) s.effectiveSolid
      (hmodel.imp hkept.2 fun h => by rw [hmem]; omega)
    obtain ⟨d, hbit, hcoder⟩ := onPpm_rcInit (s := { x with ppm := p, sa := a }) (hcur ▸ hready)
    refine ⟨_, hstart.trans (runOp_of_ok (hbegin.trans hcoder)), congrArg Session.fsm hses, hm.alloc, ?_, ?_,
      (congrArg Session.verL hses).trans hv, congrArg Session.targetL hses, hst, hpar, fun hk => ?_, fun hno => ?_,
      fun hk => ?_, fun hno => ?_⟩
    · rw [← hcur]; rfl
    · rw [hcur] at hbit; exact hbit
    · obtain ⟨hp, ha⟩ := hm.old (hkept.2 hk)
      rw [hsolid hk.1] at hp ha
      exact ⟨hp, ha⟩
    · have hnew := hm.new fun hk => hno (hkept.1 hk)
      rw [horder, hmem] at hnew
      exact hnew
    · have hesc := hm.esc
      have hdisabled := hm.disabled
      rw [hsolid hk] at hesc hdisabled ⊢
      exact ⟨rfl, rfl, rfl, rfl, hesc, hdisabled⟩
    · have hesc := hm.esc
      have hdisabled := hm.disabled
      rw [hfresh hno] at hesc hdisabled ⊢
      exact ⟨rfl, fun id hid => (Tables.byId_reset hid).1, rfl, rfl, rfl, hesc, hdisabled, rfl, rfl, rfl⟩
  · have hnone : (s.effectiveSolid && x.ppm.alloc) = false := Bool.eq_false_iff.2 fun h => hno (hkept.1 h)
    have hfail : x.onlyModel.ppm.alloc = false :=
      ppmCreate_of_short _ _ _ (by rw [hmem]; show s.par.ppmMem.toNat / 12 < 129; omega)
    refine ⟨_, hstart.trans (runOp_of_fatal (ppmOnlyBegin_short hnone hfail)), rfl, rfl, rfl, rfl, ?_, hfail⟩
    exact congrArg Status.cmdErr hst

/-! ### A PPM sub-header (R361, R101, R257) -/

theorem ppmBlockBegin_of_model {d : Cursor} {rc : RangeCoder} (h : s.ppm.alloc = true)
    (hcoder : onPpm rcInit s = .ok () ((s.setCur d).setRc rc)) :
    ppmBlockBegin s = .ok () (((s.setCur d).setRc rc).setFsm .ppm) := by
  refine (bind_of_ok rfl).trans ?_
  rw [if_pos h]
  exact (bind_of_ok hcoder).trans rfl

theorem ppmBlockBegin_of_flush (h : s.ppm.alloc = false)
    (hflush : doFlush false ((s.setPpm { s.ppm with disabled := true }).note .ppmFallback) = .ok () u) :
    ppmBlockBegin s = .ok () (u.setFsm .hdr) := by
  refine (bind_of_ok rfl).trans ?_
  rw [if_neg (by rw [h]; decide)]
  exact (bind_of_ok rfl).trans ((bind_of_ok hflush).trans rfl)

/-- The escape byte of a sub-header, where it holds one. -/
def State.withEsc (s : State) (esc : Option Byte) : State := s.setPpm { s.ppm with esc := esc.getD s.ppm.esc }

/-- A sub-header's `NEWESC` bit tells whether it holds an escape byte. -/
theorem State.withEsc_eq (s : State) {b : Bool} {esc : Option Byte} (h : esc.isSome = b) :
    (if b then s.setPpm { s.ppm with esc := esc.getD s.ppm.esc } else s) = s.withEsc esc := by
  cases esc with
  | none => subst h; rfl
  | some e => subst h; rfl

/-- The machine after the `RESET` part of a sub-header. -/
def State.subModel (s : State) (p : Byte) (mem : Option Byte) : State :=
  if p.getLsbD 7 then s.resetModel p (mem.getD 0) else s

theorem exec_ppmHdr {p : Byte} {mem esc : Option Byte} (hesc : esc.isSome = p.getLsbD 6)
    (h : p.getLsbD 7 = true → (s.subModel p mem).ppm.alloc = true) :
    exec (.ppmHdr p mem esc) s = runOp ppmBlockBegin ((s.subModel p mem).withEsc esc) := by
  rw [← State.withEsc_eq _ hesc]
  refine if_neg ?_
  rw [Bool.and_eq_true, Bool.not_eq_true', not_and, Bool.not_eq_false]
  exact h

theorem ppmUnits_eq (mem : Byte) : ppmUnits mem = (mem.toNat + 1) * 1048576 / 12 := by
  simp only [ppmUnits, Config.unitSize, Nat.reducePow]

/-- Every arena a sub-header can ask for holds the root (R262). -/
theorem le_ppmUnits (mem : Byte) : 129 ≤ ppmUnits mem := by
  rw [ppmUnits_eq]
  omega

theorem resetBit_iff (p : Byte) : p.getLsbD 7 = true ↔ 128 ≤ p.toNat := by
  rw [← BitVec.msb_eq_getLsbD_last, BitVec.msb_eq_decide, decide_eq_true_eq]

/-- `ORDER1` is in the low five bits of the sub-header (R101). -/
theorem extractLsb_order (p : Byte) : (p.extractLsb' 0 5).toNat = p.toNat % 32 := by
  rw [BitVec.extractLsb'_toNat]
  rfl

/-- A sub-header with `RESET`, or a model, leaves a model. -/
theorem State.subModel_hasModel (s : State) {p : Byte} {mem : Option Byte} (h : 128 ≤ p.toNat ∨ s.ppm.alloc = true) :
    ∃ m a, s.HasModel (¬ 128 ≤ p.toNat) (clampOrder ((p.extractLsb' 0 5).toNat + 1)) (ppmUnits (mem.getD 0)) m a ∧
      s.subModel p mem = { s with ppm := m, sa := a } := by
  by_cases hreset : 128 ≤ p.toNat
  · exact ⟨_, _, s.createModel_hasModel _ (not_not.2 hreset) (le_ppmUnits _),
      (if_pos ((resetBit_iff p).2 hreset)).trans (s.createModel_frame _ _)⟩
  · exact ⟨_, _, s.hasModel_kept hreset (h.resolve_left hreset), if_neg fun hbit => hreset ((resetBit_iff p).1 hbit)⟩

/-- Settles O47: the model the sub-header leaves is its own or kept, and the range coder is read after it. -/
theorem ppmSubHeaderOpensTheBlock : Obligations.PpmSubHeaderOpensTheBlock := by
  intro s p mem esc hwf
  have hesc : esc.isSome = p.getLsbD 6 := by
    have hboth : (mem.isSome == p.getLsbD 7 && esc.isSome == p.getLsbD 6) = true := hwf
    exact eq_of_beq (Bool.and_eq_true_iff.1 hboth).2
  refine ⟨fun hready hmodel => ?_, fun hout hreset halloc => ?_⟩
  · obtain ⟨m, a, hm, hsub⟩ := s.subModel_hasModel (mem := mem) hmodel
    obtain ⟨d, hbit, hcoder⟩ := onPpm_rcInit (s := State.withEsc { s with ppm := m, sa := a } esc) hready
    have hexec := exec_ppmHdr hesc fun _ => (congrArg (·.ppm.alloc) hsub).trans hm.alloc
    rw [hsub] at hexec
    refine ⟨_, hexec.trans (runOp_of_ok (ppmBlockBegin_of_model hm.alloc hcoder)), rfl, hm.alloc, ?_, rfl, hbit,
      fun hreset => ?_, fun hreset => ?_, rfl⟩
    · exact congrArg esc.getD hm.esc
    · obtain ⟨hfresh, harena⟩ := hm.new (not_not.2 hreset)
      rw [extractLsb_order] at hfresh
      rw [ppmUnits_eq] at harena
      exact ⟨{ hfresh with }, hm.disabled, harena⟩
    · obtain ⟨rfl, rfl⟩ := hm.old hreset
      exact ⟨rfl, rfl⟩
  · have hp : p.getLsbD 7 = false := Bool.eq_false_iff.2 fun h => hreset ((resetBit_iff p).1 h)
    have hsub : s.subModel p mem = s := if_neg (Bool.eq_false_iff.1 hp)
    obtain ⟨u, hu⟩ := doFlush_succeeds
      (s := ((s.withEsc esc).setPpm { (s.withEsc esc).ppm with disabled := true }).note .ppmFallback) hout false
    have hexec := exec_ppmHdr (s := s) (mem := mem) hesc fun h => absurd h (Bool.eq_false_iff.1 hp)
    rw [hsub] at hexec
    exact ⟨u, hu, hexec.trans (runOp_of_ok (ppmBlockBegin_of_flush halloc hu))⟩

end

end Sys2Proof.Machine
end

section
/-! PROOFS. A fetch that is abandoned (spec/60_exceptions.md R400), a write of one byte (spec/48_session.md R364, R366), and a `RESET`
that comes while the CORE is blocked in a port call (spec/70_reset_and_hazards.md R430 to R432). -/

namespace Sys2Proof.Machine

section
variable {s u : State} {c : Cursor} {e : Abort} {h : Halt}

/-! ### A step whose fetch is abandoned -/

@[simp] theorem State.tick_out (s : State) : s.tick.out = s.out := (congrArg State.out s.tick_eq :)

theorem reading_error {α : Type} {x : M α} (hx : x s = .error h u) : reading x s = .error (.halt h) u := by
  simp only [reading, hx]

theorem step_of_fetchCore_error {t : State} (hq : s.quiet = true) (hfetch : fetchCore s.tick s.tick = .error e t)
    (hend : abandon e t = .done u) : step s = .next u :=
  step_of_done (by rw [fetchNext_quiet hq, coreFetch, hfetch]; exact hend)

theorem step_of_fetchCore_halt {t : State} (hq : s.quiet = true) (hfetch : fetchCore s.tick s.tick = .error (.halt h) t) :
    step s = .next (t.halted h) := step_of_fetchCore_error hq hfetch rfl

theorem exhausted_of_refill_error {d : Cursor} (hfill : refill c = .error h d) : exhausted c = .error h d := by
  rw [exhausted_eq, hfill]

theorem overrun_of_refill_error {d : Cursor} (hfill : refill c = .error h d) : overrun c = .error h d := by
  rw [overrun_eq, hfill]

theorem blockBoundary_unread (htarget : s.targetReached = false) (hfill : refill s.cur = .error h c) :
    blockBoundary s = .error (.halt h) (s.setCur c) := by
  have hlook : reading (onCur exhausted) s = .error (.halt h) (s.setCur c) :=
    reading_error (onCur_error (exhausted_of_refill_error hfill))
  unfold blockBoundary
  rw [get_bind, if_neg (by simp [htarget])]
  exact bind_error hlook

theorem ppmBoundary_unread (htarget : s.targetReached = false) (hfill : refill s.cur = .error h c) :
    ppmBoundary s = .error (.halt h) (s.setCur c) := by
  have hlook : reading (onCur overrun) s = .error (.halt h) (s.setCur c) :=
    reading_error (onCur_error (overrun_of_refill_error hfill))
  unfold ppmBoundary
  rw [get_bind, if_neg (by simp [htarget])]
  exact bind_error hlook

theorem fetchPpmOnly_unread (htarget : s.st.written < s.ses.targetL) (hfill : refill s.cur = .error h c) :
    fetchPpmOnly s = .error (.halt h) (s.setCur c) := by
  have hlook : reading (onCur overrun) s = .error (.halt h) (s.setCur c) :=
    reading_error (onCur_error (overrun_of_refill_error hfill))
  unfold fetchPpmOnly
  rw [get_bind, if_neg (Nat.not_le.2 htarget)]
  exact bind_error hlook

/-- A token is looked for: in a block, before the target; or in a PPM_ONLY stream, before the target. -/
def State.SeeksToken (s : State) : Prop :=
  s.ses.fsm ∈ [Fsm.lz, .aud, .ppm] ∧ s.targetReached = false ∨ s.ses.fsm = .ppmonly ∧ s.st.written < s.ses.targetL

theorem State.SeeksToken.tick (hseek : s.SeeksToken) : s.tick.SeeksToken := by
  rwa [State.SeeksToken, s.tick_ses, s.tick_st, s.tick_targetReached]

theorem fetchCore_unread (hseek : s.SeeksToken) (hc : s.par.cancel = false) (hfill : refill s.cur = .error h c) :
    fetchCore s s = .error (.halt h) (s.setCur c) := by
  obtain ⟨hf, htarget⟩ | ⟨hf, htarget⟩ := hseek
  · simp only [List.mem_cons, List.not_mem_nil, or_false] at hf
    obtain hf | hf | hf := hf
    · rw [fetchCore_lz hf hc, fetchLz_eq]
      exact bind_error (blockBoundary_unread htarget hfill)
    · rw [fetchCore_aud hf hc, fetchAud_eq]
      exact bind_error (blockBoundary_unread htarget hfill)
    · rw [fetchCore_ppm hf hc, fetchPpm_eq]
      exact bind_error (ppmBoundary_unread htarget hfill)
  · rw [fetchCore_ppmonly hf hc]
    exact fetchPpmOnly_unread htarget hfill

/-- The refill at a token boundary is abandoned, and the step with it. -/
theorem step_unread (hq : s.quiet = true) (hc : s.par.cancel = false) (hseek : s.SeeksToken) (hfill : refill s.cur = .error h c) :
    step s = .next ((s.tick.setCur c).halted h) :=
  step_of_fetchCore_halt hq (fetchCore_unread hseek.tick (by rwa [s.tick_par]) (by rwa [s.tick_cur]))

/-! ### One byte to the output port (R364, R366) -/

theorem State.fitting_full (bytes : List Byte) (hfull : s.ses.targetL ≤ s.st.written) : s.fitting bytes = [] := by
  rw [State.fitting, Nat.sub_eq_zero_of_le hfull, List.take_zero]

theorem State.fitting_singleton (b : Byte) (hroom : s.st.written < s.ses.targetL) : s.fitting [b] = [b] :=
  List.take_of_length_le (Nat.sub_pos_of_lt hroom)

theorem emit_of_nil {bytes : List Byte} (hnone : s.fitting bytes = []) : emit bytes s = .ok () s := by
  rw [emit, hnone]
  rfl

theorem emit_of_accepting {bytes : List Byte} (ha : s.out.answers.head? ∈ [none, some .ok]) (hne : s.fitting bytes ≠ []) :
    emit bytes s = .ok () (s.accepted (s.fitting bytes)) := by
  simp only [List.mem_cons, List.not_mem_nil, or_false] at ha
  rw [emit, if_neg (mt List.isEmpty_iff.1 hne)]
  obtain ha | ha := ha <;> rw [ha]

/-- A `RESET` during the write: the port has taken the bytes or not. -/
theorem emit_resets {b : Bool} {rest : List PortWrite} {bytes : List Byte} (ha : s.out.answers = .reset b :: rest)
    (hne : s.fitting bytes ≠ []) :
    emit bytes s = .error .reset (s.setOut ⟨s.out.bytes ++ if b then s.fitting bytes else [], rest⟩) := by
  rw [emit, if_neg (mt List.isEmpty_iff.1 hne), ha, List.head?_cons]
  simp [OutPort.broken, ha]

theorem onPpm_ses {r : PpmResult} {v : State} (hx : onPpm ppmDecode s = .ok r v) : v.ses = s.ses :=
  ((onPpm_keepsEffects ppmDecode s).ok trivial hx).1.ses

/-- A result of `ppm_decode` that is no byte abandons the token (R362, R364). -/
theorem decodePpmByte_abandoned {r : PpmResult} {v : State} (hdec : onPpm ppmDecode s = .ok r v) :
    (r = .endSegment → decodePpmByte s = .error .endSegment v) ∧ (r = .corrupt → decodePpmByte s = .error .corrupt v) ∧
    (r = .nomem → decodePpmByte s = .error .nomem v) := by
  refine ⟨?_, ?_, ?_⟩ <;> rintro rfl <;> exact (bind_of_ok (reading_of_ok hdec)).trans rfl

theorem fetchPpmOnly_field (htarget : s.st.written < s.ses.targetL) (hfill : refill s.cur = .ok () c) (hend : c.pastEnd = false)
    (hfield : decodePpmByte (s.setCur c) = .error e u) : fetchPpmOnly s = .error e u := by
  have hlook : reading (onCur overrun) s = .ok false (s.setCur c) :=
    reading_of_ok (onCur_of_ok (hend ▸ overrun_of_refill hfill))
  have hparse : fetchParse noEffectYet Slot.ppmOnly.grammar [] (s.setCur c) = .error e u := by
    show fetchParse noEffectYet parsePpmOnly [] (s.setCur c) = _
    simp only [parsePpmOnly, fetchParse, readField, hfield, noEffectYet]
  unfold fetchPpmOnly
  rw [get_bind, if_neg (Nat.not_le.2 htarget), bind_of_ok hlook, if_neg Bool.false_ne_true]
  simp only [Functor.map, EStateM.map, hparse]

section
variable {v : State} (hq : s.quiet = true) (hc : s.par.cancel = false) (hf : s.ses.fsm = .ppmonly) (htarget : s.st.written < s.ses.targetL)
  (hfill : refill s.cur = .ok () c) (hend : c.pastEnd = false)
include hq hc hf htarget hfill hend

/-- A decoded byte is an instruction (R364). -/
theorem step_ppmOnly_byte {b : Byte} (hdec : onPpm ppmDecode (s.tick.setCur c) = .ok (.byte b) v) :
    step s = exec (.ppmonlyByte b) v := by
  have hbyte : decodePpmByte (s.tick.setCur c) = .ok b.toNat v := (bind_of_ok (reading_of_ok hdec)).trans rfl
  refine step_ppmOnly hq hc hf htarget hfill hend ?_
  show fetchParse noEffectYet parsePpmOnly [] _ = _
  simp only [parsePpmOnly, fetchParse, readField, hbyte, toByte_toNat]
  rfl

/-- A result that is no byte ends the session (R364, R277). -/
theorem step_ppmOnly_ends (habort : decodePpmByte (s.tick.setCur c) = .error e v) (hu : abandon e v = .done u) :
    step s = .next u := by
  refine step_of_fetchCore_error hq ?_ hu
  rw [fetchCore_ppmonly (by rwa [s.tick_ses]) (by rwa [s.tick_par])]
  exact fetchPpmOnly_field (by rwa [s.tick_st, s.tick_ses]) (by rwa [s.tick_cur]) hend habort

end

/-- Settles O43: the outcomes of `emit`, and the four results of `ppm_decode`. -/
theorem ppmOnlyByteIsWritten : Obligations.PpmOnlyByteIsWritten := by
  refine ⟨fun s b => ⟨fun hfull => ?_, fun hroom ha => ?_, fun rest hroom ha => ?_⟩,
    fun s v c r hq hc hf htarget hfill hend hdec => ?_⟩
  · exact runOp_of_ok (emit_of_nil (s.fitting_full [b] hfull))
  · have hfit := s.fitting_singleton b hroom
    have hemit := emit_of_accepting (bytes := [b]) ha (by rw [hfit]; exact List.cons_ne_nil _ _)
    rw [hfit] at hemit
    exact runOp_of_ok hemit
  · have hfit := s.fitting_singleton b hroom
    exact runOp_of_fatal (emit_fails ha (bytes := [b]) (by rw [hfit]; exact List.cons_ne_nil _ _))
  · have hses : v.ses = s.ses := (onPpm_ses hdec).trans s.tick_ses
    have honly : v.ses.fsm = .ppmonly := by rw [hses, hf]
    obtain ⟨hsegment, hcorrupt, hnomem⟩ := decodePpmByte_abandoned hdec
    refine ⟨?_, ?_, ?_, ?_⟩
    · rintro b rfl
      exact step_ppmOnly_byte hq hc hf htarget hfill hend hdec
    · rintro rfl
      exact step_ppmOnly_ends hq hc hf htarget hfill hend (hsegment rfl) (congrArg Fetched.done (if_pos honly))
    · rintro rfl
      exact step_ppmOnly_ends hq hc hf htarget hfill hend (hcorrupt rfl) (congrArg Fetched.done (if_pos honly))
    · rintro rfl
      exact step_ppmOnly_ends hq hc hf htarget hfill hend (hnomem rfl) rfl

/-! ### The state a `RESET` gives (R432) -/

/-- A reset state is reached, and the environment is that of `u` (log entries 2, 3, 4, 24, 29). -/
theorem State.hardReset_around (u : State) : u.hardReset.AtReset ∧ u.hardReset.cur.port = u.cur.port ∧
    u.hardReset.cur.skip = 0 ∧ u.hardReset.out = u.out ∧ u.hardReset.host = u.host ∧ u.hardReset.readData = u.readData ∧
    u.hardReset.catalogue = u.catalogue := by
  refine ⟨?_, rfl, rfl, rfl, rfl, rfl, rfl⟩
  exact {
    fsm := rfl
    cursor := ⟨rfl, rfl, rfl, rfl, rfl⟩
    header := ⟨rfl, rfl, rfl, rfl⟩
    latched := ⟨rfl, rfl, rfl⟩
    window := ⟨rfl, rfl, rfl, rfl, rfl⟩
    windowBytes := fun _ => rfl
    tables := fun _ hid => Tables.byId_reset hid
    tablesValid := ⟨rfl, rfl⟩
    lastMatch := ⟨fun k hk => by interval_cases k <;> rfl, rfl, rfl⟩
    statistics := ⟨rfl, rfl, rfl⟩
    audio := ⟨rfl, rfl, rfl⟩
    params := rfl
    status := rfl
    ppm := ⟨rfl, rfl, rfl⟩
    coder := rfl
    arena := ⟨rfl, rfl, SubAlloc.bare_freeBlocks 0 0⟩
    vm := ⟨rfl, rfl, rfl⟩ }

/-- The reset state itself. -/
theorem State.reset_atReset : State.reset.AtReset := { State.reset.hardReset_around.1 with }

/-! ### A `RESET` in a port call of a command -/

/-- A refill that asks the port and is answered by a `RESET`. -/
theorem refill_resets {rest : List PortRead} (heos : c.eos = false) (hroom : c.top - c.rd < 30) (hport : c.port = .reset :: rest) :
    ∃ d, refill c = .error .reset d ∧ d.port = rest := by
  have hfull : c.full = false := decide_eq_false (Nat.not_le.2 hroom)
  refine ⟨{ c.compact with port := rest }, ?_, rfl⟩
  rw [refill, heos, hfull, hport]
  rfl

theorem portCommand_resets {b : Bool} {x : M (Option Word)} (hi : s.isIdle = true) (hb : b = true)
    (hx : x s.accept = .error .reset u) : portCommand b x s = .next u.hardReset := by
  simp [portCommand, hi, hb, hx]

/-- The commands that begin with a refill. -/
theorem exec_refill_resets (hi : s.isIdle = true) (hfill : refill s.cur = .error .reset c) :
    ∀ i ∈ [Instr.bcPeek 32, .bcRefill, .bcExhausted], exec i s = .next (s.accept.setCur c).hardReset := by
  have hrefill : refill s.accept.cur = .error .reset c := hfill
  have hpeek : peek (32 : Word).toNat s.accept.cur = .error .reset c := by rw [peek_eq, hrefill]
  refine List.forall_mem_cons.2 ⟨?_, forall_mem_pair ?_ ?_⟩
  · exact portCommand_resets hi rfl (bind_error (onCur_error hpeek))
  · exact portCommand_resets hi rfl (bind_error (onCur_error hrefill))
  · exact portCommand_resets hi rfl (bind_error (onCur_error (overrun_of_refill_error hrefill)))

/-! ### A `RESET` in a write -/

theorem runOp_resets {x : M Unit} (hx : x s = .error .reset u) : runOp x s = .next u.hardReset := by
  rw [runOp, hx]
  rfl

section
variable {b : Bool} {rest : List PortWrite} (ha : s.out.answers = .reset b :: rest) (hroom : s.st.written < s.ses.targetL)
include ha hroom

theorem exec_ppmonlyByte_resets (x : Byte) :
    exec (.ppmonlyByte x) s = .next (s.setOut ⟨s.out.bytes ++ if b then [x] else [], rest⟩).hardReset := by
  have hfit := s.fitting_singleton x hroom
  have hemit := emit_resets (bytes := [x]) ha (by rw [hfit]; exact List.cons_ne_nil _ _)
  rw [hfit] at hemit
  exact runOp_resets hemit

variable (hq : s.vm.fq = []) (hpending : s.win.tf < s.win.tw)
include hq hpending

/-- A flush with bytes to write and room for them. -/
theorem doFlush_resets (final : Bool) : doFlush final s = .error .reset
    (s.setOut ⟨s.out.bytes ++ if b then s.fitting (s.win.range s.win.tf (s.win.tw - s.win.tf)) else [], rest⟩) := by
  have hne : s.fitting (s.win.range s.win.tf (s.win.tw - s.win.tf)) ≠ [] := by
    rw [← List.length_pos_iff, State.fitting, List.length_take, Window.length_range]
    omega
  rw [doFlush_no_filter hq]
  exact emitUpTo_of_error (emit_resets ha hne)

theorem runOp_flush_resets (final : Bool) (x : M Unit) : runOp (do doFlush final; x) s = .next
    (s.setOut ⟨s.out.bytes ++ if b then s.fitting (s.win.range s.win.tf (s.win.tw - s.win.tf)) else [], rest⟩).hardReset :=
  runOp_resets (bind_error (doFlush_resets ha hroom hq hpending final))

end

theorem exec_winFlush_resets (hi : s.isIdle = true) (hw : s.win.w ≠ 0) (hx : flush s.accept = .error .reset u) :
    exec .winFlush s = .next u.hardReset := by
  show execWinFlush s = _
  rw [execWinFlush, if_pos (Bool.and_eq_true_iff.2 ⟨hi, bne_iff_ne.2 hw⟩), hx]

/-- Settles O2: each port call, abandoned by the `RESET`, gives a reset state around the environment it left. -/
theorem resetGivesPowerOnValues : Obligations.ResetGivesPowerOnValues := by
  refine ⟨State.reset_atReset, fun s => ⟨_, rfl, s.hardReset_around⟩, fun s rest hi heos hroom hport i hmem => ?_,
    fun s c hq hc hfill hseek => ?_, fun s b rest ha hroom => ⟨fun x => ?_, fun hq hpending => ⟨?_, fun hi hw => ?_⟩⟩⟩
  · obtain ⟨d, hfill, rfl⟩ := refill_resets heos hroom hport
    exact ⟨_, exec_refill_resets hi hfill i hmem, (s.accept.setCur d).hardReset_around⟩
  · obtain ⟨hreset, hport, hskip, hout, henv⟩ := (s.tick.setCur c).hardReset_around
    exact ⟨_, step_unread hq hc hseek hfill, hreset, hport, hskip, hout.trans s.tick_out, henv⟩
  · exact ⟨_, exec_ppmonlyByte_resets ha hroom x, State.hardReset_around _⟩
  · have hflush := runOp_flush_resets ha hroom hq hpending
    have hdrop := runOp_flush_resets (s := s.dropTables) ha hroom hq hpending
    simp only [List.forall_mem_cons]
    refine ⟨⟨_, hflush false _, State.hardReset_around _⟩, ⟨_, hflush false _, State.hardReset_around _⟩,
      ⟨_, hflush false _, State.hardReset_around _⟩, ⟨_, hflush false _, State.hardReset_around _⟩,
      ⟨_, hflush true _, State.hardReset_around _⟩, ⟨_, hflush true _, State.hardReset_around _⟩,
      ⟨_, hdrop true _, State.hardReset_around _⟩, ⟨_, hdrop true _, State.hardReset_around _⟩,
      ⟨_, hflush true _, State.hardReset_around _⟩, List.forall_mem_nil _⟩
  · exact ⟨_, exec_winFlush_resets hi hw (doFlush_resets (s := s.accept) ha hroom hq hpending false), State.hardReset_around _⟩

end

end Sys2Proof.Machine
end

section
/-! PROOFS. The boundary checks in their order (spec/48_session.md R356, R359, R364, spec/60_exceptions.md R395, R401), and an input port
that fails at a boundary or while an instruction is read (R397, R400). -/

namespace Sys2Proof.Machine

/-! ### Reading is abandoned by the port only -/

/-- A port call is abandoned for a failed read (R397) or a `RESET` (R430). -/
def Halt.OfPort (h : Halt) : Prop := h = .fatal ⟨.truncated, .readFail⟩ ∨ h = .reset

/-- A token is not abandoned for a fatal condition but that the port failed. -/
def Abort.OfPort : Abort → Prop
  | .halt h => h.OfPort
  | _ => True

theorem refill_ofPort (c : Cursor) : (abandonContract Halt.OfPort).Holds refill c where
  ok _ _ := ⟨trivial, trivial⟩
  error _ h := by
    obtain hread | ⟨hreset, -⟩ := refill_error _ _ _ h
    · exact ⟨trivial, .inl hread⟩
    · exact ⟨trivial, .inr hreset⟩

theorem peek_ofPort (n : Nat) (c : Cursor) : (abandonContract Halt.OfPort).Holds (peek n) c :=
  .bind (refill_ofPort c) fun _ _ _ => .get (.pure trivial)

theorem getbits_ofPort (n : Nat) (c : Cursor) : (abandonContract Halt.OfPort).Holds (getbits n) c :=
  .bind (peek_ofPort n c) fun _ _ _ => .bind (.update trivial) fun _ _ _ => .pure trivial

theorem HuffTable.decode_ofPort (t : HuffTable) (n : Nat) (c : Cursor) : (abandonContract Halt.OfPort).Holds (t.decode n) c := by
  unfold HuffTable.decode
  cases t.fake with
  | some p => exact .bind (.update trivial) fun _ _ _ => .pure trivial
  | none => exact .bind (peek_ofPort 16 c) fun _ _ _ => .bind (.update trivial) fun _ _ _ => .pure trivial

theorem onCur_ofPort {α : Type} {x : CurM α} {s : State} (h : (abandonContract Halt.OfPort).Holds x s.cur) :
    (abandonContract Halt.OfPort).Holds (onCur x) s :=
  .lift s.setCur id h id (fun _ => id) (fun _ => id) (fun _ _ hx => by simp only [onCur, hx])
    fun _ _ hx => by simp only [onCur, hx, id]

theorem rcShiftIn_ofPort (w : PpmWorld) : (abandonContract Halt.OfPort).Holds rcShiftIn w := by
  have hbyte : (abandonContract Halt.OfPort).Holds (PpmM.ofCur getbyte) w :=
    .lift (fun c => { w with cur := c }) id (getbits_ofPort 8 w.cur) id (fun _ => id) (fun _ => id)
      (fun _ _ hx => by simp only [PpmM.ofCur, getbyte, hx]) fun _ _ hx => by simp only [PpmM.ofCur, getbyte, hx, id]
  exact .bind hbyte fun _ _ _ => .update trivial

theorem ppmDecode_ofPort (w : PpmWorld) : (abandonContract Halt.OfPort).Holds ppmDecode w := by
  have hcoding : (abandonContract (σ := PpmWorld) Halt.OfPort).Coding :=
    ⟨fun _ _ => trivial, fun _ _ _ => trivial, rcShiftIn_ofPort⟩
  refine .get (.bind (hcoding.ppmWalk _ _ _ _ w) fun r v _ => ?_)
  cases r with
  | stop r => exact .pure trivial
  | found c b escaped =>
    refine .get ?_
    split
    · exact .bind (.set trivial) fun _ _ _ => .pure trivial
    · exact .pure trivial
    · generalize ppmRestart v.ppm v.sa = restart
      obtain ⟨ok, m, a⟩ := restart
      refine .bind (.set trivial) fun _ _ _ => ?_
      cases ok <;> exact .pure trivial

theorem onPpm_ofPort {α : Type} {x : PpmM α} {s : State} (h : (abandonContract Halt.OfPort).Holds x s.world) :
    (abandonContract Halt.OfPort).Holds (onPpm x) s :=
  .lift (fun w => (s.setWorld w).noteIf w.restarted .ppmRestart) id h id (fun _ => id) (fun _ => id)
    (fun _ _ hx => by simp only [onPpm, hx]) fun _ _ hx => by simp only [onPpm, hx, id]

theorem reading_ofPort {α : Type} {x : M α} {s : State} (h : (abandonContract Halt.OfPort).Holds x s) :
    (abandonContract Abort.OfPort).Holds (reading x) s :=
  .lift id .halt h id (fun _ => id) (fun _ => id) (fun _ _ hx => by simp only [reading, hx, id])
    fun _ _ hx => by simp only [reading, hx, id]

theorem decodeTable_ofPort (t : HuffTable) (n : Nat) (s : State) : (abandonContract Halt.OfPort).Holds (decodeTable t n) s :=
  .bind (onCur_ofPort (t.decode_ofPort n s.cur)) fun _ _ _ => .bind (.update trivial) fun _ _ _ => .pure trivial

theorem decodePpmByte_ofPort (s : State) : (abandonContract Abort.OfPort).Holds decodePpmByte s := by
  refine .bind (reading_ofPort (onPpm_ofPort (ppmDecode_ofPort s.world))) fun r _ _ => ?_
  cases r with
  | byte b => exact .pure trivial
  | endSegment | corrupt | nomem => exact .throw trivial

theorem readField_ofPort (f : Field) (s : State) : (abandonContract Abort.OfPort).Holds (readField f) s := by
  cases f with
  | raw n => exact reading_ofPort (onCur_ofPort (getbits_ofPort n s.cur))
  | ld | dd | rd =>
    refine reading_ofPort (.get ?_)
    split
    · exact .bind (decodeTable_ofPort _ _ s) fun _ _ _ => .bind (.update trivial) fun _ _ _ => .pure trivial
    · exact decodeTable_ofPort _ _ s
  | md => exact reading_ofPort (.get (decodeTable_ofPort _ _ s))
  | ppm => exact decodePpmByte_ofPort s

section
variable {α : Type} {p : Parse α} {vals : List Nat} {s t : State} {e : Abort}

theorem fetchParse_ofPort (h : fetchParse noEffectYet p vals s = .error e t) : e.OfPort := by
  induction p generalizing vals s with
  | ret a => cases h
  | fail r => cases h; trivial
  | field f k ih =>
    simp only [fetchParse] at h
    split at h
    · exact ih _ h
    next hread => cases h; exact ((readField_ofPort f s).error trivial hread).2

/-- A grammar is abandoned at the same field whatever that has done by then. -/
theorem fetchParse_halt_of_fix {h : Halt} (fix : List Nat → State → State)
    (hrun : fetchParse noEffectYet p vals s = .error (.halt h) t) :
    ∃ read, fetchParse fix p vals s = .error (.halt h) (fix read t) := by
  induction p generalizing vals s with
  | ret a => cases hrun
  | fail r => cases hrun
  | field f k ih =>
    simp only [fetchParse] at hrun ⊢
    split at hrun
    · exact ih _ hrun
    · cases hrun; exact ⟨vals, rfl⟩

end

/-! ### The target (R356, R359, R364) -/

section
variable {s t u v : State} {c : Cursor} {h : Halt}

theorem reading_endFile (hflush : doFlush true s = .ok () u) : reading endFile s = .ok () u.succeed :=
  reading_of_ok (endFile_of_flush hflush)

theorem fetchHdr_target (htarget : s.targetReached = true) (hflush : doFlush true s = .ok () u) :
    fetchHdr s = .ok none u.succeed := by
  unfold fetchHdr
  rw [get_bind, if_pos htarget, bind_of_ok (reading_endFile hflush)]
  rfl

theorem blockBoundary_target (htarget : s.targetReached = true) (hflush : doFlush true s = .ok () u) :
    blockBoundary s = .ok false u.succeed := by
  unfold blockBoundary
  rw [get_bind, if_pos htarget, bind_of_ok (reading_endFile hflush)]
  rfl

theorem ppmBoundary_target (htarget : s.targetReached = true) (hflush : doFlush true s = .ok () u) :
    ppmBoundary s = .ok false u.succeed := by
  unfold ppmBoundary
  rw [get_bind, if_pos htarget, bind_of_ok (reading_endFile hflush)]
  rfl

/-- A boundary that ends the iteration leaves no token to fetch. -/
theorem fetchToken_stopped {boundary : FetchM Bool} (fix : State → List Nat → State → State) (g : State → Parse Instr)
    (hcheck : boundary s = .ok false u) : fetchToken boundary fix g s = .ok none u := by
  unfold fetchToken
  rw [bind_of_ok hcheck]
  rfl

theorem fetchCore_target (hc : s.par.cancel = false) (hf : s.ses.fsm ∈ [Fsm.hdr, .lz, .aud, .ppm]) (htarget : s.targetReached = true)
    (hflush : doFlush true s = .ok () u) : fetchCore s s = .ok none u.succeed := by
  simp only [List.mem_cons, List.not_mem_nil, or_false] at hf
  obtain hf | hf | hf | hf := hf
  · rw [fetchCore_hdr hf hc]
    exact fetchHdr_target htarget hflush
  · rw [fetchCore_lz hf hc, fetchLz_eq]
    exact fetchToken_stopped _ _ (blockBoundary_target htarget hflush)
  · rw [fetchCore_aud hf hc, fetchAud_eq]
    exact fetchToken_stopped _ _ (blockBoundary_target htarget hflush)
  · rw [fetchCore_ppm hf hc, fetchPpm_eq]
    exact fetchToken_stopped _ _ (ppmBoundary_target htarget hflush)

/-- At the target of a PPM_ONLY session nothing is flushed and the port not read (R364). -/
theorem fetchCore_ppmOnly_target (hc : s.par.cancel = false) (hf : s.ses.fsm = .ppmonly) (htarget : s.ses.targetL ≤ s.st.written) :
    fetchCore s s = .ok none s.succeed := by
  rw [fetchCore_ppmonly hf hc, fetchPpmOnly, get_bind, if_pos htarget]
  rfl

/-! ### The end of the stream, then the end of the block (R359, R395) -/

theorem fetchHdr_ended (htarget : s.targetReached = false) (hfill : refill s.cur.align = .ok () c) (hend : c.atEnd = true) :
    fetchHdr s = .error (.halt (.fatal ⟨.truncated, .none⟩)) (s.setCur c) := by
  have hlook : reading (onCur exhausted) (s.setCur s.cur.align) = .ok true (s.setCur c) :=
    reading_of_ok (onCur_of_ok (hend ▸ exhausted_of_refill hfill))
  have halign : reading (onCur (modify (·.align))) s = .ok () (s.setCur s.cur.align) := rfl
  unfold fetchHdr
  rw [get_bind, if_neg (by simp [htarget]), bind_of_ok halign, bind_of_ok hlook]
  rfl

theorem fetchHdr_unread (htarget : s.targetReached = false) (hfill : refill s.cur.align = .error h c) :
    fetchHdr s = .error (.halt h) (s.setCur c) := by
  have hlook : reading (onCur exhausted) (s.setCur s.cur.align) = .error (.halt h) (s.setCur c) :=
    reading_error (onCur_error (exhausted_of_refill_error hfill))
  have halign : reading (onCur (modify (·.align))) s = .ok () (s.setCur s.cur.align) := rfl
  unfold fetchHdr
  rw [get_bind, if_neg (by simp [htarget]), bind_of_ok halign]
  exact bind_error hlook

theorem blockBoundary_ended (htarget : s.targetReached = false) (hfill : refill s.cur = .ok () c) (hend : c.atEnd = true) :
    blockBoundary s = .error (.halt (.fatal ⟨.truncated, .none⟩)) (s.setCur c) := by
  have hlook : reading (onCur exhausted) s = .ok true (s.setCur c) :=
    reading_of_ok (onCur_of_ok (hend ▸ exhausted_of_refill hfill))
  unfold blockBoundary
  rw [get_bind, if_neg (by simp [htarget]), bind_of_ok hlook]
  rfl

theorem ppmBoundary_ended (htarget : s.targetReached = false) (hfill : refill s.cur = .ok () c) (hend : c.pastEnd = true) :
    ppmBoundary s = .error (.halt (.fatal ⟨.truncated, .none⟩)) (s.setCur c) := by
  have hlook : reading (onCur overrun) s = .ok true (s.setCur c) :=
    reading_of_ok (onCur_of_ok (hend ▸ overrun_of_refill hfill))
  unfold ppmBoundary
  rw [get_bind, if_neg (by simp [htarget]), bind_of_ok hlook]
  rfl

theorem fetchPpmOnly_ended (htarget : s.st.written < s.ses.targetL) (hfill : refill s.cur = .ok () c) (hend : c.pastEnd = true) :
    fetchPpmOnly s = .error (.halt (.fatal ⟨.truncated, .none⟩)) (s.setCur c) := by
  have hlook : reading (onCur overrun) s = .ok true (s.setCur c) :=
    reading_of_ok (onCur_of_ok (hend ▸ overrun_of_refill hfill))
  unfold fetchPpmOnly
  rw [get_bind, if_neg (Nat.not_le.2 htarget), bind_of_ok hlook]
  rfl

/-- At or past the end of the block (R359). -/
theorem blockBoundary_blockEnd (htarget : s.targetReached = false) (hfill : refill s.cur = .ok () c) (hend : c.atEnd = false)
    (hblock : s.ses.blockEnd ≤ c.bitpos) (hflush : doFlush false (s.setCur c) = .ok () u) :
    blockBoundary s = .ok false (u.setFsm .hdr) := by
  have hlook : reading (onCur exhausted) s = .ok false (s.setCur c) :=
    reading_of_ok (onCur_of_ok (hend ▸ exhausted_of_refill hfill))
  have hsegment : reading segmentEnd (s.setCur c) = .ok () (u.setFsm .hdr) := reading_of_ok (segmentEnd_of_flush hflush)
  unfold blockBoundary
  rw [get_bind, if_neg (by simp [htarget]), bind_of_ok hlook, if_neg Bool.false_ne_true, get_bind,
    if_pos (show (s.setCur c).ses.blockEnd ≤ (s.setCur c).cur.bitpos from hblock), bind_of_ok hsegment]
  rfl

/-- The end of the stream before a header, a token or a PPM_ONLY byte. -/
def State.EndsAt (s : State) (c : Cursor) : Prop :=
  s.targetReached = false ∧ (s.ses.fsm = .hdr ∧ refill s.cur.align = .ok () c ∧ c.atEnd = true ∨
    s.ses.fsm ∈ [Fsm.lz, .aud] ∧ refill s.cur = .ok () c ∧ c.atEnd = true ∨
    s.ses.fsm = .ppm ∧ refill s.cur = .ok () c ∧ c.pastEnd = true) ∨
  s.ses.fsm = .ppmonly ∧ s.st.written < s.ses.targetL ∧ refill s.cur = .ok () c ∧ c.pastEnd = true

theorem fetchCore_ended (hc : s.par.cancel = false) (hend : s.EndsAt c) :
    fetchCore s s = .error (.halt (.fatal ⟨.truncated, .none⟩)) (s.setCur c) := by
  obtain ⟨htarget, ⟨hf, hfill, hend⟩ | ⟨hf, hfill, hend⟩ | ⟨hf, hfill, hend⟩⟩ | ⟨hf, htarget, hfill, hend⟩ := hend
  · rw [fetchCore_hdr hf hc]
    exact fetchHdr_ended htarget hfill hend
  · have hcheck := blockBoundary_ended htarget hfill hend
    simp only [List.mem_cons, List.not_mem_nil, or_false] at hf
    obtain hf | hf := hf
    · rw [fetchCore_lz hf hc, fetchLz_eq]
      exact bind_error hcheck
    · rw [fetchCore_aud hf hc, fetchAud_eq]
      exact bind_error hcheck
  · rw [fetchCore_ppm hf hc, fetchPpm_eq]
    exact bind_error (ppmBoundary_ended htarget hfill hend)
  · rw [fetchCore_ppmonly hf hc]
    exact fetchPpmOnly_ended htarget hfill hend

theorem State.EndsAt.tick (hend : s.EndsAt c) : s.tick.EndsAt c := by
  rwa [State.EndsAt, s.tick_ses, s.tick_st, s.tick_cur, s.tick_targetReached]

/-- What a step abandoned at a fatal condition leaves: the session is over, nothing is written, and the window stands. -/
theorem State.raised_after (s : State) (c : Cursor) (r : Reason) (d : Detail) :
    ((s.tick.setCur c).raiseFatal r d).out = s.out ∧ ((s.tick.setCur c).raiseFatal r d).win = s.win ∧
    ((s.tick.setCur c).raiseFatal r d).st.written = s.st.written :=
  ⟨s.tick_out, s.tick_win, (congrArg (·.written) s.tick_st :)⟩

/-! ### A port that fails (R397, R400) -/

/-- A grammar that begins with raw bits, where the port fails. -/
theorem fetchParse_unread {α : Type} (n : Nat) (k : Nat → Parse α) (fix : List Nat → State → State)
    (hfill : refill s.cur = .error h c) :
    fetchParse fix (.field (.raw n) k) [] s = .error (.halt h) (fix [] (s.setCur c)) := by
  have hbits : getbits n s.cur = .error h c := by rw [getbits_eq, hfill]
  have hfield : readField (.raw n) s = .error (.halt h) (s.setCur c) := reading_error (onCur_error hbits)
  simp only [fetchParse, hfield]

theorem fetchTables_unread (hopen : s.tabs.lenPos < s.tabs.lenTot) (hfill : refill s.cur = .error h c) :
    fetchTables s = .error (.halt h) (s.setCur c) := by
  unfold fetchTables
  rw [get_bind, if_neg (Nat.ne_zero_of_lt hopen), if_pos hopen]
  exact map_of_error (fetchParse_unread 4 _ noEffectYet hfill)

theorem fetchPpmHdr_unread (hfill : refill s.cur = .error h c) : fetchPpmHdr s = .error (.halt h) (s.setCur c) :=
  map_of_error (fetchParse_unread 8 _ ppmHdrEffectYet hfill)

/-- The port fails where an instruction or a part of one is looked for. -/
def State.UnreadAt (s : State) (h : Halt) (c : Cursor) : Prop :=
  s.targetReached = false ∧ s.ses.fsm = .hdr ∧ refill s.cur.align = .error h c ∨
  (s.SeeksToken ∨ s.ses.fsm = .tables ∧ s.tabs.lenPos < s.tabs.lenTot ∨ s.ses.fsm = .ppmhdr) ∧ refill s.cur = .error h c

theorem State.UnreadAt.tick (hat : s.UnreadAt h c) : s.tick.UnreadAt h c := by
  rwa [State.UnreadAt, State.SeeksToken, s.tick_ses, s.tick_st, s.tick_cur, s.tick_tabs, s.tick_targetReached]

theorem fetchCore_unreadAt (hc : s.par.cancel = false) (hat : s.UnreadAt h c) : fetchCore s s = .error (.halt h) (s.setCur c) := by
  obtain ⟨htarget, hf, hfill⟩ | ⟨hseek | ⟨hf, hopen⟩ | hf, hfill⟩ := hat
  · rw [fetchCore_hdr hf hc]
    exact fetchHdr_unread htarget hfill
  · exact fetchCore_unread hseek hc hfill
  · rw [fetchCore_tables hf]
    exact fetchTables_unread hopen hfill
  · rw [fetchCore_ppmhdr hf]
    exact fetchPpmHdr_unread hfill

/-! ### A token that is abandoned past its boundary checks and its flush -/

theorem fetchToken_abandoned {boundary : FetchM Bool} (fix : State → List Nat → State → State) {g : State → Parse Instr}
    (hcheck : boundary s = .ok true (s.setCur c)) (hflush : maybeFlush (s.setCur c) = .ok () u)
    (hparse : fetchParse noEffectYet (g u) [] u = .error (.halt h) v) :
    ∃ read, fetchToken boundary fix g s = .error (.halt h) (fix u read v) := by
  obtain ⟨read, hfix⟩ := fetchParse_halt_of_fix (fix u) hparse
  refine ⟨read, ?_⟩
  unfold fetchToken
  rw [bind_of_ok hcheck, if_pos rfl, bind_of_ok (reading_of_ok hflush), get_bind]
  exact map_of_error hfix

/-- A token is due in a state of the dispatcher, of the slot `sl`. -/
def State.TokenAt (s : State) (c : Cursor) (sl : Slot) : Prop :=
  (s.ses.fsm = .lz ∧ sl = .lz s.ses.verL ∨ s.ses.fsm = .aud ∧ sl = .aud) ∧ c.atEnd = false ∧ c.bitpos < s.ses.blockEnd ∨
  s.ses.fsm = .ppm ∧ sl = .ppm s.ppm.esc ∧ c.pastEnd = false

theorem State.TokenAt.tick {sl : Slot} (hat : s.TokenAt c sl) : s.tick.TokenAt c sl := by
  rwa [State.TokenAt, s.tick_ses, s.tick_ppm]

/-- What an abandoned token has done by then neither flushes nor writes (R207). -/
theorem fetchCore_abandoned {sl : Slot} (hc : s.par.cancel = false) (htarget : s.targetReached = false)
    (hfill : refill s.cur = .ok () c) (hat : s.TokenAt c sl) (hflush : maybeFlush (s.setCur c) = .ok () u)
    (hparse : fetchParse noEffectYet sl.grammar [] u = .error (.halt h) v) :
    ∃ w, fetchCore s s = .error (.halt h) w ∧ v.Reads w := by
  have hses : u.ses = s.ses := (maybeFlush_frame hflush).ses
  have hppm : u.ppm = s.ppm := (maybeFlush_frame hflush).ppm
  obtain ⟨hfsm, hend, hpos⟩ | ⟨hf, rfl, hend⟩ := hat
  · have hcheck := blockBoundary_past htarget hfill hend hpos
    obtain ⟨hf, rfl⟩ | ⟨hf, rfl⟩ := hfsm
    · rw [fetchCore_lz hf hc, fetchLz_eq]
      obtain ⟨read, hrun⟩ := fetchToken_abandoned (fun s => lzEffectYet s.ses.verL) (g := fun s => parseLz s.ses.verL) hcheck hflush
        (by rw [hses]; exact hparse)
      exact ⟨_, hrun, lzEffectYet_reads _ _ _⟩
    · rw [fetchCore_aud hf hc, fetchAud_eq]
      obtain ⟨read, hrun⟩ := fetchToken_abandoned (fun _ => noEffectYet) (g := fun _ => parseAud) hcheck hflush hparse
      exact ⟨_, hrun, .refl v⟩
  · rw [fetchCore_ppm hf hc, fetchPpm_eq]
    obtain ⟨read, hrun⟩ := fetchToken_abandoned (fun _ => noEffectYet) (g := fun s => parsePpm s.ppm.esc)
      (ppmBoundary_past htarget hfill hend) hflush (by rw [hppm]; exact hparse)
    exact ⟨_, hrun, .refl v⟩

theorem State.TokenAt.grammar_short {sl : Slot} (hat : s.TokenAt c sl) : sl.grammar.MakesInRange Instr.Short := by
  obtain ⟨⟨-, rfl⟩ | ⟨-, rfl⟩, -⟩ | ⟨-, rfl, -⟩ := hat
  · exact parseLz_short _
  · exact parseAud_short
  · exact parsePpm_short _

/-- Reading a token neither flushes nor writes. -/
theorem State.TokenAt.reads {sl : Slot} {e : Abort} (hat : s.TokenAt c sl)
    (hparse : fetchParse noEffectYet sl.grammar [] u = .error e v) : u.Reads v :=
  ((fetchParse_reads noEffectYet_reads sl.grammar hat.grammar_short [] u).error trivial hparse).1

/-! ### The order -/

section
variable (hq : s.quiet = true) (hc : s.par.cancel = false)
include hq

theorem step_fetched_halt {f : Fatal} (hfetch : fetchCore s.tick s.tick = .error (.halt (.fatal f)) t) :
    step s = .next (t.raiseFatal f.reason f.detail) := step_of_fetchCore_halt hq hfetch

include hc

theorem step_ended (hend : s.EndsAt c) : step s = .next ((s.tick.setCur c).raiseFatal .truncated .none) :=
  step_fetched_halt hq (fetchCore_ended (by rwa [s.tick_par]) hend.tick)

/-- The dispatcher at a step's end: a failed read, with nothing output. -/
theorem step_unreadAt {f : Fatal} (hat : s.UnreadAt (.fatal f) c) :
    step s = .next ((s.tick.setCur c).raiseFatal .truncated .readFail) := by
  have hfill : ∃ d, refill d = .error (.fatal f) c := by
    obtain ⟨-, -, hfill⟩ | ⟨-, hfill⟩ := hat
    · exact ⟨_, hfill⟩
    · exact ⟨_, hfill⟩
  obtain ⟨d, hfill⟩ := hfill
  have hread : f = ⟨.truncated, .readFail⟩ := by
    obtain hread | ⟨hreset, -⟩ := refill_error _ _ _ hfill
    · exact Halt.fatal.inj hread
    · cases hreset
  subst hread
  exact step_fetched_halt hq (fetchCore_unreadAt (by rwa [s.tick_par]) hat.tick)

end

/-- Settles O56: each check where those before it have passed; and every place at which the port is asked. -/
theorem boundaryChecksComeInOrder : Obligations.BoundaryChecksComeInOrder := by
  refine ⟨fun s c hq hc hout => ?_, fun s u v c f sl hq hc => ?_⟩
  · have hpar : s.tick.par.cancel = false := by rwa [s.tick_par]
    have htrunc (hend : s.EndsAt c) : ∃ t, step s = .next t ∧ t.ses.fsm = .done ∧ t.st.kind = .failure ∧
        t.st.reason = .truncated ∧ t.st.detail = .none ∧ t.out = s.out ∧ t.win = s.win ∧ t.st.written = s.st.written :=
      ⟨_, step_ended hq hc hend, rfl, rfl, rfl, rfl, s.raised_after c _ _⟩
    refine ⟨fun htarget hf => ?_, fun htarget hf hfill hend => htrunc (.inl ⟨htarget, .inl ⟨hf, hfill, hend⟩⟩),
      fun htarget hf hfill hend => htrunc (.inl ⟨htarget, .inr (.inl ⟨hf, hfill, hend⟩)⟩),
      fun htarget hf hfill hend => htrunc (.inl ⟨htarget, .inr (.inr ⟨hf, hfill, hend⟩)⟩), fun htarget hf hfill hend hblock => ?_,
      fun hf htarget => ?_, fun hf htarget hfill hend => htrunc (.inr ⟨hf, htarget, hfill, hend⟩)⟩
    · obtain ⟨u, hu⟩ := doFlush_succeeds (s := s.tick) (by rwa [s.tick_out]) true
      have hfetch := fetchCore_target hpar (by rwa [s.tick_ses]) (by rwa [s.tick_targetReached]) hu
      exact ⟨u, _, hu, step_of_fetchCore_done hq hfetch, rfl, rfl, rfl, rfl, rfl⟩
    · obtain ⟨u, hu⟩ := doFlush_succeeds (s := s.tick.setCur c) (by rw [State.setCur_out, s.tick_out, hout]) false
      have hcheck := blockBoundary_blockEnd (by rwa [s.tick_targetReached]) (by rwa [s.tick_cur]) hend
        (by rwa [s.tick_ses]) hu
      refine ⟨u, hu, step_of_fetchCore_done (t := u.setFsm .hdr) hq ?_⟩
      simp only [List.mem_cons, List.not_mem_nil, or_false] at hf
      obtain hf | hf := hf
      · rw [fetchCore_lz (by rwa [s.tick_ses]) hpar, fetchLz_eq]
        exact fetchToken_stopped _ _ hcheck
      · rw [fetchCore_aud (by rwa [s.tick_ses]) hpar, fetchAud_eq]
        exact fetchToken_stopped _ _ hcheck
    · have hfetch := fetchCore_ppmOnly_target hpar (by rwa [s.tick_ses]) (by rwa [s.tick_st, s.tick_ses])
      rw [step_of_fetchCore_done hq hfetch, ← s.tick_st, ← s.tick_cur, ← s.tick_vm, ← s.tick_ses]
      rfl
  · have hunread (hat : s.UnreadAt (.fatal f) c) : ∃ t, step s = .next t ∧ (t.ses.fsm = .done ∧ t.st.kind = .failure ∧
        t.st.reason = .truncated ∧ t.st.detail = .readFail ∧ t.vm.fq = [] ∧ t.st.consumed = t.cur.consumedBytes) ∧
        t.out = s.out ∧ t.win = s.win ∧ t.st.written = s.st.written :=
      ⟨_, step_unreadAt hq hc hat, ⟨rfl, rfl, rfl, rfl, rfl, rfl⟩, s.raised_after c _ _⟩
    refine ⟨fun htarget hf hfill => hunread (.inl ⟨htarget, hf, hfill⟩),
      fun hseek hfill => hunread (.inr ⟨.inl (hseek.imp_left And.symm), hfill⟩),
      fun hf hopen hfill => hunread (.inr ⟨.inr (.inl ⟨hf, hopen⟩), hfill⟩),
      fun hf hfill => hunread (.inr ⟨.inr (.inr hf), hfill⟩), fun htarget hfill hat hflush hparse => ?_⟩
    have hread : f = ⟨.truncated, .readFail⟩ := by
      obtain hread | hreset : Halt.OfPort (.fatal f) := fetchParse_ofPort hparse
      · exact Halt.fatal.inj hread
      · cases hreset
    subst hread
    have hat : s.TokenAt c sl := hat
    obtain ⟨w, hfetch, hw⟩ := fetchCore_abandoned (s := s.tick) (by rwa [s.tick_par]) (by rwa [s.tick_targetReached])
      (by rwa [s.tick_cur]) hat.tick hflush hparse
    have hreads := (hat.reads hparse).trans hw
    exact ⟨_, step_fetched_halt hq hfetch, ⟨rfl, rfl, rfl, rfl, rfl, rfl⟩, hreads.out, hreads.win, hreads.written⟩

end

end Sys2Proof.Machine
end

section
/-! PROOFS. A flush into an output port that accepts (spec/48_session.md R366 to R371): one equation for each way the loop deals with the
descriptor at the head of the queue, and with them what goes out of blocks that are complete, stale or not complete
(spec/47_filtervm.md R321, R322). -/

namespace Sys2Proof.Machine

/-! ### Writing -/

/-- The machine once a port that accepts has taken what fits of `bytes` (R366). -/
def State.wrote (s : State) (bytes : List Byte) : State := { s with
  out := ⟨s.out.bytes ++ s.fitting bytes, []⟩, st := { s.st with written := s.st.written + (s.fitting bytes).length } }

/-- The machine once such a port has taken the window up to `a`. -/
def State.sent (s : State) (a : Nat) : State := (s.wrote (s.win.range s.win.tf (a - s.win.tf))).setTf a

section
variable {s : State} (hout : s.out.answers = [])
include hout

theorem emit_wrote (bytes : List Byte) : emit bytes s = .ok () (s.wrote bytes) := by
  rw [emit_accepts hout, State.wrote, ← hout]
  rfl

theorem emitUpTo_sent (a : Nat) : emitUpTo a s = .ok () (s.sent a) := emitUpTo_of_ok (emit_wrote hout _)

end

/-- What fits of two writes is what fits of both at once. -/
theorem State.wrote_wrote (s : State) (x y : List Byte) : (s.wrote x).wrote y = s.wrote (x ++ y) := by
  have hroom : s.ses.targetL - (s.st.written + (s.fitting x).length) = s.ses.targetL - s.st.written - x.length := by
    rw [State.fitting, List.length_take]
    omega
  have hfit : s.fitting (x ++ y) = s.fitting x ++ (s.wrote x).fitting y := by
    show (x ++ y).take _ = x.take _ ++ y.take (s.ses.targetL - (s.st.written + (s.fitting x).length))
    rw [hroom, List.take_append]
  have hlen : s.st.written + (s.fitting (x ++ y)).length =
      (s.wrote x).st.written + ((s.wrote x).fitting y).length := by
    rw [hfit, List.length_append, ← Nat.add_assoc]
    rfl
  simp only [State.wrote] at hfit hlen ⊢
  rw [hfit, ← hlen, List.append_assoc, hfit]

/-- The bytes of a window do not depend on what of it has gone out. -/
theorem Window.range_setTf (x : Window) (t a n : Nat) : ({ x with tf := t } : Window).range a n = x.range a n := by
  induction n generalizing a with
  | zero => rfl
  | succ n ih => rw [Window.range, Window.range, ih]; rfl

/-! ### The loop, by the descriptor at the head of the queue -/

/-- The stacked filters of `f`'s block have left this queue, these bytes, which go out, and this register file (R367). -/
def State.stacked (s : State) (f : FilterDesc) (r : List FilterDesc × List Byte × VmRegs) : State :=
  ((s.setVm { s.vm.forgetFm with fq := r.1, regs := r.2.2 }).wrote r.2.1).setTf (f.start + f.len)

/-- The stacked filters of `f`'s block run, and their output goes out (R367, R321). -/
def State.filtered (s : State) (f : FilterDesc) : State :=
  s.stacked f (runStack f.start f.len s.st.written s.vm.fq (s.win.range f.start f.len) s.vm.regs)

section
variable {s : State} {f : FilterDesc} {rest : List FilterDesc} (hq : s.vm.fq = f :: rest) {b : Nat} (final : Bool) (fuel : Nat)
include hq

/-- A stale descriptor is dropped (R369). -/
theorem flushLoop_stale (hstale : f.start < s.win.tf) :
    flushLoop final b (fuel + 1) s = flushLoop final b fuel ((s.setFq rest).note .filterDropped) := by
  refine (bind_of_ok rfl).trans ?_
  rw [hq]
  exact (congrFun (if_pos hstale) s).trans (bind_of_ok rfl)

variable (hfresh : s.win.tf ≤ f.start)
include hfresh

/-- A block that has not begun ends the loop. -/
theorem flushLoop_waiting (hwait : b ≤ f.start) : flushLoop final b (fuel + 1) s = .ok true s := by
  refine (bind_of_ok rfl).trans ?_
  rw [hq]
  dsimp only
  rw [if_neg (Nat.not_lt.2 hfresh), if_pos hwait]
  rfl

variable (hout : s.out.answers = []) (hbegun : f.start < b)
include hout hbegun

/-- A block begun and not complete is dropped by a final flush (R371). -/
theorem flushLoop_dropped (hpart : b < f.start + f.len) : flushLoop true b (fuel + 1) s =
    flushLoop true b fuel (((s.sent f.start).setFq rest).note .filterDropped) := by
  refine (bind_of_ok rfl).trans ?_
  rw [hq]
  dsimp only
  rw [if_neg (Nat.not_lt.2 hfresh), if_neg (Nat.not_le.2 hbegun), bind_of_ok (emitUpTo_sent hout f.start), get_bind, if_pos hpart]
  rfl

/-- Any other flush defers it (R368). -/
theorem flushLoop_deferred (hpart : b < f.start + f.len) : flushLoop false b (fuel + 1) s =
    .ok false ((s.sent f.start).setFq ({ f with deferred := true } :: rest)) := by
  refine (bind_of_ok rfl).trans ?_
  rw [hq]
  dsimp only
  rw [if_neg (Nat.not_lt.2 hfresh), if_neg (Nat.not_le.2 hbegun), bind_of_ok (emitUpTo_sent hout f.start), get_bind, if_pos hpart]
  rfl

/-- A complete block goes out filtered (R367). -/
theorem flushLoop_complete (hwhole : f.start + f.len ≤ b) : flushLoop final b (fuel + 1) s =
    flushLoop final b fuel ((s.sent f.start).filtered f) := by
  refine (bind_of_ok rfl).trans ?_
  rw [hq]
  dsimp only
  rw [if_neg (Nat.not_lt.2 hfresh), if_neg (Nat.not_le.2 hbegun), bind_of_ok (emitUpTo_sent hout f.start), get_bind,
    if_neg (Nat.not_lt.2 hwhole)]
  refine (bind_of_ok rfl).trans ((bind_of_ok (emit_wrote rfl _)).trans ((bind_of_ok rfl).trans ?_))
  rfl

end

/-! ### The flush, by how the loop ends -/

section
variable {s t : State}

/-- The loop stopped at a block that is not complete (R368). -/
theorem doFlush_of_stopped {final : Bool} (h : flushLoop final s.win.tw (s.vm.fq.length + 1) s = .ok false t) :
    doFlush final s = .ok () t := (bind_of_ok rfl).trans ((bind_of_ok h).trans rfl)

/-- The bytes up to `TW` go out after the loop. -/
theorem doFlush_of_reached {final : Bool} (h : flushLoop final s.win.tw (s.vm.fq.length + 1) s = .ok true t)
    (hout : t.out.answers = []) (hkept : (final && !t.vm.fq.isEmpty) = false) : doFlush final s = .ok () (t.sent s.win.tw) := by
  refine (bind_of_ok rfl).trans ((bind_of_ok h).trans ?_)
  rw [if_pos rfl, bind_of_ok (emitUpTo_sent hout _)]
  refine (bind_of_ok rfl).trans ?_
  exact congrFun (if_neg (Bool.eq_false_iff.1 hkept)) _

/-- What a final flush leaves in the queue is dropped (R371). -/
theorem doFlush_of_reached_final (h : flushLoop true s.win.tw (s.vm.fq.length + 1) s = .ok true t)
    (hout : t.out.answers = []) (hkept : t.vm.fq ≠ []) :
    doFlush true s = .ok () (((t.sent s.win.tw).setFq []).note .filterDropped) := by
  refine (bind_of_ok rfl).trans ((bind_of_ok h).trans ?_)
  rw [if_pos rfl, bind_of_ok (emitUpTo_sent hout _)]
  refine (bind_of_ok rfl).trans ?_
  exact congrFun (if_pos (by rw [show (t.sent s.win.tw).vm.fq = t.vm.fq from rfl, List.isEmpty_eq_false_iff.2 hkept]; rfl)) _

end

/-! ### A stack of filters -/

/-- Filters of one block all run, each on the output of the one before it (R321). -/
theorem runStack_all {start len written : Nat} {q : List FilterDesc} (h : ∀ f ∈ q, f.start = start ∧ f.len = len) (buf : List Byte)
    (regs : VmRegs) : runStack start len written q buf regs =
      ([], q.foldl (fun b f => transform f.kind (f.loadRegs written) b) buf, q.foldl (fun _ f => f.loadRegs written) regs) := by
  induction q generalizing buf regs with
  | nil => rfl
  | cons g t ih =>
    obtain ⟨hg, ht⟩ := List.forall_mem_cons.1 h
    rw [runStack, if_pos hg, ih ht]
    rfl

theorem length_foldl_transform (regs : FilterDesc → VmRegs) (q : List FilterDesc) (buf : List Byte) :
    (q.foldl (fun b f => transform f.kind (regs f) b) buf).length = buf.length := by
  induction q generalizing buf with
  | nil => rfl
  | cons f t ih => rw [List.foldl_cons, ih, length_transform]

/-! ### A block that is complete (R367, R321, R322, R443) -/

theorem foldl_const_append_singleton {α β : Type} (g : α → β) (l : List α) (a : α) (b : β) :
    (l ++ [a]).foldl (fun _ x => g x) b = g a := by
  rw [List.foldl_append]
  rfl

theorem setIfInBounds_eq_set {α : Type} {n i : Nat} (v : Vector α n) (x : α) (h : i < n) :
    v.setIfInBounds i x = v.set i x h := by
  ext j hj
  rw [Vector.getElem_setIfInBounds, Vector.getElem_set]

/-- The register file a filter runs with (R322), where `n` bytes were written before its block. -/
theorem FilterDesc.loadRegs_eq (f : FilterDesc) (n : Nat) : f.loadRegs n =
    ((f.regs.set 4 (BitVec.ofNat 32 f.len)).set 6 (BitVec.ofNat 32 n)).set 7 262144#32 := by
  rw [FilterDesc.loadRegs, setIfInBounds_eq_set _ _ (by decide), setIfInBounds_eq_set _ _ (by decide),
    setIfInBounds_eq_set _ _ (by decide)]
  rfl

/-- The window's bytes go out with the block `f` through the filters of `q`. -/
def State.flushedBytes (s : State) (f : FilterDesc) (q : List FilterDesc) (written : Nat) : List Byte :=
  s.win.range s.win.tf (f.start - s.win.tf) ++
    q.foldl (fun b f => transform f.kind (f.loadRegs written) b) (s.win.range f.start f.len) ++
    s.win.range (f.start + f.len) (s.win.tw - (f.start + f.len))

section
variable {s : State} {f : FilterDesc}

theorem State.length_flushedBytes (q : List FilterDesc) (n : Nat) (hstart : s.win.tf ≤ f.start) (hend : f.start + f.len ≤ s.win.tw) :
    (s.flushedBytes f q n).length = s.win.tw - s.win.tf := by
  simp only [State.flushedBytes, List.length_append, length_foldl_transform, Window.length_range]
  omega

/-- The state after a flush in which the block of the whole queue is complete. -/
theorem doFlush_complete {rest : List FilterDesc} (hout : s.out.answers = []) (hq : s.vm.fq = f :: rest)
    (hall : ∀ g ∈ s.vm.fq, g.start = f.start ∧ g.len = f.len) (hstart : s.win.tf ≤ f.start) (hend : f.start + f.len ≤ s.win.tw)
    (hlen : 1 ≤ f.len) (final : Bool) :
    let written := s.st.written + (s.fitting (s.win.range s.win.tf (f.start - s.win.tf))).length
    ∃ u, doFlush final s = .ok () u ∧ u.win.tf = s.win.tw ∧ u.vm.fq = [] ∧
      u.vm.regs = s.vm.fq.foldl (fun _ g => g.loadRegs written) s.vm.regs ∧ u.st.events = s.st.events ∧
      u.st.written = (s.wrote (s.flushedBytes f s.vm.fq written)).st.written ∧
      u.out = (s.wrote (s.flushedBytes f s.vm.fq written)).out := by
  intro written
  have hloop := flushLoop_complete hq final s.vm.fq.length hstart hout (by omega) hend
  have hstack : (s.sent f.start).filtered f = (s.sent f.start).stacked f ([],
      s.vm.fq.foldl (fun b g => transform g.kind (g.loadRegs written) b) (s.win.range f.start f.len),
      s.vm.fq.foldl (fun _ g => g.loadRegs written) s.vm.regs) := by
    have hrange : (s.sent f.start).win.range f.start f.len = s.win.range f.start f.len := s.win.range_setTf _ _ _
    rw [State.filtered, hrange]
    exact congrArg (State.stacked _ f) (runStack_all (written := written) hall _ _)
  rw [hstack] at hloop
  have hafter := s.win.range_setTf (f.start + f.len) (f.start + f.len) (s.win.tw - (f.start + f.len))
  have hsent := ((s.wrote (s.win.range s.win.tf (f.start - s.win.tf))).wrote_wrote
    (s.vm.fq.foldl (fun b g => transform g.kind (g.loadRegs written) b) (s.win.range f.start f.len))
    (s.win.range (f.start + f.len) (s.win.tw - (f.start + f.len)))).trans (s.wrote_wrote _ _)
  rw [← List.append_assoc] at hsent
  refine ⟨_, doFlush_of_reached (hloop.trans (flushLoop_no_filter rfl final _ _)) rfl (Bool.and_false final), rfl, rfl, rfl, rfl,
    ?_, ?_⟩
  · rw [State.flushedBytes, ← hsent, ← hafter]
    rfl
  · rw [State.flushedBytes, ← hsent, ← hafter]
    rfl

/-! ### A block that is not complete (R368, R371) -/

/-- Nothing else of the machine changes but what a flush of raw bytes up to `a` writes, and the queue. -/
theorem State.sent_sent (s : State) {a b : Nat} (ha : s.win.tf ≤ a) (hb : a ≤ b) : (s.sent a).sent b = s.sent b := by
  have hbytes : s.win.range s.win.tf (b - s.win.tf) =
      s.win.range s.win.tf (a - s.win.tf) ++ s.win.range a (b - a) := by
    have hadd := s.win.range_add s.win.tf (a - s.win.tf) (b - a)
    rwa [show a - s.win.tf + (b - a) = b - s.win.tf by omega, Nat.add_sub_cancel' ha] at hadd
  have hrange : (s.sent a).win.range a (b - a) = s.win.range a (b - a) := s.win.range_setTf _ _ _
  have hwrote := s.wrote_wrote (s.win.range s.win.tf (a - s.win.tf)) (s.win.range a (b - a))
  have hsent : s.sent b = (s.wrote (s.win.range s.win.tf (b - s.win.tf))).setTf b := rfl
  show ((s.sent a).wrote ((s.sent a).win.range a (b - a))).setTf b = _
  rw [hrange, hsent, hbytes, ← hwrote]
  rfl

section
variable (hout : s.out.answers = []) (hq : s.vm.fq = [f]) (hstart : s.win.tf ≤ f.start) (hpart : s.win.tw < f.start + f.len)
include hout hq hstart hpart

theorem doFlush_final_incomplete :
    doFlush true s = .ok () (((s.sent s.win.tw).setFq []).note .filterDropped) := by
  by_cases hbegun : f.start < s.win.tw
  · have hloop := flushLoop_dropped hq s.vm.fq.length hstart hout hbegun hpart
    have hflush := doFlush_of_reached (hloop.trans (flushLoop_no_filter rfl true _ _)) rfl rfl
    rw [hflush, ← s.sent_sent hstart hbegun.le]
    rfl
  · have hloop := flushLoop_waiting hq true s.vm.fq.length hstart (Nat.not_lt.1 hbegun)
    exact doFlush_of_reached_final hloop hout (by rw [hq]; exact List.cons_ne_nil _ _)

theorem doFlush_incomplete (hbegun : f.start < s.win.tw) :
    doFlush false s = .ok () ((s.sent f.start).setFq [{ f with deferred := true }]) :=
  doFlush_of_stopped (flushLoop_deferred hq s.vm.fq.length hstart hout hbegun hpart)

end

/-- A stale descriptor is dropped from the queue, whatever the port does (R369). -/
theorem doFlush_stale {rest : List FilterDesc} (hq : s.vm.fq = f :: rest) (hstale : f.start < s.win.tf) (final : Bool) :
    doFlush final s = doFlush final ((s.setFq rest).note .filterDropped) := by
  have hloop : flushLoop final s.win.tw (s.vm.fq.length + 1) s = flushLoop final s.win.tw (rest.length + 1)
      ((s.setFq rest).note .filterDropped) := by
    rw [flushLoop_stale hq final _ hstale, hq]
    rfl
  unfold doFlush
  rw [get_bind, get_bind]
  cases h : flushLoop final s.win.tw (s.vm.fq.length + 1) s with
  | ok go t =>
    refine (bind_of_ok h).trans (Eq.symm ?_)
    exact bind_of_ok (hloop.symm.trans h)
  | error e t =>
    refine (bind_error h).trans (Eq.symm ?_)
    exact bind_error (hloop.symm.trans h)

theorem State.length_fitting (s : State) (bytes : List Byte) :
    (s.fitting bytes).length = min bytes.length (s.ses.targetL - s.st.written) := by
  rw [State.fitting, List.length_take, Nat.min_comm]

/-- Settles O49: the equations of the loop for a block that is complete, stale, or not complete. -/
theorem completeFilterBlockIsTransformed : Obligations.CompleteFilterBlockIsTransformed := by
  refine ⟨fun s final start len fs last hout hq hall hstart hend hlen _ => ?_, fun s final f rest hq hstale => ?_,
    fun s f hout hq hstart _ hpart => ⟨⟨_, doFlush_final_incomplete hout hq hstart hpart, rfl⟩,
      fun hbegun => ⟨_, doFlush_incomplete hout hq hstart hpart hbegun, rfl⟩⟩⟩
  · obtain ⟨f, rest, hcons⟩ := List.exists_cons_of_ne_nil (List.append_ne_nil_of_right_ne_nil fs (List.cons_ne_nil last []))
    obtain ⟨rfl, rfl⟩ := hall f (hcons ▸ List.mem_cons_self)
    obtain ⟨u, hflush, htf, hempty, hregs, hevents, hwritten, hbytes⟩ :=
      doFlush_complete hout (hq.trans hcons) (hq ▸ hall) hstart hend hlen final
    have hbefore : (s.fitting (s.win.range s.win.tf (f.start - s.win.tf))).length =
        min (f.start - s.win.tf) (s.ses.targetL - s.st.written) := by
      rw [s.length_fitting, Window.length_range]
    have hload (g : FilterDesc) (hg : g ∈ fs ++ [last]) (n : Nat) : g.loadRegs n =
        ((g.regs.set 4 (BitVec.ofNat 32 f.len)).set 6 (BitVec.ofNat 32 n)).set 7 262144#32 := by
      rw [g.loadRegs_eq, (hall g hg).2]
    have hlast : last ∈ fs ++ [last] := List.mem_append_right fs (List.mem_singleton_self last)
    rw [hbefore, hq] at hregs hwritten hbytes
    rw [foldl_const_append_singleton, hload last hlast] at hregs
    refine ⟨u, hflush, htf, hempty, hregs, hevents, ?_, ?_⟩
    · show u.st.written = s.st.written + min (s.win.tw - s.win.tf) (s.ses.targetL - s.st.written)
      rw [hwritten, State.wrote, s.length_fitting, s.length_flushedBytes _ _ hstart hend]
    · rw [hbytes, State.wrote, State.fitting, State.flushedBytes]
      refine congrArg (fun block => s.out.bytes ++ List.take _ (_ ++ block ++ _)) ?_
      exact List.foldl_ext _ _ _ fun b g hg => by rw [hload g hg]
  · exact doFlush_stale hq hstale final

end

end Sys2Proof.Machine
end

section
/-! PROOFS. What a flush leaves pending (spec/48_session.md R367, R368, R371), and the room `maybe_flush` makes for a token (R360,
R372). -/

namespace Sys2Proof.Machine

/-! ### Where the loop ends (R367, R368) -/

/-- The loop has stopped at a block that began before `b` and is not complete, which it deferred. -/
def State.StoppedAt (s : State) (b : Nat) : Prop :=
  ∃ f ∈ s.vm.fq.head?, f.deferred = true ∧ s.win.tf = f.start ∧ f.start < b ∧ b < f.start + f.len

/-- How the loop ends: at a boundary that no filter waits before, or, if the flush is not final, at a deferred block. -/
def State.LoopEnds (s : State) (final : Bool) (b : Nat) : Bool → Prop
  | true => ∀ f ∈ s.vm.fq.head?, b ≤ f.start
  | false => final = false ∧ s.StoppedAt b

/-- The stack of a block takes at least the descriptor it was begun for. -/
theorem runStack_head_length (f : FilterDesc) (rest : List FilterDesc) (n : Nat) (buf : List Byte) (regs : VmRegs) :
    (runStack f.start f.len n (f :: rest) buf regs).1.length ≤ rest.length := by
  rw [runStack, if_pos ⟨rfl, rfl⟩]
  exact runStack_length _ _ _ _ _ _

theorem flushLoop_ends {final : Bool} {b fuel : Nat} {s t : State} {go : Bool} (hout : s.out.answers = [])
    (hfuel : s.vm.fq.length < fuel) (h : flushLoop final b fuel s = .ok go t) : t.LoopEnds final b go := by
  induction fuel generalizing s with
  | zero => exact absurd hfuel (Nat.not_lt_zero _)
  | succ fuel ih =>
    cases hq : s.vm.fq with
    | nil =>
      rw [flushLoop_no_filter hq] at h
      cases h
      intro f hf
      rw [hq] at hf
      cases hf
    | cons f rest =>
      have hrest : rest.length < fuel := by
        rw [hq, List.length_cons] at hfuel
        omega
      by_cases hstale : f.start < s.win.tf
      · rw [flushLoop_stale hq final fuel hstale] at h
        exact ih (s := (s.setFq rest).note .filterDropped) hout hrest h
      have hfresh := Nat.not_lt.1 hstale
      by_cases hwait : b ≤ f.start
      · rw [flushLoop_waiting hq final fuel hfresh hwait] at h
        cases h
        intro g hg
        rw [hq] at hg
        cases hg
        exact hwait
      have hbegun := Nat.not_le.1 hwait
      by_cases hpart : b < f.start + f.len
      · cases final with
        | true =>
          rw [flushLoop_dropped hq fuel hfresh hout hbegun hpart] at h
          exact ih rfl hrest h
        | false =>
          rw [flushLoop_deferred hq fuel hfresh hout hbegun hpart] at h
          cases h
          exact ⟨rfl, _, rfl, rfl, rfl, hbegun, hpart⟩
      · rw [flushLoop_complete hq final fuel hfresh hout hbegun (Nat.not_lt.1 hpart)] at h
        refine ih rfl ?_ h
        have hstack := runStack_head_length f rest (s.sent f.start).st.written ((s.sent f.start).win.range f.start f.len) s.vm.regs
        rw [← hq] at hstack
        exact lt_of_le_of_lt hstack hrest

/-! ### What a flush leaves (R367, R368, R371) -/

section
variable {s u : State} {final : Bool}

/-- A final flush has put out all and leaves no filter; any other has put out all and leaves only filters that wait, or stands at
a deferred block. -/
theorem doFlush_leaves (hout : s.out.answers = []) (h : doFlush final s = .ok () u) :
    (final = true → u.win.tf = s.win.tw ∧ u.vm.fq = []) ∧
    (final = false → (u.win.tf = s.win.tw ∧ ∀ f ∈ u.vm.fq.head?, s.win.tw ≤ f.start) ∨ u.StoppedAt s.win.tw) := by
  cases hloop : flushLoop final s.win.tw (s.vm.fq.length + 1) s with
  | error e t => exact ((flushLoop_completes final s.win.tw _ s).error hout hloop).2.elim
  | ok go t =>
    have hends := flushLoop_ends hout (Nat.lt_succ_self _) hloop
    have hanswers : t.out.answers = [] := ((flushLoop_completes final s.win.tw _ s).ok hout hloop).1 hout
    cases go with
    | false =>
      obtain ⟨rfl, hstop⟩ := hends
      cases (doFlush_of_stopped hloop).symm.trans h
      exact ⟨Bool.noConfusion, fun _ => .inr hstop⟩
    | true =>
      cases hkept : final && !t.vm.fq.isEmpty with
      | false =>
        cases (doFlush_of_reached hloop hanswers hkept).symm.trans h
        refine ⟨?_, fun _ => .inl ⟨rfl, hends⟩⟩
        rintro rfl
        exact ⟨rfl, show t.vm.fq = [] by simpa using hkept⟩
      | true =>
        obtain ⟨rfl, hne⟩ := Bool.and_eq_true_iff.1 hkept
        have hne : t.vm.fq ≠ [] := by simpa using hne
        cases (doFlush_of_reached_final hloop hanswers hne).symm.trans h
        exact ⟨fun _ => ⟨rfl, rfl⟩, Bool.noConfusion⟩

theorem doFlush_frame (h : doFlush final s = .ok () u) : FlushFrame s u := by
  have hframe := FlushFrame.doFlush final s
  rwa [h] at hframe

/-- The output and what `WRITTEN` counts of it. -/
theorem doFlush_outputs (hout : s.out.answers = []) (h : doFlush final s = .ok () u) :
    ∃ more, u.out = ⟨s.out.bytes ++ more, []⟩ ∧ u.st.written = s.st.written + more.length := by
  have hframe := doFlush_frame h
  have hanswers : u.out.answers = [] := ((doFlush_completes final s).ok hout h).1 hout
  obtain ⟨more, hmore⟩ := hframe.grows
  obtain ⟨-, hcount⟩ := hframe.counted (by rw [hout]; rfl)
  rw [hmore, List.length_append] at hcount
  refine ⟨more, ?_, by omega⟩
  rw [← hmore, ← hanswers]

/-- With no filter waiting the flush is one write of the pending bytes. -/
theorem doFlush_sent (hout : s.out.answers = []) (hq : s.vm.fq = []) (h : doFlush final s = .ok () u) : u = s.sent s.win.tw := by
  rw [doFlush_no_filter hq, emitUpTo_sent hout] at h
  cases h
  rfl

end

/-! ### `maybe_flush` (R360, R372) -/

section
variable {s u : State}

theorem State.windowFull_iff : s.windowFull = true ↔ s.win.w - 258 < s.win.tw - s.win.tf := decide_eq_true_iff

theorem State.windowFull_eq_false_iff : s.windowFull = false ↔ s.win.tw - s.win.tf ≤ s.win.w - 258 := by
  rw [← Bool.not_eq_true, State.windowFull_iff, Nat.not_lt]

theorem maybeFlush_fits (h : s.windowFull = false) : maybeFlush s = .ok () s := by
  refine (bind_of_ok rfl).trans ?_
  rw [if_neg (Bool.eq_false_iff.1 h)]
  rfl

theorem maybeFlush_full (h : s.windowFull = true) (hflush : doFlush false s = .ok () u) :
    maybeFlush s = dropUntilFits u.vm.fq.length u := by
  refine (bind_of_ok rfl).trans ?_
  rw [if_pos h]
  exact (bind_of_ok hflush).trans (bind_of_ok rfl)

theorem dropUntilFits_fits (fuel : Nat) (h : s.windowFull = false ∨ s.vm.fq = []) : dropUntilFits fuel s = .ok () s := by
  cases fuel with
  | zero => rfl
  | succ fuel =>
    refine (bind_of_ok rfl).trans ?_
    rw [if_neg (by obtain h | h := h <;> simp [h])]
    rfl

/-- The head of the queue is dropped, and the flush goes on (R372). -/
theorem dropUntilFits_drops {f : FilterDesc} {rest : List FilterDesc} (fuel : Nat) (hfull : s.windowFull = true)
    (hq : s.vm.fq = f :: rest) :
    dropUntilFits (fuel + 1) s = (doFlush false >>= fun _ => dropUntilFits fuel) ((s.setFq rest).note .filterDropped) := by
  refine (bind_of_ok rfl).trans ?_
  rw [if_pos (by simp [hfull, hq]), hq]
  rfl

/-- The loop needs no more rounds than there are filters. -/
theorem dropUntilFits_fuel {m n : Nat} (hm : s.vm.fq.length ≤ m) (hn : s.vm.fq.length ≤ n) :
    dropUntilFits m s = dropUntilFits n s := by
  induction m generalizing n s with
  | zero =>
    have hq : s.vm.fq = [] := List.length_eq_zero_iff.1 (Nat.le_zero.1 hm)
    rw [dropUntilFits_fits 0 (.inr hq), dropUntilFits_fits n (.inr hq)]
  | succ m ih =>
    cases hfull : s.windowFull with
    | false => rw [dropUntilFits_fits _ (.inl hfull), dropUntilFits_fits _ (.inl hfull)]
    | true =>
      cases hq : s.vm.fq with
      | nil => rw [dropUntilFits_fits _ (.inr hq), dropUntilFits_fits _ (.inr hq)]
      | cons f rest =>
        rw [hq, List.length_cons] at hm hn
        obtain ⟨n, rfl⟩ : ∃ k, n = k + 1 := ⟨n - 1, by omega⟩
        rw [dropUntilFits_drops m hfull hq, dropUntilFits_drops n hfull hq]
        cases hflush : doFlush false ((s.setFq rest).note .filterDropped) with
        | error e t => rw [bind_error hflush, bind_error hflush]
        | ok _ t =>
          have hqueue : t.vm.fq.length ≤ rest.length := (doFlush_frame hflush).queue
          rw [bind_of_ok hflush, bind_of_ok hflush]
          exact ih (by omega) (by omega)

/-- A flush that leaves the window too full leaves a filter; with that one dropped `maybe_flush` begins again. -/
theorem maybeFlush_drops (h : s.windowFull = true) (hflush : doFlush false s = .ok () u) (hfull : u.windowFull = true) :
    ∃ f rest, u.vm.fq = f :: rest ∧ maybeFlush s = maybeFlush ((u.setFq rest).note .filterDropped) := by
  cases hq : u.vm.fq with
  | nil =>
    rw [State.not_windowFull (flush_all hflush hq)] at hfull
    cases hfull
  | cons f rest =>
    have hagain : ((u.setFq rest).note .filterDropped).windowFull = true := hfull
    refine ⟨f, rest, rfl, ?_⟩
    rw [maybeFlush_full h hflush, hq, List.length_cons, dropUntilFits_drops _ hfull hq]
    cases hnext : doFlush false ((u.setFq rest).note .filterDropped) with
    | error e t =>
      rw [bind_error hnext]
      refine ((bind_of_ok rfl).trans ?_).symm
      rw [if_pos hagain]
      exact bind_error hnext
    | ok _ t =>
      have hqueue : t.vm.fq.length ≤ rest.length := (doFlush_frame hnext).queue
      rw [bind_of_ok hnext, maybeFlush_full hagain hnext]
      exact dropUntilFits_fuel hqueue (Nat.le_refl _)

theorem dropUntilFits_completes (fuel : Nat) (s : State) : acceptContract.Holds (dropUntilFits fuel) s := by
  induction fuel generalizing s with
  | zero => exact .pure trivial
  | succ fuel ih =>
    refine .get ?_
    split
    · exact .bind (.set id) fun _ t _ => .bind (doFlush_completes false t) fun _ u _ => ih u
    · exact .pure trivial

theorem maybeFlush_completes (s : State) : acceptContract.Holds maybeFlush s := by
  refine .get ?_
  split
  · exact .bind (doFlush_completes false s) fun _ t _ => .get (dropUntilFits_completes _ t)
  · exact .pure trivial

theorem maybeFlush_succeeds (hout : s.out.answers = []) : ∃ u, maybeFlush s = .ok () u := by
  cases hx : maybeFlush s with
  | ok _ u => exact ⟨u, rfl⟩
  | error e t => exact ((maybeFlush_completes s).error hout hx).2.elim

end

/-- Settles O48: how the loop of the flush ends, and the dropping loop of `maybe_flush`. -/
theorem flushLeavesNothingReadyPending : Obligations.FlushLeavesNothingReadyPending := by
  refine ⟨fun s final hout htf => ?_, fun s hout htf _ => ⟨fun hfits => ?_, fun hfull => ?_, ?_⟩⟩
  · obtain ⟨u, hu⟩ := doFlush_succeeds hout final
    obtain ⟨more, hbytes, hwritten⟩ := doFlush_outputs hout hu
    obtain ⟨hfinal, hother⟩ := doFlush_leaves hout hu
    have hframe := doFlush_frame hu
    have hdrains := ((doFlush_drains final s).ok trivial hu).1
    refine ⟨u, more, hu, hbytes, hwritten, hframe.target, hframe.win, (hdrains.tf htf).1, (hdrains.tf htf).2.trans_eq hdrains.tw,
      hfinal, hother, fun hq => ?_, hframe.cur, hframe.tabs, hframe.tok, hframe.par, hframe.ppm, hframe.rc, hframe.sa, hframe.ses,
      hframe.host⟩
    cases doFlush_sent hout hq hu
    exact ⟨(List.append_cancel_left (congrArg OutPort.bytes hbytes)).symm, rfl, rfl⟩
  · exact maybeFlush_fits (State.windowFull_eq_false_iff.2 hfits)
  · have hfull := State.windowFull_iff.2 hfull
    obtain ⟨u, hu⟩ := doFlush_succeeds hout false
    refine ⟨u, hu, fun hfits => ?_, fun hstill => maybeFlush_drops hfull hu (State.windowFull_iff.2 hstill)⟩
    rw [maybeFlush_full hfull hu]
    exact dropUntilFits_fits _ (.inl (State.windowFull_eq_false_iff.2 hfits))
  · obtain ⟨u, hu⟩ := maybeFlush_succeeds hout
    have hdrains := ((maybeFlush_drains s).ok trivial hu).1
    exact ⟨u, hu, State.windowFull_eq_false_iff.1 (maybeFlush_room hu), (maybeFlush_frame hu).win, (hdrains.tf htf).1,
      (hdrains.tf htf).2.trans_eq hdrains.tw⟩

end Sys2Proof.Machine
end
